-- ==== Sys2Proof/Word.lean ====
section
/-! DEFINITION. The word types of the Penevezel instruction set (02_encoding R20, 05_integer R115): bytes, 32-bit registers, 64-bit pairs and 64-byte lines. -/
namespace Sys2Proof

/-- One byte of memory. -/
abbrev Byte := BitVec 8

/-- One vector register of one lane (R115), and one instruction word (R20). -/
abbrev Word := BitVec 32

/-- A 64-bit register pair (R29), an address of the g space (R183). -/
abbrev Dword := BitVec 64

end Sys2Proof
end

