-- ==== Sys2Proof/Machine/Flags.lean ====
section
/-! DEFINITION. The exception flags of FPCTL (04_system R93, 06_arithmetic R144), at their places in FPCTL, the rounding modes, and the result of a lane-wise function. -/
namespace Sys2Proof.Machine

/-- NV, FPCTL bit 3. -/
def flagNV : BitVec 8 := 0x08#8
/-- DZ, FPCTL bit 4. -/
def flagDZ : BitVec 8 := 0x10#8
/-- OF, FPCTL bit 5. -/
def flagOF : BitVec 8 := 0x20#8
/-- UF, FPCTL bit 6. -/
def flagUF : BitVec 8 := 0x40#8
/-- NX, FPCTL bit 7. -/
def flagNX : BitVec 8 := 0x80#8

/-- A flag when a condition holds, else no flag. -/
def flagIf (p : Bool) (f : BitVec 8) : BitVec 8 := if p then f else 0

/-- Rounding modes: the four of FPCTL.RM (R142) and round-to-odd (R152). -/
inductive Mode where
  | rne | rz | ru | rd | ro
  deriving DecidableEq, Repr

/-- FPCTL.RM (R93). -/
def modeOf (fpctl : Word) : Mode :=
  match fpctl.toNat % 4 with
  | 0 => .rne
  | 1 => .rz
  | 2 => .ru
  | _ => .rd

/-- FPCTL.FTZ (R93). -/
def ftzOf (fpctl : Word) : Bool := fpctl.toNat / 4 % 2 = 1

/-- FPCTL after an SWR (R93, R114): RM and FTZ are written, a one in a flag position clears the flag, the reserved bits read zero. -/
def fpctlWrite (old v : Word) : Word :=
  (v &&& 0x7#32) ||| (old &&& ~~~v &&& 0xF8#32)

/-- What a lane-wise function reads in one lane: the values of A, B and D (a 32-bit operand in the low half), the guard, and FPCTL at issue. -/
structure LaneIn where
  a : Dword
  b : Dword
  d : Dword
  g : Bool
  fp : Word
  deriving DecidableEq, Repr

/-- What it delivers: the value for D (a predicate in bit 0), the flags it raises, and the format word it refuses (R147). -/
structure LaneOut where
  v : Dword
  flags : BitVec 8 := 0
  bad : Option Word := none
  deriving DecidableEq, Repr

/-- The 32-bit value of operand A. -/
def LaneIn.aw (q : LaneIn) : Word := q.a.setWidth 32
/-- The 32-bit value of operand B. -/
def LaneIn.bw (q : LaneIn) : Word := q.b.setWidth 32
/-- The 32-bit value of operand D. -/
def LaneIn.dw (q : LaneIn) : Word := q.d.setWidth 32

/-- A 32-bit result without flags. -/
def outW (w : Word) : LaneOut := { v := w.setWidth 64 }
/-- A 64-bit result without flags. -/
def outD (w : Dword) : LaneOut := { v := w }
/-- A predicate result without flags. -/
def outP (p : Bool) : LaneOut := { v := if p then 1 else 0 }
/-- A pair result {hi, lo} without flags. -/
def outPair (lo hi : Word) : LaneOut := { v := hi ++ lo }

end Sys2Proof.Machine
end

