-- ==== Sys2Proof/Machine/IntFns.lean ====
section
/-! DEFINITION. The lane-wise integer functions (05_integer R126 to R139): one pure function of the operand values per instruction. -/
namespace Sys2Proof.Machine

/-- Sat32 (R132): y clamped to the signed 32-bit range. -/
def sat32 (y : Int) : Word :=
  if y < -(2 ^ 31) then 0x80000000#32 else if y > 2 ^ 31 - 1 then 0x7FFFFFFF#32 else BitVec.ofInt 32 y

/-- Byte k of a word (R126). -/
def byteOf (w : Word) (k : Nat) : Byte := w.extractLsb' (8 * k) 8
/-- Half k of a word (R126). -/
def halfOf (w : Word) (k : Nat) : BitVec 16 := w.extractLsb' (16 * k) 16

/-- IADD (R132). -/
def fnIadd (q : LaneIn) : LaneOut := outW (q.aw + q.bw)
/-- ISUB (R132). -/
def fnIsub (q : LaneIn) : LaneOut := outW (q.aw - q.bw)
/-- IMUL (R132). -/
def fnImul (q : LaneIn) : LaneOut := outW (q.aw * q.bw)
/-- IMULH.i (R132): bits 63:32 of the signed product. -/
def fnImulhI (q : LaneIn) : LaneOut := outW ((BitVec.ofInt 64 (q.aw.toInt * q.bw.toInt)).extractLsb' 32 32)
/-- IMULH.n (R132). -/
def fnImulhN (q : LaneIn) : LaneOut := outW (BitVec.ofNat 32 (q.aw.toNat * q.bw.toNat / 2 ^ 32))
/-- INEG (R132). -/
def fnIneg (q : LaneIn) : LaneOut := outW (-q.aw)
/-- IABS (R132); 0x8000_0000 gives itself. -/
def fnIabs (q : LaneIn) : LaneOut := outW (if q.aw.msb then -q.aw else q.aw)
/-- IADD.sat (R132). -/
def fnIaddSat (q : LaneIn) : LaneOut := outW (sat32 (q.aw.toInt + q.bw.toInt))
/-- ISUB.sat (R132). -/
def fnIsubSat (q : LaneIn) : LaneOut := outW (sat32 (q.aw.toInt - q.bw.toInt))
/-- IMIN.i (R132). -/
def fnIminI (q : LaneIn) : LaneOut := outW (if q.aw.toInt ≤ q.bw.toInt then q.aw else q.bw)
/-- IMIN.n (R132). -/
def fnIminN (q : LaneIn) : LaneOut := outW (if q.aw.toNat ≤ q.bw.toNat then q.aw else q.bw)
/-- IMAX.i (R132). -/
def fnImaxI (q : LaneIn) : LaneOut := outW (if q.aw.toInt ≥ q.bw.toInt then q.aw else q.bw)
/-- IMAX.n (R132). -/
def fnImaxN (q : LaneIn) : LaneOut := outW (if q.aw.toNat ≥ q.bw.toNat then q.aw else q.bw)
/-- IADD64 (R132). -/
def fnIadd64 (q : LaneIn) : LaneOut := outD (q.a + q.b)
/-- ISUB64 (R132). -/
def fnIsub64 (q : LaneIn) : LaneOut := outD (q.a - q.b)
/-- LEA (R132): the pair plus the signed 32-bit B. -/
def fnLea (q : LaneIn) : LaneOut := outD (q.a + q.bw.signExtend 64)

/-- IMAD (R133). -/
def fnImad (q : LaneIn) : LaneOut := outW (q.aw * q.bw + q.dw)
/-- IMADW.i (R133). -/
def fnImadwI (q : LaneIn) : LaneOut := outD (q.d + BitVec.ofInt 64 (q.aw.toInt * q.bw.toInt))
/-- IMADW.n (R133). -/
def fnImadwN (q : LaneIn) : LaneOut := outD (q.d + BitVec.ofNat 64 (q.aw.toNat * q.bw.toNat))
/-- IACCW (R133). -/
def fnIaccw (q : LaneIn) : LaneOut := outD (q.d + BitVec.ofInt 64 (q.aw.toInt + q.bw.toInt))
/-- IDOT4.i8 (R133). -/
def fnIdot4I8 (q : LaneIn) : LaneOut :=
  outW (q.dw + BitVec.ofInt 32 ([0, 1, 2, 3].foldl (fun acc k => acc + (byteOf q.aw k).toInt * (byteOf q.bw k).toInt) 0))
/-- IDOT4.n8 (R133). -/
def fnIdot4N8 (q : LaneIn) : LaneOut :=
  outW (q.dw + BitVec.ofNat 32 ([0, 1, 2, 3].foldl (fun acc k => acc + (byteOf q.aw k).toNat * (byteOf q.bw k).toNat) 0))
/-- IDOT2.i16 (R133). -/
def fnIdot2I16 (q : LaneIn) : LaneOut :=
  outW (q.dw + BitVec.ofInt 32 ([0, 1].foldl (fun acc k => acc + (halfOf q.aw k).toInt * (halfOf q.bw k).toInt) 0))
/-- ISAD (R133). -/
def fnIsad (q : LaneIn) : LaneOut :=
  outW (q.dw + BitVec.ofNat 32 ([0, 1, 2, 3].foldl
    (fun acc k => acc + ((Int.ofNat (byteOf q.aw k).toNat - Int.ofNat (byteOf q.bw k).toNat).natAbs)) 0))

/-- AND (R126, table of 0x0B). -/
def fnAnd (q : LaneIn) : LaneOut := outW (q.aw &&& q.bw)
/-- OR. -/
def fnOr (q : LaneIn) : LaneOut := outW (q.aw ||| q.bw)
/-- XOR. -/
def fnXor (q : LaneIn) : LaneOut := outW (q.aw ^^^ q.bw)
/-- ANDN. -/
def fnAndn (q : LaneIn) : LaneOut := outW (q.aw &&& ~~~q.bw)
/-- ORN. -/
def fnOrn (q : LaneIn) : LaneOut := outW (q.aw ||| ~~~q.bw)
/-- NOT. -/
def fnNot (q : LaneIn) : LaneOut := outW (~~~q.aw)
/-- MOV. -/
def fnMov (q : LaneIn) : LaneOut := outW q.bw
/-- SEL (R134). -/
def fnSel (q : LaneIn) : LaneOut := outW (if q.g then q.aw else q.bw)
/-- MOVI: SignExtend32 of the 12 bits {A, B} (table of 0x0F). -/
def fnMovi (a b : BitVec 6) (_ : LaneIn) : LaneOut := outW ((a ++ b : BitVec 12).signExtend 32)
/-- MOVH: {B[15:0], D[15:0]}. -/
def fnMovh (q : LaneIn) : LaneOut := outW ((q.bw.extractLsb' 0 16) ++ (q.dw.extractLsb' 0 16))
/-- MOV64. -/
def fnMov64 (q : LaneIn) : LaneOut := outD q.b

/-- SHL (R137). -/
def fnShl (q : LaneIn) : LaneOut := outW (if q.bw.toNat < 32 then q.aw <<< q.bw.toNat else 0)
/-- SHR (R137). -/
def fnShr (q : LaneIn) : LaneOut := outW (if q.bw.toNat < 32 then q.aw >>> q.bw.toNat else 0)
/-- SAR (R137). -/
def fnSar (q : LaneIn) : LaneOut := outW (q.aw.sshiftRight (min q.bw.toNat 32))
/-- ROL (R137). -/
def fnRol (q : LaneIn) : LaneOut := outW (q.aw.rotateLeft (q.bw.toNat % 32))
/-- ROR (R137). -/
def fnRor (q : LaneIn) : LaneOut := outW (q.aw.rotateRight (q.bw.toNat % 32))
/-- SHL64 (R137): the amount is the single register B. -/
def fnShl64 (q : LaneIn) : LaneOut := outD (if q.bw.toNat < 64 then q.a <<< q.bw.toNat else 0)
/-- SHR64 (R137). -/
def fnShr64 (q : LaneIn) : LaneOut := outD (if q.bw.toNat < 64 then q.a >>> q.bw.toNat else 0)
/-- SAR64 (R137). -/
def fnSar64 (q : LaneIn) : LaneOut := outD (q.a.sshiftRight (min q.bw.toNat 64))

/-- The number of one bits among bits 0 to n-1. -/
def popBelow (w : Word) : Nat → Nat
  | 0 => 0
  | n + 1 => popBelow w n + (if w.getLsbD n then 1 else 0)
/-- The length of the run of zero bits from bit n-1 downwards. -/
def lzBelow (w : Word) : Nat → Nat
  | 0 => 0
  | n + 1 => if w.getLsbD n then 0 else 1 + lzBelow w n
/-- The length of the run of zero bits from bit k upwards, over n bits. -/
def tzFrom (w : Word) (k : Nat) : Nat → Nat
  | 0 => 0
  | n + 1 => if w.getLsbD k then 0 else 1 + tzFrom w (k + 1) n

/-- POPC (R138). -/
def fnPopc (q : LaneIn) : LaneOut := outW (BitVec.ofNat 32 (popBelow q.aw 32))
/-- CLZ (R138). -/
def fnClz (q : LaneIn) : LaneOut := outW (BitVec.ofNat 32 (lzBelow q.aw 32))
/-- CTZ (R138). -/
def fnCtz (q : LaneIn) : LaneOut := outW (BitVec.ofNat 32 (tzFrom q.aw 0 32))
/-- BREV (R138). -/
def fnBrev (q : LaneIn) : LaneOut := outW q.aw.reverse
/-- BSWP (R138). -/
def fnBswp (q : LaneIn) : LaneOut := outW (byteOf q.aw 0 ++ byteOf q.aw 1 ++ byteOf q.aw 2 ++ byteOf q.aw 3)

/-- The position p of a field control (R138). -/
def fieldPos (b : Word) : Nat := b.toNat % 32
/-- The effective length L = min(len, 32 - p) of a field control, len = min(B[13:8], 32) (R138). -/
def fieldLen (b : Word) : Nat := min (min (b.toNat / 2 ^ 8 % 64) 32) (32 - fieldPos b)

/-- BFX.n (R138). -/
def fnBfxN (q : LaneIn) : LaneOut :=
  outW (BitVec.ofNat 32 (q.aw.toNat / 2 ^ fieldPos q.bw % 2 ^ fieldLen q.bw))
/-- BFX.i (R138): sign-extended from bit L-1 of the field, 0 when L is 0. -/
def fnBfxI (q : LaneIn) : LaneOut :=
  let l := fieldLen q.bw
  let x := q.aw.toNat / 2 ^ fieldPos q.bw % 2 ^ l
  outW (if l = 0 then 0 else if 2 ^ (l - 1) ≤ x then BitVec.ofInt 32 (Int.ofNat x - 2 ^ l) else BitVec.ofNat 32 x)
/-- BFI (R138): the low L bits of A into D at p; the bits of D outside the field stay. -/
def fnBfi (q : LaneIn) : LaneOut :=
  let p := fieldPos q.bw
  let m : Word := BitVec.ofNat 32 ((2 ^ fieldLen q.bw - 1) * 2 ^ p)
  outW ((q.dw &&& ~~~m) ||| ((q.aw <<< p) &&& m))

/-- ISET.EQ (R139). -/
def fnIsetEq (q : LaneIn) : LaneOut := outP (q.aw = q.bw)
/-- ISET.NE. -/
def fnIsetNe (q : LaneIn) : LaneOut := outP (q.aw ≠ q.bw)
/-- ISET.LT.i. -/
def fnIsetLtI (q : LaneIn) : LaneOut := outP (q.aw.toInt < q.bw.toInt)
/-- ISET.LE.i. -/
def fnIsetLeI (q : LaneIn) : LaneOut := outP (q.aw.toInt ≤ q.bw.toInt)
/-- ISET.LT.n. -/
def fnIsetLtN (q : LaneIn) : LaneOut := outP (q.aw.toNat < q.bw.toNat)
/-- ISET.LE.n. -/
def fnIsetLeN (q : LaneIn) : LaneOut := outP (q.aw.toNat ≤ q.bw.toNat)
/-- ISET.TST. -/
def fnIsetTst (q : LaneIn) : LaneOut := outP (q.aw &&& q.bw ≠ 0)
/-- PMOV (R128). -/
def fnPmov (q : LaneIn) : LaneOut := outP (q.aw ≠ 0)

/-- IDXSET (R135): bits 13:8 are held as zero (R117). -/
def fnIdxset (q : LaneIn) : LaneOut := { v := (q.bw &&& 0xC0FF#32).setWidth 64 }
/-- IDXADD (R135) of the index register value x. -/
def idxAdd (x : BitVec 16) (b : Word) : BitVec 16 :=
  (x &&& 0xC000#16) ||| BitVec.ofNat 16 ((x.toNat % 256 + b.toNat % 256) % 256)

end Sys2Proof.Machine
end

