-- ==== Sys2Proof/Syntax.lean ====
section
/-! DEFINITION. The instructions: one constructor for each row of spec/opcode_table.json, the 221 instruction words of the PVZ opcode map (02_encoding R28, R41) and the 126 steps of the machine's other agents (95_what_each_step_holds). -/
namespace Sys2Proof

/-- The fields of an R-format word (R28); op and FN are fixed by the constructor. -/
structure RF where
  /-- chain bit C, bit 31 -/
  c : Bool
  d : BitVec 6
  a : BitVec 6
  b : BitVec 6
  /-- transient bit T, bit 3 -/
  t : Bool
  pg : BitVec 3
  deriving DecidableEq, Repr

/-- The fields of an X-, M- or T-format word (R28). In the M format b holds W (5:3) and S (2:0), in the T format AOP (5:2) and AW (1:0). -/
structure XF where
  c : Bool
  d : BitVec 6
  a : BitVec 6
  b : BitVec 6
  la : BitVec 4
  pg : BitVec 3
  deriving DecidableEq, Repr

/-- The fields of a B-format word (R28). -/
structure BF where
  c : Bool
  off : BitVec 22
  pg : BitVec 3
  deriving DecidableEq, Repr

/-- A remote load, store, atomic or reduction arriving over the fabric (R324). kind: 0 load, 1 store, 2 atomic, 3 reduction. -/
structure RemoteAccess where
  pod : Nat
  device : Nat
  tag : Nat
  asid : Nat
  va : Nat
  kind : Nat
  size : Nat
  aop : Nat
  aw : Nat
  data : List Byte
  op2 : List Byte
  deriving DecidableEq, Repr

/-- A bulk packet arriving over the fabric (R330). op: 0 put, 1 get, 2 reduction; count: contributed bytes (R320); marks: ranges of the payload that arrive marked poisoned, offset and length (R100). -/
structure BulkPacket where
  pod : Nat
  device : Nat
  tag : Nat
  asid : Nat
  op : Nat
  red : Nat
  va : Nat
  len : Nat
  count : Nat
  raise : Option Nat
  data : List Byte
  marks : List (Nat × Nat) := []
  deriving DecidableEq, Repr

/-- An RSTV message (R340): the sender (within the device the name of its home gang, R341), target name, register, lane mask, one value for each of the 32 lanes, poison of the values and the release stamp of R343. -/
structure Message where
  tag : Nat
  sender : Nat
  name : Dword
  reg : Nat
  mask : BitVec 32
  vals : List Word
  psn : BitVec 32
  tm : Option Nat
  rel : Bool
  deriving DecidableEq, Repr

/-- The instruction set. -/
inductive Instr where
  /-- EXT (R31). Prefix word that supplies a 32-bit immediate, a byte offset or extra fields to the instruction word that follows it in the packet. -/
  | ext (x : BitVec 25)
  /-- NOP (R109). Occupies the CTL pipe for one ac and has no effect. -/
  | nop (f : RF)
  /-- BKPT (R110). Raises a breakpoint debug event with tag k in the guarded lanes; the resume point is the next instruction. -/
  | bkpt (f : RF)
  /-- YIELD (R111). Completes at once; its split then gives way to other ready splits for 16 ac. -/
  | yield (f : RF)
  /-- EXIT (R112). Ends the slice, completes its stores and atomics, releases its holds, and frees gang and pack resources when it is the last slice. -/
  | exit (f : RF)
  /-- TRAP (R110). Raises a software trap with code k in the guarded lanes; the resume point is the next instruction. -/
  | trap (f : RF)
  /-- RTT (R113). Leaves the trap handler and resumes at TRAPPC and WORD, only in the TRAPLANES lanes when RPL is set. -/
  | rtt (f : RF)
  /-- SRD (R114). Reads a special register into vD in each active lane, latching CLKHI or CYCHI on reads of the low halves. -/
  | srd (f : RF)
  /-- SWR (R114). Writes a special register from the lowest active lane, with per-register effects and traps. -/
  | swr (f : RF)
  /-- BR_ANY (R81). Branches each slice whose guard holds in any live lane, dividing the split when slices disagree. -/
  | brAny (f : BF)
  /-- BR_ALL (R81). Branches each slice whose guard holds in all live lanes, dividing the split when slices disagree. -/
  | brAll (f : BF)
  /-- CALL (R83). Pushes the return packet address onto lane 0's lane-private stack, lowers SPTOP by 8 and jumps to the target. -/
  | call (f : BF)
  /-- JMPR (R84). Jumps to the packet address held in a register pair of the lowest guarded lane. -/
  | jmpr (f : RF)
  /-- CALLR (R84). Calls the packet address held in a register pair, pushing the return address onto lane 0's stack. -/
  | callr (f : RF)
  /-- RET (R84). Pops the return address from lane 0's lane-private stack, raises SPTOP by 8 and jumps there. -/
  | ret (f : RF)
  /-- REGANG (R86). Makes the slice arrive and wait at a meet that rejoins its gang (mode 0) or regroups the pack's slices into new gangs (mode 1). -/
  | regang (f : RF)
  /-- SPAWN (R88). Appends one record per sending lane to the die's bin of a work-graph node, optionally after a die-scope release. -/
  | spawn (f : RF)
  /-- SPILL (R89). Saves a register range into each guarded lane's lane-private window below SPTOP and lowers SPTOP. -/
  | spill (f : RF)
  /-- FILL (R89). Reloads a register range from each guarded lane's lane-private window at SPTOP and raises SPTOP. -/
  | fill (f : RF)
  /-- PAND (R128). Writes the AND of two predicates in each active lane. -/
  | pand (f : RF)
  /-- POR (R128). Writes the OR of two predicates in each active lane. -/
  | por (f : RF)
  /-- PXOR (R128). Writes the XOR of two predicates in each active lane. -/
  | pxor (f : RF)
  /-- PNOT (R128). Writes the negation of a predicate in each active lane. -/
  | pnot (f : RF)
  /-- VOTE_ANY (R128). Writes in every active lane whether the predicate holds in any active lane of the split. -/
  | voteAny (f : RF)
  /-- VOTE_ALL (R128). Writes in every active lane whether the predicate holds in all active lanes of the split. -/
  | voteAll (f : RF)
  /-- BALLOT (R128). Writes the mask of active lanes whose predicate holds into vD of every active lane. -/
  | ballot (f : RF)
  /-- PMOV (R128). Sets a predicate to whether the vector register is nonzero in each active lane. -/
  | pmov (f : RF)
  /-- SHFL_IDX (R129). Reads A from the source lane given by an index, or its own value when that lane is outside the active mask. -/
  | shflIdx (f : RF)
  /-- SHFL_UP (R129). Reads A from lane n minus B, or its own value when that lane is not a valid source. -/
  | shflUp (f : RF)
  /-- SHFL_DOWN (R129). Reads A from lane n plus B, or its own value when that lane is not a valid source. -/
  | shflDown (f : RF)
  /-- SHFL_XOR (R129). Reads A from lane n xor B, or its own value when that lane is not a valid source. -/
  | shflXor (f : RF)
  /-- LSWZ (R129). Reads A from a lane of the same slice chosen by a 2-bit field of B per lane. -/
  | lswz (f : RF)
  /-- GRED_IADD (R130). Writes the 32-bit wrapped sum of A over the active lanes into every active lane. -/
  | gredIadd (f : RF)
  /-- GRED_FMAX (R130). Writes the FP32 maximum of A over the active lanes into every active lane. -/
  | gredFmax (f : RF)
  /-- GSCAN_IADD (R130). Writes the inclusive prefix sum of A over the active lanes into each active lane. -/
  | gscanIadd (f : RF)
  /-- IADD (R132). Adds two 32-bit integers modulo 2^32. -/
  | iadd (f : RF)
  /-- ISUB (R132). Subtracts two 32-bit integers modulo 2^32. -/
  | isub (f : RF)
  /-- IMUL (R132). Writes the low 32 bits of the product. -/
  | imul (f : RF)
  /-- IMULH_I (R132). Writes the high 32 bits of the signed 64-bit product. -/
  | imulhI (f : RF)
  /-- IMULH_N (R132). Writes the high 32 bits of the unsigned 64-bit product. -/
  | imulhN (f : RF)
  /-- INEG (R132). Negates a 32-bit integer modulo 2^32. -/
  | ineg (f : RF)
  /-- IABS (R132). Writes the absolute value of a signed integer, wrapping for the most negative value. -/
  | iabs (f : RF)
  /-- IADD_SAT (R132). Adds two signed integers with saturation to 32 bits. -/
  | iaddSat (f : RF)
  /-- IMIN_I (R132). Writes the signed minimum. -/
  | iminI (f : RF)
  /-- IMIN_N (R132). Writes the unsigned minimum. -/
  | iminN (f : RF)
  /-- IMAX_I (R132). Writes the signed maximum. -/
  | imaxI (f : RF)
  /-- IMAX_N (R132). Writes the unsigned maximum. -/
  | imaxN (f : RF)
  /-- IADD64 (R132). Adds two 64-bit register pairs modulo 2^64. -/
  | iadd64 (f : RF)
  /-- ISUB64 (R132). Subtracts two 64-bit register pairs modulo 2^64. -/
  | isub64 (f : RF)
  /-- LEA (R132). Adds a signed 32-bit value to a 64-bit pair. -/
  | lea (f : RF)
  /-- ISUB_SAT (R132). Subtracts two signed integers with saturation to 32 bits. -/
  | isubSat (f : RF)
  /-- IMAD (R133). Multiplies A by B and adds D modulo 2^32. -/
  | imad (f : RF)
  /-- IMADW_I (R133). Adds the signed product of A and B to the 64-bit pair D. -/
  | imadwI (f : RF)
  /-- IMADW_N (R133). Adds the unsigned product of A and B to the 64-bit pair D. -/
  | imadwN (f : RF)
  /-- IACCW (R133). Adds signed A and B to the 64-bit pair D. -/
  | iaccw (f : RF)
  /-- IDOT4_I8 (R133). Adds the signed 4-byte dot product of A and B to D. -/
  | idot4I8 (f : RF)
  /-- IDOT4_N8 (R133). Adds the unsigned 4-byte dot product of A and B to D. -/
  | idot4N8 (f : RF)
  /-- IDOT2_I16 (R133). Adds the signed 2-halfword dot product of A and B to D. -/
  | idot2I16 (f : RF)
  /-- ISAD (R133). Adds the sum of absolute byte differences of A and B to D. -/
  | isad (f : RF)
  /-- AND (R126). Writes the bitwise AND of A and B. -/
  | and (f : RF)
  /-- OR (R126). Writes the bitwise OR of A and B. -/
  | or (f : RF)
  /-- XOR (R126). Writes the bitwise XOR of A and B. -/
  | xor (f : RF)
  /-- ANDN (R126). Writes A AND NOT B. -/
  | andn (f : RF)
  /-- ORN (R126). Writes A OR NOT B. -/
  | orn (f : RF)
  /-- NOT (R126). Writes the bitwise complement of A. -/
  | not (f : RF)
  /-- MOV (R126). Copies B, or an immediate, into D. -/
  | mov (f : RF)
  /-- SEL (R134). In every lane of the active mask writes A when the selector predicate holds and B otherwise. -/
  | sel (f : RF)
  /-- SHL (R137). Shifts A left by B, giving 0 for amounts of 32 or more. -/
  | shl (f : RF)
  /-- SHR (R137). Shifts A right logically by B. -/
  | shr (f : RF)
  /-- SAR (R137). Shifts A right arithmetically by B. -/
  | sar (f : RF)
  /-- ROL (R137). Rotates A left by B mod 32. -/
  | rol (f : RF)
  /-- ROR (R137). Rotates A right by B mod 32. -/
  | ror (f : RF)
  /-- SHL64 (R137). Shifts a 64-bit pair left by B. -/
  | shl64 (f : RF)
  /-- SHR64 (R137). Shifts a 64-bit pair right logically by B. -/
  | shr64 (f : RF)
  /-- SAR64 (R137). Shifts a 64-bit pair right arithmetically by B. -/
  | sar64 (f : RF)
  /-- POPC (R138). Counts the one bits of A. -/
  | popc (f : RF)
  /-- CLZ (R138). Counts the leading zero bits of A. -/
  | clz (f : RF)
  /-- CTZ (R138). Counts the trailing zero bits of A. -/
  | ctz (f : RF)
  /-- BREV (R138). Reverses the bit order of A. -/
  | brev (f : RF)
  /-- BFX_I (R138). Extracts a bit field of A with sign extension. -/
  | bfxI (f : RF)
  /-- BFX_N (R138). Extracts a bit field of A with zero extension. -/
  | bfxN (f : RF)
  /-- BFI (R138). Inserts the low bits of A into a field of D. -/
  | bfi (f : RF)
  /-- BSWP (R138). Reverses the byte order of A. -/
  | bswp (f : RF)
  /-- ISET_EQ (R139). Sets a predicate to A = B. -/
  | isetEq (f : RF)
  /-- ISET_NE (R139). Sets a predicate to A not equal to B. -/
  | isetNe (f : RF)
  /-- ISET_LT_I (R139). Sets a predicate to signed A < B. -/
  | isetLtI (f : RF)
  /-- ISET_LE_I (R139). Sets a predicate to signed A <= B. -/
  | isetLeI (f : RF)
  /-- ISET_LT_N (R139). Sets a predicate to unsigned A < B. -/
  | isetLtN (f : RF)
  /-- ISET_LE_N (R139). Sets a predicate to unsigned A <= B. -/
  | isetLeN (f : RF)
  /-- ISET_TST (R139). Sets a predicate to (A AND B) nonzero. -/
  | isetTst (f : RF)
  /-- MOVI (R126). Writes a sign-extended 12-bit immediate held in the A and B fields. -/
  | movi (f : RF)
  /-- MOVH (R126). Replaces the high half of D with the low half of B. -/
  | movh (f : RF)
  /-- MOV64 (R126). Copies a 64-bit pair. -/
  | mov64 (f : RF)
  /-- IDXSET (R135). Writes an index register's window and index from B. -/
  | idxset (f : RF)
  /-- IDXADD (R135). Adds B to the index of xA modulo 256, keeping its window. -/
  | idxadd (f : RF)
  /-- WINSET (R136). Sets a window descriptor's base and length from the lowest active lane, trapping on invalid values. -/
  | winset (f : RF)
  /-- UNIF (R140). Writes 1 when the uniform tag of register A is set for the slice, else 0. -/
  | unif (f : RF)
  /-- FADD (R165). Adds two FP32 values with one rounding under FPCTL. -/
  | fadd (f : RF)
  /-- FSUB (R165). Subtracts two FP32 values with one rounding. -/
  | fsub (f : RF)
  /-- FMUL (R165). Multiplies two FP32 values with one rounding. -/
  | fmul (f : RF)
  /-- FMIN (R166). Writes the FP32 minimum under the FMax rule reversed. -/
  | fmin (f : RF)
  /-- FMAX (R166). Writes the FP32 maximum under the FMax rule. -/
  | fmax (f : RF)
  /-- FABS (R166). Clears the sign bit of A, giving the canonical NaN for a NaN. -/
  | fabs (f : RF)
  /-- FNEG (R166). Inverts the sign bit of A, giving the canonical NaN for a NaN. -/
  | fneg (f : RF)
  /-- FCPYS (R166). Writes A with the sign of B. -/
  | fcpys (f : RF)
  /-- FFMA (R167). Computes A times B plus D with one rounding. -/
  | ffma (f : RF)
  /-- FFMS (R167). Computes A times B minus D with one rounding. -/
  | ffms (f : RF)
  /-- FNMA (R167). Computes D minus A times B with one rounding. -/
  | fnma (f : RF)
  /-- TWOSUM (R168). Writes the RNE sum of A and B and its exact error into a pair. -/
  | twosum (f : RF)
  /-- FTSUM (R169). Folds A plus B into the compensated pair D:D+1 as one accumulator group step. -/
  | ftsum (f : RF)
  /-- TWOPROD (R168). Writes the RNE product of A and B and its error into a pair. -/
  | twoprod (f : RF)
  /-- FSET_EQ (R170). Sets a predicate to FP32 A = B. -/
  | fsetEq (f : RF)
  /-- FSET_NE (R170). Sets a predicate to FP32 A not equal to B, true for NaN. -/
  | fsetNe (f : RF)
  /-- FSET_LT (R170). Sets a predicate to FP32 A < B. -/
  | fsetLt (f : RF)
  /-- FSET_LE (R170). Sets a predicate to FP32 A <= B. -/
  | fsetLe (f : RF)
  /-- FSET_UNORD (R170). Sets a predicate when A or B is NaN. -/
  | fsetUnord (f : RF)
  /-- FSET_ORD (R170). Sets a predicate when neither A nor B is NaN. -/
  | fsetOrd (f : RF)
  /-- FSET_CLASS (R171). Sets a predicate when the class of A is in the mask B. -/
  | fsetClass (f : RF)
  /-- FRCP (R172). Writes the correctly rounded reciprocal of A. -/
  | frcp (f : RF)
  /-- FRSQ (R172). Writes a faithful reciprocal square root of A. -/
  | frsq (f : RF)
  /-- FSQRT (R172). Writes the correctly rounded square root of A. -/
  | fsqrt (f : RF)
  /-- FEXP2 (R172). Writes 2 to the power A within 2 ulp. -/
  | fexp2 (f : RF)
  /-- FLOG2 (R172). Writes log2 of A. -/
  | flog2 (f : RF)
  /-- FSIN (R172). Writes sin A in radians. -/
  | fsin (f : RF)
  /-- FCOS (R172). Writes cos A in radians. -/
  | fcos (f : RF)
  /-- FTANH (R172). Writes tanh A within 2 ulp. -/
  | ftanh (f : RF)
  /-- HADD2_BF16 (R174). Adds two packed BF16 pairs element-wise. -/
  | hadd2Bf16 (f : RF)
  /-- HMUL2_BF16 (R174). Multiplies two packed BF16 pairs element-wise. -/
  | hmul2Bf16 (f : RF)
  /-- HFMA2_BF16 (R174). Fused multiply-add on packed BF16 pairs with D as addend. -/
  | hfma2Bf16 (f : RF)
  /-- HADD2_F16 (R174). Adds two packed F16 pairs element-wise. -/
  | hadd2F16 (f : RF)
  /-- HMUL2_F16 (R174). Multiplies two packed F16 pairs element-wise. -/
  | hmul2F16 (f : RF)
  /-- HFMA2_F16 (R174). Fused multiply-add on packed F16 pairs with D as addend. -/
  | hfma2F16 (f : RF)
  /-- HMAX2_BF16 (R174). Element-wise maximum of packed BF16 pairs. -/
  | hmax2Bf16 (f : RF)
  /-- HMIN2_BF16 (R174). Element-wise minimum of packed BF16 pairs. -/
  | hmin2Bf16 (f : RF)
  /-- DADD (R175). Adds two FP64 pairs. -/
  | dadd (f : RF)
  /-- DSUB (R175). Subtracts two FP64 pairs. -/
  | dsub (f : RF)
  /-- DMUL (R175). Multiplies two FP64 pairs. -/
  | dmul (f : RF)
  /-- DFMA (R175). FP64 fused multiply-add with D as addend. -/
  | dfma (f : RF)
  /-- DMIN (R175). FP64 minimum. -/
  | dmin (f : RF)
  /-- DMAX (R175). FP64 maximum. -/
  | dmax (f : RF)
  /-- DSET_LT (R175). Sets a predicate to FP64 A < B. -/
  | dsetLt (f : RF)
  /-- DSET_EQ (R175). Sets a predicate to FP64 A = B. -/
  | dsetEq (f : RF)
  /-- CVT_F32_I32 (R176). Converts a signed integer to FP32 under the rounding selector. -/
  | cvtF32I32 (f : RF)
  /-- CVT_F32_N32 (R176). Converts an unsigned integer to FP32 under the rounding selector. -/
  | cvtF32N32 (f : RF)
  /-- CVT_I32_F32 (R177). Converts FP32 to a saturated signed integer. -/
  | cvtI32F32 (f : RF)
  /-- CVT_N32_F32 (R177). Converts FP32 to a saturated unsigned integer. -/
  | cvtN32F32 (f : RF)
  /-- CVT_F32_F64 (R176). Rounds an FP64 pair to FP32. -/
  | cvtF32F64 (f : RF)
  /-- CVT_F64_F32 (R176). Converts FP32 exactly to an FP64 pair. -/
  | cvtF64F32 (f : RF)
  /-- CVT_BF16X2_F32 (R176). Rounds two FP32 values into a packed BF16 pair. -/
  | cvtBf16x2F32 (f : RF)
  /-- CVT_F16X2_F32 (R176). Rounds two FP32 values into a packed F16 pair. -/
  | cvtF16x2F32 (f : RF)
  /-- UNPK_BF16X2 (R176). Unpacks a BF16 pair exactly into two FP32 registers. -/
  | unpkBf16x2 (f : RF)
  /-- UNPK_F16X2 (R176). Unpacks an F16 pair exactly into two FP32 registers. -/
  | unpkF16x2 (f : RF)
  /-- CVT_F64_I32 (R176). Converts a signed integer exactly to FP64. -/
  | cvtF64I32 (f : RF)
  /-- CVT_I32_F64 (R177). Converts FP64 to a saturated signed integer. -/
  | cvtI32F64 (f : RF)
  /-- PACK_I8X4 (R178). Packs four signed values into bytes with signed saturation. -/
  | packI8x4 (f : RF)
  /-- PACK_N8X4 (R178). Packs four signed values into bytes with unsigned saturation. -/
  | packN8x4 (f : RF)
  /-- UNPK_I8X4 (R178). Sign-extends two selected bytes of A into a pair. -/
  | unpkI8x4 (f : RF)
  /-- UNPK_N8X4 (R178). Zero-extends two selected bytes of A into a pair. -/
  | unpkN8x4 (f : RF)
  /-- QNT (R179). Quantises an FP32 value to a code of the format word, using the scale byte in D. -/
  | qnt (f : RF)
  /-- DQNT (R179). Decodes a code of the format word to FP32, using the scale byte in D. -/
  | dqnt (f : RF)
  /-- QPACK (R181). Packs eight 4-bit codes from the byte containers of A and B. -/
  | qpack (f : RF)
  /-- QUNPK (R181). Unpacks eight 4-bit codes into byte containers of a pair. -/
  | qunpk (f : RF)
  /-- SEGSCL (R180). Chooses the scale byte of a segment from its largest magnitude. -/
  | segscl (f : RF)
  /-- FMTCHK (R182). Tests a format word for validity and writes the result without trapping. -/
  | fmtchk (f : RF)
  /-- LD (R208). Loads from the g, s, c or l space into registers in each active lane after bounds, alignment and translation checks. -/
  | ld (f : XF)
  /-- ST (R208). Stores registers to the g, s, c or l space in each active lane, highest lane winning on overlap. -/
  | st (f : XF)
  /-- LD_NT (R210). Global load that is not allocated in the L1. -/
  | ldNt (f : XF)
  /-- ST_NT (R210). Global store that is not allocated in the L1. -/
  | stNt (f : XF)
  /-- LDFE (R261). Waits until the scratchpad word is full, then loads it and marks it empty. -/
  | ldfe (f : XF)
  /-- STFE (R261). Stores to a scratchpad word and marks it full, after a release. -/
  | stfe (f : XF)
  /-- PF (R213). Requests the line into the L1 or L2 as a lease copy, never trapping. -/
  | pf (f : XF)
  /-- CMO_CLEAN (R214). Writes the line back to its tier when the home holds it dirty. -/
  | cmoClean (f : XF)
  /-- CMO_INV (R214). Drops lease copies of the line in the core's L1 and a non-home L2. -/
  | cmoInv (f : XF)
  /-- CMO_CLEANINV (R214). Cleans the line and then drops its copies. -/
  | cmoCleaninv (f : XF)
  /-- ATOM_G (R248). Atomic read-modify-write of a global location at its performing point, returning the old value. -/
  | atomG (f : XF)
  /-- ATOM_S (R248). Atomic read-modify-write of a word of the own scratchpad, returning the old value. -/
  | atomS (f : XF)
  /-- ATOM_C (R248). Atomic read-modify-write of a word of a cluster-set scratchpad, returning the old value. -/
  | atomC (f : XF)
  /-- RED_G (R248). Global reduction performed at the location's performing point without returning a value. -/
  | redG (f : XF)
  /-- BARA (R253). Arrives at a pack barrier register after Release(pk) and returns the phase at arrival. -/
  | bara (f : RF)
  /-- BARW (R254). Waits while the barrier's phase equals the given value. -/
  | barw (f : RF)
  /-- BARAW (R253). Arrives at a barrier and waits for that phase to complete. -/
  | baraw (f : RF)
  /-- BARINIT (R254). Sets the barrier's expected count, completing the phase at once when CNT already reaches it. -/
  | barinit (f : RF)
  /-- GBAR (R257). Releases at dev scope, arrives at a launch group and waits for the group's phase to complete. -/
  | gbar (f : RF)
  /-- BARQ (R253). Reads the whole barrier register. -/
  | barq (f : RF)
  /-- ARRV_INIT (R259). Sets an arrival word's TARGET and clears COUNT. -/
  | arrvInit (f : RF)
  /-- ARRV_ADD (R259). Releases at pk scope and raises an arrival word by an amount in each active lane. -/
  | arrvAdd (f : RF)
  /-- AWAIT (R259). Waits while arrival words still hold the given generations, then acquires. -/
  | await (f : RF)
  /-- AWAIT_T (R259). As AWAIT with a timeout, writing per lane whether the generation moved. -/
  | awaitT (f : RF)
  /-- ARRV_RD (R259). Reads an arrival word into a pair. -/
  | arrvRd (f : RF)
  /-- FENCE_ACQ (R227). Acquire at the named scope: waits for earlier loads and raises ck to OBSV. -/
  | fenceAcq (f : RF)
  /-- FENCE_REL (R227). Release at the named scope: waits for earlier accesses and raises ck to maxws. -/
  | fenceRel (f : RF)
  /-- FENCE_AR (R227). Release followed by acquire at the named scope. -/
  | fenceAr (f : RF)
  /-- FENCE_SP (R229). Full fence whose gang runs ahead in a checkpointed window that is validated or rolled back. -/
  | fenceSp (f : RF)
  /-- IFENCE (R235). Acquires and discards the instruction cache and fetched packets. -/
  | ifence (f : RF)
  /-- PBAR (R239). Ends the slice's persist epoch so later persist-writes are accepted after earlier ones at the scope. -/
  | pbar (f : RF)
  /-- PSYNC (R240). Waits until the slice's earlier persist-writes in scope have been accepted. -/
  | psync (f : RF)
  /-- MMA (R279). Votes the operand descriptors and enters the matrix engine to multiply-accumulate into a tile row block by row block. -/
  | mma (f : XF)
  /-- MZERO (R281). Sets the tile rows of the active lanes to (+0, +0) and clears their poison. -/
  | mzero (f : XF)
  /-- MRD (R282). Reads four tile columns of the lane's two rows as hi, lo or rounded sum. -/
  | mrd (f : XF)
  /-- MWR (R282). Writes four tile columns of the lane's two rows with lo cleared. -/
  | mwr (f : XF)
  /-- MDRAIN (R284). Converts tile rows to an output format and writes them, optionally transposed and cleared, behind the watermark. -/
  | mdrain (f : XF)
  /-- MFENCE (R286). Waits until the pack's accepted stores are performed so later MMAs and MTLDs see them. -/
  | mfence (f : RF)
  /-- MWAIT (R287). Waits until every earlier matrix instruction on the named tiles has ended. -/
  | mwait (f : RF)
  /-- MWM (R288). Waits until the tile's watermark reaches a row count. -/
  | mwm (f : RF)
  /-- MTLD (R289). Loads an 8 x 32 block of words transposed across the lanes through the operand pipes. -/
  | mtld (f : RF)
  /-- MSTAT (R290). Reads the tile's state word without waiting. -/
  | mstat (f : RF)
  /-- CPY (R312). Checks a copy descriptor from the leader lane and accepts a Marten copy into a queue, returning its token. -/
  | cpy (f : XF)
  /-- CPYM (R309). Accepts a multicast copy into several scratchpads of the cluster set after taking free slots. -/
  | cpym (f : XF)
  /-- CPYSTG (R313). Raises the pack's stage counter, firing static schedule entries. -/
  | cpystg (f : RF)
  /-- CPYSTG_RET (R313). Returns multicast free slots to the engine of a core of the cluster. -/
  | cpystgRet (f : RF)
  /-- CPYTST (R314). Reads the status of a copy token, with the completion clock action when done. -/
  | cpytst (f : RF)
  /-- CPYWT (R314). Waits until the copy tokens leave pending, then traps if any faulted. -/
  | cpywt (f : RF)
  /-- CPYQ (R315). Reads a copy queue's status and latest completed token, clearing FLT. -/
  | cpyq (f : RF)
  /-- CPYCNL (R316). Cancels the pack's uncompleted copies named by tokens. -/
  | cpycnl (f : RF)
  /-- RPUT (R333). Checks and sends a bulk put of local bytes to a remote VA through a capability. -/
  | rput (f : XF)
  /-- RGET (R333). Checks and sends a bulk get of remote bytes into local memory. -/
  | rget (f : XF)
  /-- RRED (R333). Checks and sends a bulk reduction of local elements into a remote buffer. -/
  | rred (f : XF)
  /-- RSTV (R345). Sends a register message to a named gang through a KIND 2 capability. -/
  | rstv (f : RF)
  /-- RRCV (R344). Arms receive holds on up to eight registers of the slice. -/
  | rrcv (f : RF)
  /-- NAME (R338). Writes the 64-bit name of the slice's home gang. -/
  | name (f : RF)
  /-- RSTAT (R346). Waits for the slice's remote operations to settle, then reads and clears RSTATUS. -/
  | rstat (f : RF)
  /-- MEET_ENTRY_FREE (R57). A completed meet or regroup that waited for a free split entry or placement takes it and forms its gang. -/
  | meetEntryFree (pack : Nat)
  /-- PARTIAL_GANG_TIMER (R59). When the oldest waiting mode 1 slice has waited 256 ac, the waiting slices form a partial gang. -/
  | partialGangTimer (pack : Nat)
  /-- HELD_SET_EXCHANGE (R54). After 4,096 ac the top held set and the running split exchange places. -/
  | heldSetExchange (entry : Nat)
  /-- SPLIT_PROMOTION (R66). A ready split passed over for 4,096 ac is promoted ahead of unpromoted splits. -/
  | splitPromotion (entry : Nat)
  /-- BIN_TIMER (R77). When the oldest record has waited the node's timer, the bin launches a gang of all its records. -/
  | binTimer (bin : Nat)
  /-- SPAWN_ROOM (R80). A waiting SPAWN appends its records once its bin has room. -/
  | spawnRoom (slice : Nat)
  /-- TOKEN_GRANT (R19). A freed power token is granted to the waiting engine by priority and age. -/
  | tokenGrant (die : Nat)
  /-- MMA_ENGINE_START (R265). A waiting MMA enters the engine once the pending slot frees and a token is held. -/
  | mmaEngineStart (quad : Nat)
  /-- MMA_BLOCK_END (R267). A row block's engine time ends, its rows are written and the watermark rises. -/
  | mmaBlockEnd (quad : Nat)
  /-- MMA_RESUME (R275). A parked MMA whose fault is resolved re-enters the engine and continues from its watermark. -/
  | mmaResume (id : Nat)
  /-- MMA_SUSPEND (R276). An unresolvable operand fault drops the MMA and traps its slices at their next group boundary. -/
  | mmaSuspend (id : Nat)
  /-- REFILL_ACCEPT (R308). A refill entry is accepted once every covered MMA has signalled consumption. -/
  | refillAccept (pack entry : Nat)
  /-- COPY_QUEUE_SPACE (R292). A copy-class instruction waiting for queue space or free slots proceeds when room appears. -/
  | copyQueueSpace (slice : Nat)
  /-- CHUNK_START (R294). Each ac the Marten engine picks a ready chunk round-robin, translating its pages first. -/
  | chunkStart (core queue : Nat)
  /-- COPY_QUEUE_RESUME (R302). A parked copy queue resumes at its chunk when the fault is resolved. -/
  | copyQueueResume (core queue : Nat)
  /-- CHUNK_END (R293). A chunk's writes have been performed. -/
  | chunkEnd (core queue : Nat)
  /-- COPY_COMPLETE (R301). A copy's writes are all performed; the engine records status, arrives at a barrier or raises an arrival word. -/
  | copyComplete (core queue : Nat)
  /-- BARRIER_WAKE (R254). Slices waiting on a completed phase become ready 4 ac later and acquire. -/
  | barrierWake (slice : Nat)
  /-- GROUP_PHASE_COMPLETE (R255). A group's phase completes once every live member pack has arrived, releasing all waiters. -/
  | groupPhaseComplete (launch group : Nat)
  /-- AWAIT_WAKE (R259). A waiting AWAIT continues with an acquire once no lane's generation still matches. -/
  | awaitWake (slice : Nat)
  /-- AWAIT_TIMEOUT (R259). The AWAIT.T timeout lapses and the slice continues without the acquire. -/
  | awaitTimeout (slice : Nat)
  /-- LOAD_DATA_RETURN (R220). Load data returns and is written to destination registers, raising OBSV. -/
  | loadDataReturn (req : Nat)
  /-- HOME_READ (R220). The home serves a read request, renewing or returning the line with a new read lease. -/
  | homeRead (req : Nat)
  /-- HOME_WRITE (R221). The home performs a store, atomic or reduction and assigns its ws. -/
  | homeWrite (req : Nat)
  /-- STORE_ACK (R221). A write acknowledgement returns ws, raising maxws and the L1 copy's times. -/
  | storeAck (req : Nat)
  /-- PARKED_REPLAY (R211). Parked lanes replay with their issue-time operands once the fault, window or flip resolves. -/
  | parkedReplay (req : Nat)
  /-- MIGRATION_COMPLETE (R198). The fault unit has copied a non-resident page into a free frame and written the entry resident. -/
  | migrationComplete (asid : Nat) (va : Nat)
  /-- PAGE_MOVE (R199). Sundesh moves a resident page to another tier through a write-protect window. -/
  | pageMove (asid : Nat) (va tier stack : Nat)
  /-- WC_BUFFER_DRAIN (R195). The write-combining buffer drains after 256 ac. -/
  | wcBufferDrain (core : Nat)
  /-- L2_WRITEBACK (R197). The home L2 writes a dirty line back whole at a time of its choosing. -/
  | l2Writeback (line : Nat)
  /-- CLOCK_TICK (R219). The core's logical clock ck advances by 1 every 64 ac. -/
  | clockTick (core : Nat)
  /-- SWEEP_COMPLETE (R225). The rebasing sweep has rewritten every line of the die. -/
  | sweepComplete (die : Nat)
  /-- FENCE_SP_VALIDATE (R229). When the speculative fence completes, window lines are validated and held stores sent or rolled back. -/
  | fenceSpValidate (gang : Nat)
  /-- PERSIST_ACCEPT (R237). An OPQ accepts a persist-write, making it durable. -/
  | persistAccept (id : Nat)
  /-- EPOCH_CLOSED_NOTICE (R239). An OPQ receives 'epoch e closed' and releases held writes of epoch e + 1. -/
  | epochClosedNotice (slice epoch opq : Nat)
  /-- CXL_SNOOP_INVALIDATION (R232). A host snoop invalidation arrives at the selected L2 and advances its SNT. -/
  | cxlSnoopInvalidation (hpa : Nat) (data : List Byte)
  /-- HOST_MEM_READ (R202). A host CXL.mem read of device memory is served under the region's bias. -/
  | hostMemRead (pa size : Nat)
  /-- HOST_MEM_WRITE (R202). A host CXL.mem write to device memory is served under the region's bias with an HCK timestamp. -/
  | hostMemWrite (pa : Nat) (data : List Byte)
  /-- CXL_COMPLETION_TIMEOUT (R348). A host access without CXL completion returns poisoned data or reports a link error. -/
  | cxlCompletionTimeout (req : Nat)
  /-- IDE_CHECK_FAIL (R423). A CXL IDE integrity failure ends the stream and refuses CXL.cache and CXL.mem traffic. -/
  | ideCheckFail
  /-- IDE_KM (R423). The host programs CXL IDE keys over an SPDM session. -/
  | ideKm
  /-- REMOTE_ACCESS_ARRIVE (R324). A remote load, store or atomic arrives and is performed at the target's home or refused. -/
  | remoteAccessArrive (a : RemoteAccess)
  /-- REMOTE_RESPONSE (R325). A remote response or acknowledgement arrives at the requesting device. -/
  | remoteResponse (req rcode : Nat) (data : List Byte)
  /-- REMOTE_TIMEOUT (R325). No response within T_F: a load writes all ones and RSTATUS records the timeout. -/
  | remoteTimeout (req : Nat)
  /-- DROP_NOTICE (R318). A switch's drop notice for a packet reaches its source. -/
  | dropNotice (req : Nat)
  /-- BULK_PACKET_ARRIVE (R330). A bulk packet is performed at the target and raises the remote arrival word. -/
  | bulkPacketArrive (p : BulkPacket)
  /-- BULK_ACK (R330). A bulk packet's acknowledgement returns and raises the local arrival word. -/
  | bulkAck (op packet rcode : Nat) (data : List Byte)
  /-- MESSAGE_ARRIVE (R340). An RSTV message is resolved and its parts applied, parked or refused. -/
  | messageArrive (m : Message)
  /-- LINK_TRAINING (R423). A fabric link trains and agrees its encryption keys by ECDHE. -/
  | linkTraining (port : Nat)
  /-- LINK_REKEY (R423). A fabric link changes keys after 2^32 flits. -/
  | linkRekey (port : Nat)
  /-- LINK_DOWN (R423). After 16 failed retransmissions a link goes down and drops its packets. -/
  | linkDown (port : Nat)
  /-- PACK_DISPATCH (R371). Sundesh places a pack on a core with room and prepares its state and arguments. -/
  | packDispatch (launch core : Nat)
  /-- LAUNCH_COMPLETE (R373). A launch completes once every pack has exited and its copies and bulk operations have completed. -/
  | launchComplete (launch : Nat)
  /-- DRAIN_PREEMPTION (R378). Stops a launch's dispatch and lets resident packs run to completion. -/
  | drainPreemption (launch : Nat)
  /-- HARD_PREEMPTION (R379). Stops a launch and saves every resident pack into its CSA within 60 us. -/
  | hardPreemption (launch : Nat)
  /-- PACK_RESTORE (R379). A saved pack is restored with its partners once room is found, replaying its save-area inbox. -/
  | packRestore (pack core slot : Nat)
  /-- SUNDESH_THREAD_WAKE (R349). A blocked Sundesh thread wakes on a write, a completion or its 10 us re-check. -/
  | sundeshThreadWake (queue : Nat)
  /-- WAIT_TIMEOUT (R357). A WAIT's TMO lapses and it completes with CODE 0x07. -/
  | waitTimeout (queue : Nat)
  /-- QUEUE_ROTATION (R353). Mapped queues of equal priority rotate at least every 100 us. -/
  | queueRotation (out into : Nat)
  /-- POOL_UPDATE (R433). Every 100 us Sundesh resizes each die's token pool from telemetry. -/
  | poolUpdate (die : Nat)
  /-- TELEMETRY_REFRESH (R435). Telemetry counters are refreshed every 100 us. -/
  | telemetryRefresh
  /-- RAIL_OVERCURRENT (R434). Core rail current above 7,500 A for 2 us lowers the arithmetic clock by 75 MHz. -/
  | railOvercurrent
  /-- CLOCK_STEP_UP (R434). The clock rises one step every 100 us while current stays below 7,000 A. -/
  | clockStepUp
  /-- JUNCTION_OVER_105 (R434). A die junction above 105 C halves its token pool at once. -/
  | junctionOver105 (die : Nat)
  /-- THERMAL_TRIP (R434). At 115 C the device acts as on loss of power and sets FAIL 0x07. -/
  | thermalTrip
  /-- POWER_LOSS (R241). PFAIL_N low: dispatch stops, MMA issue holds and every OPQ drains into SCM. -/
  | powerLoss
  /-- POWER_ON (R431). Power-on starts a cold bring-up through every stage. -/
  | powerOn
  /-- BRINGUP_STAGE (R431). A bring-up stage completes or fails, advancing STAGE or setting FAIL. -/
  | bringupStage
  /-- POISON_RECHECK (R426). About 10 us after a marked line, Sundesh re-reads it to classify the error transient or lasting. -/
  | poisonRecheck (line : Nat)
  /-- UNCONTAINABLE_ERROR (R425). An error in tenant-less state stops the device and sets FAIL 0x06. -/
  | uncontainableError
  /-- SETT_PAGE_COPY (R394). Sett finishes copying a dirtied page into a ring slot and sends its parity deltas. -/
  | settPageCopy (asid : Nat) (va : Nat)
  /-- SNAPSHOT_COMPLETE (R395). A local snapshot is complete; LOCAL is written and reported to the job's devices. -/
  | snapshotComplete (asid : Nat)
  /-- PARITY_FOLD (R399). A parity member folds a snapshot's staging into its parity ring once its condition holds. -/
  | parityFold (asid : Nat) (desc : Nat)
  /-- REBUILD_DONE (R401). Every rebuild page has arrived; the spare writes its ring, clears LOST and sets DONE. -/
  | rebuildDone (asid : Nat)
  /-- HEARTBEAT_TIMEOUT (R385). No heartbeat within 20 ms of activation restarts Sundesh from the old slot. -/
  | heartbeatTimeout
  /-- DOORBELL (R352). A doorbell write sets the queue's packet count, or halts the queue on overflow. -/
  | doorbell (queue count : Nat)
  /-- WARM_RESET (R432). Writing WRST starts a warm reset that keeps SCM, fuses and firmware slots. -/
  | warmReset
  /-- PLIM_WRITE (R433). Writes the package power limit, saturated to 1,200 W to PCLAMP. -/
  | plimWrite (value : Nat)
  /-- HOST_REGISTER_WRITE (R429). Write to a host register-block location without behaviour of its own, such as the W1C LOSS bit. -/
  | hostRegisterWrite (offset value : Nat)
  /-- QREG (R351). Registers a queue from its descriptor. -/
  | qreg (queue va : Nat)
  /-- QUNREG (R350). Unregisters a queue, cancelling its unstarted packets. -/
  | qunreg (queue : Nat)
  /-- QRESUME (R355). Leaves the halted or pre-empted state of a queue. -/
  | qresume (queue : Nat)
  /-- PREEMPT (R377). Pre-empts a queue's running launches in drain or hard mode. -/
  | preempt (queue mode : Nat)
  /-- FWSTAGE (R383). Loads a firmware image into the inactive slot and checks its signature. -/
  | fwstage (slot va : Nat)
  /-- FWACT (R384). Activates the staged firmware image through a handover. -/
  | fwact (expected : Nat)
  /-- DBGSTATE (R108). Writes a stopped slice's state to memory. -/
  | dbgstate (queue name va : Nat)
  /-- DBGWRITE (R108). Writes the RW fields of a stopped slice's state back. -/
  | dbgwrite (queue name va : Nat)
  /-- DBGRESUME (R108). Rereads the debug block and resumes stopped slices. -/
  | dbgresume (queue name : Nat)
  /-- NOP_PACKET (R358). Queue packet that completes when it starts. -/
  | nopPacket (queue index : Nat)
  /-- LAUNCH (R370). Checks a launch record and dispatches its grid of packs. -/
  | launch (queue index : Nat)
  /-- GRAPH_SEAL (R375). Checks a graph object and copies it into the graph store as a new version. -/
  | graphSeal (queue index : Nat)
  /-- GRAPH_LAUNCH (R376). Creates an instance of a sealed graph version and dispatches its grid. -/
  | graphLaunch (queue index : Nat)
  /-- WAIT (R357). Blocks the queue until a masked word meets a condition. -/
  | wait (queue index : Nat)
  /-- SIGNAL_WRITE (R359). Releases at sys scope, writes a completion word and may post a notification. -/
  | signalWrite (queue index : Nat)
  /-- SIGNAL_ADD (R359). Releases at sys scope, atomically adds to a completion word and may post a notification. -/
  | signalAdd (queue index : Nat)
  /-- BARRIER (R358). Completes when named queues have completed packets below given indices. -/
  | barrier (queue index : Nat)
  /-- MAP_ROOT (R361). Installs the ASID's page-table root. -/
  | mapRoot (queue index : Nat)
  /-- MAP_SYNC (R361). Removes cached translations of a range after software edits. -/
  | mapSync (queue index : Nat)
  /-- DSPALLOC (R361). Allocates die scratchpad blocks to a launch. -/
  | dspalloc (queue index : Nat)
  /-- DSPFREE (R361). Frees die scratchpad blocks. -/
  | dspfree (queue index : Nat)
  /-- MIGREG (R361). Registers a migration handle in the migration table. -/
  | migreg (queue index : Nat)
  /-- MCGROUP (R321). Defines or replaces a multicast group in every switch of the pod. -/
  | mcgroup (queue index : Nat)
  /-- MCFREE (R321). Removes a multicast group. -/
  | mcfree (queue index : Nat)
  /-- UNMAP (R362). Clears V in the leaf entries of a range and removes their translations. -/
  | unmap (queue index : Nat)
  /-- BIAS (R203). Flips 2 MiB regions between device and host bias in order. -/
  | bias (queue index : Nat)
  /-- CAP (R364). Installs capability entries for a launch's packs. -/
  | cap (queue index : Nat)
  /-- STEP (R388). Marks a step boundary, waiting for earlier snapshots, and freezes each die's Sett. -/
  | step (queue index : Nat)
  /-- SNAPREGION_ADD (R390). Adds a snapshot region with its checkpoint ring. -/
  | snapregionAdd (queue index : Nat)
  /-- SNAPREGION_REMOVE (R390). Removes a snapshot region after copies in progress end. -/
  | snapregionRemove (queue index : Nat)
  /-- REBUILD (R400). Starts rebuilding a lost stripe-group member onto the spare. -/
  | rebuild (queue index : Nat)
  /-- PERSIST (R366). Completes once earlier persist-writes are accepted and a range is written back. -/
  | persist (queue index : Nat)
  /-- ATTEST (R387). Assembles and signs a job attestation record with the device identity key. -/
  | attest (queue index : Nat)
  /-- GET_VERSION (R424). SPDM request for supported versions. -/
  | getVersion
  /-- GET_CAPABILITIES (R424). SPDM request for capabilities. -/
  | getCapabilities
  /-- NEGOTIATE_ALGORITHMS (R424). SPDM algorithm negotiation. -/
  | negotiateAlgorithms
  /-- GET_DIGESTS (R424). SPDM request for certificate digests. -/
  | getDigests
  /-- GET_CERTIFICATE (R424). SPDM request for the certificate chain. -/
  | getCertificate (slot : Nat)
  /-- CHALLENGE (R424). SPDM challenge signed with the device identity key. -/
  | challenge (nonce : Nat)
  /-- GET_MEASUREMENTS (R424). SPDM request for measurement indices 1 to 5. -/
  | getMeasurements (index : Nat)
  /-- KEY_EXCHANGE (R424). SPDM ECDHE key exchange opening a secure session. -/
  | keyExchange
  /-- FINISH (R424). SPDM session finish handshake. -/
  | finish
  /-- END_SESSION (R424). Ends an SPDM secure session. -/
  | endSession
  /-- KEYSET (R421). Installs a tenant key into an empty key slot within a secure session. -/
  | keyset (slot : Nat) (key : BitVec 256)
  /-- KEYREVOKE (R421). Empties a key slot once no queue's ASID uses its KEYID. -/
  | keyrevoke (slot : Nat)
  /-- OPQ_DRAIN (R237). An accepted OPQ entry finishes draining into its SCM stack, which frees OPQ room for persist-writes that wait at the home. -/
  | opqDrain (die : Nat)
  /-- LEASE_COPY_EVICTION (R220). An L1 or non-home L2 drops a lease copy by its own replacement choice, so later loads of the line go to the home. -/
  | leaseCopyEviction (copy : Nat)
  deriving DecidableEq, Repr

end Sys2Proof
end

