-- ==== Sys2Proof/Machine/Info.lean ====
section
/-! DEFINITION. What the opcode map and the entries fix of each instruction word before it acts (02_encoding R13, R28 to R34, R37, R42, R43): its fixed bits, its pipe, what EXT supplies, what its fields name and whether T may be 1. -/
namespace Sys2Proof.Machine

/-- The pipe a word goes to (R13, R24): ALU0 only, either ALU, MEM, MTX, CTL, or CTL and MEM together (CALL, CALLR, RET). -/
inductive Pipe where
  | alu0 | alu | mem | mtx | ctl | both
  deriving DecidableEq, Repr

/-- What an EXT prefix supplies (R32, R33, R34): nothing (it is refused), imm32, imm32 sign-extended to 64 bits, imm32 as FP32 widened to FP64, a byte offset, or a payload whose bits outside the mask must be zero. -/
inductive ExtKind where
  | no | imm | sext | f64 | off
  | pay (mask : Nat)
  deriving DecidableEq, Repr

/-- What a 6-bit field names: nothing (zero), n vector registers from a direct field that is a multiple of al, read or written, a predicate, an index register, a window, or bits of the instruction's own. -/
inductive Opnd where
  | non
  | v (n al : Nat) (rd wr : Bool)
  | p | x | w | raw
  deriving DecidableEq, Repr

/-- The fixed part of an instruction word: mask and fixed bits of the opcode table, pipe, EXT, operands, T. -/
structure Form where
  mask : Nat
  bits : Nat
  pipe : Pipe
  ext : ExtKind
  d : Opnd
  a : Opnd
  b : Opnd
  t : Bool
  deriving DecidableEq, Repr

/-- A word with its fields as numbers. -/
structure View where
  op : Nat
  fn : Nat
  c : Bool
  d : Nat
  a : Nat
  b : Nat
  t : Bool
  la : Nat
  pg : Nat
  /-- OFF22 of a B-format word -/
  off : BitVec 22
  word : Nat
  form : Form
  deriving DecidableEq, Repr

/-- An instruction is an instruction word, the EXT word, or a step of another agent. -/
inductive Shape where
  | word (v : View)
  | ext
  | event
  deriving DecidableEq, Repr

/-- The bit of a Bool. -/
def bit (b : Bool) : Nat := if b then 1 else 0

/-- The word of an R-format instruction (R28). -/
def wordR (op fn : Nat) (f : RF) : Nat :=
  bit f.c * 2 ^ 31 + op * 2 ^ 25 + f.d.toNat * 2 ^ 19 + f.a.toNat * 2 ^ 13 + f.b.toNat * 2 ^ 7 + fn * 2 ^ 4 + bit f.t * 2 ^ 3 + f.pg.toNat
/-- The word of an X-, M- or T-format instruction (R28). -/
def wordX (op : Nat) (f : XF) : Nat :=
  bit f.c * 2 ^ 31 + op * 2 ^ 25 + f.d.toNat * 2 ^ 19 + f.a.toNat * 2 ^ 13 + f.b.toNat * 2 ^ 7 + f.la.toNat * 2 ^ 3 + f.pg.toNat
/-- The word of a B-format instruction (R28). -/
def wordB (op : Nat) (f : BF) : Nat :=
  bit f.c * 2 ^ 31 + op * 2 ^ 25 + f.off.toNat * 2 ^ 3 + f.pg.toNat

/-- View of an R-format word. -/
def vR (op fn : Nat) (f : RF) (form : Form) : View :=
  ⟨op, fn, f.c, f.d.toNat, f.a.toNat, f.b.toNat, f.t, 15, f.pg.toNat, 0, wordR op fn f, form⟩
/-- View of an X-, M- or T-format word. -/
def vX (op : Nat) (f : XF) (form : Form) : View :=
  ⟨op, 0, f.c, f.d.toNat, f.a.toNat, f.b.toNat, false, f.la.toNat, f.pg.toNat, 0, wordX op f, form⟩
/-- View of a B-format word. -/
def vB (op : Nat) (f : BF) (form : Form) : View :=
  ⟨op, 0, f.c, 0, 0, 0, false, 15, f.pg.toNat, f.off, wordB op f, form⟩

/-- W of an M-format word (R28). -/
def widthOf (b : BitVec 6) : Nat := b.toNat / 8
/-- S of an M-format word (R28). -/
def spaceOf (b : BitVec 6) : Nat := b.toNat % 8
/-- Bytes of a width code (R184, R207). -/
def widthBytes : Nat → Nat
  | 0 => 1
  | 1 => 2
  | 2 => 4
  | 3 => 8
  | 4 => 16
  | 5 => 1
  | 6 => 2
  | _ => 0
/-- Registers of a width code (R207). -/
def widthRegs (w : Nat) : Nat := if w = 3 then 2 else if w = 4 then 4 else 1
/-- D of a load (R207). -/
def dLoad (b : BitVec 6) : Opnd := .v (widthRegs (widthOf b)) (widthRegs (widthOf b)) false true
/-- D of a store (R207). -/
def dStore (b : BitVec 6) : Opnd := .v (widthRegs (widthOf b)) (widthRegs (widthOf b)) true false
/-- A of an M-format word: a pair in the g space, one register otherwise (R29). -/
def aSpace (b : BitVec 6) : Opnd := if spaceOf b = 0 then .v 2 2 true false else .v 1 1 true false
/-- AOP of a T-format word (R246). -/
def aopOf (b : BitVec 6) : Nat := b.toNat / 4
/-- AW of a T-format word (R246). -/
def awOf (b : BitVec 6) : Nat := b.toNat % 4
/-- Registers of one atomic operand. -/
def awRegs (aw : Nat) : Nat := if aw = 1 then 2 else 1
/-- Bytes of an atomic width. -/
def awBytes (aw : Nat) : Nat := if aw = 1 then 8 else 4
/-- D of an atomic (R248): cas reads the registers of cmp and op2. -/
def dAtom (b : BitVec 6) : Opnd :=
  if aopOf b = 10 then .v (2 * awRegs (awOf b)) (if awOf b = 1 then 4 else 1) true true
  else .v (awRegs (awOf b)) (awRegs (awOf b)) true true
/-- D of a reduction. -/
def dRed (b : BitVec 6) : Opnd := .v (awRegs (awOf b)) (awRegs (awOf b)) true false

/-- Every instruction's shape, from its encoding table and its entry. -/
def view : Instr → Shape
  | .ext _ => .ext
  | .nop f => .word (vR 0 0 f { mask := 0x7ffffff8, bits := 0x0, pipe := .ctl, ext := .no, d := .non, a := .non, b := .non, t := false })
  | .bkpt f => .word (vR 0 1 f { mask := 0x7fffe078, bits := 0x10, pipe := .ctl, ext := .no, d := .non, a := .non, b := .raw, t := false })
  | .yield f => .word (vR 0 2 f { mask := 0x7ffffff8, bits := 0x20, pipe := .ctl, ext := .no, d := .non, a := .non, b := .non, t := false })
  | .exit f => .word (vR 0 3 f { mask := 0x7ffffff8, bits := 0x30, pipe := .ctl, ext := .no, d := .non, a := .non, b := .non, t := false })
  | .trap f => .word (vR 0 4 f { mask := 0x7fffe078, bits := 0x40, pipe := .ctl, ext := .no, d := .non, a := .non, b := .raw, t := false })
  | .rtt f => .word (vR 0 5 f { mask := 0x7fffffff, bits := 0x50, pipe := .ctl, ext := .no, d := .non, a := .non, b := .non, t := false })
  | .srd f => .word (vR 0 6 f { mask := 0x7e001ff8, bits := 0x60, pipe := .ctl, ext := .no, d := (.v 1 1 false true), a := .raw, b := .non, t := false })
  | .swr f => .word (vR 0 7 f { mask := 0x7ff80078, bits := 0x70, pipe := .ctl, ext := .no, d := .non, a := .raw, b := (.v 1 1 true false), t := false })
  | .brAny f => .word (vB 1 f { mask := 0x7e000000, bits := 0x2000000, pipe := .ctl, ext := .no, d := .non, a := .non, b := .non, t := false })
  | .brAll f => .word (vB 2 f { mask := 0x7e000000, bits := 0x4000000, pipe := .ctl, ext := .no, d := .non, a := .non, b := .non, t := false })
  | .call f => .word (vB 3 f { mask := 0x7e000000, bits := 0x6000000, pipe := .ctl, ext := .no, d := .non, a := .non, b := .non, t := false })
  | .jmpr f => .word (vR 4 0 f { mask := 0x7ff81ff8, bits := 0x8000000, pipe := .ctl, ext := .no, d := .non, a := (.v 2 2 true false), b := .non, t := false })
  | .callr f => .word (vR 4 1 f { mask := 0x7ff81ff8, bits := 0x8000010, pipe := .ctl, ext := .no, d := .non, a := (.v 2 2 true false), b := .non, t := false })
  | .ret f => .word (vR 4 2 f { mask := 0x7ffffff8, bits := 0x8000020, pipe := .ctl, ext := .no, d := .non, a := .non, b := .non, t := false })
  | .regang f => .word (vR 4 3 f { mask := 0x7fffc07f, bits := 0x8000030, pipe := .ctl, ext := .no, d := .non, a := .raw, b := .raw, t := false })
  | .spawn f => .word (vR 4 4 f { mask := 0x7e07c078, bits := 0x8000040, pipe := .ctl, ext := .no, d := .raw, a := .raw, b := .raw, t := false })
  | .spill f => .word (vR 4 5 f { mask := 0x7e07e078, bits := 0x8000050, pipe := .mem, ext := .no, d := .raw, a := .non, b := .raw, t := false })
  | .fill f => .word (vR 4 6 f { mask := 0x7e07e078, bits := 0x8000060, pipe := .mem, ext := .no, d := .raw, a := .non, b := .raw, t := false })
  | .pand f => .word (vR 5 0 f { mask := 0x7fc71c78, bits := 0xa000000, pipe := .alu, ext := .no, d := .p, a := .p, b := .p, t := false })
  | .por f => .word (vR 5 1 f { mask := 0x7fc71c78, bits := 0xa000010, pipe := .alu, ext := .no, d := .p, a := .p, b := .p, t := false })
  | .pxor f => .word (vR 5 2 f { mask := 0x7fc71c78, bits := 0xa000020, pipe := .alu, ext := .no, d := .p, a := .p, b := .p, t := false })
  | .pnot f => .word (vR 5 3 f { mask := 0x7fc71ff8, bits := 0xa000030, pipe := .alu, ext := .no, d := .p, a := .p, b := .non, t := false })
  | .voteAny f => .word (vR 5 4 f { mask := 0x7fc71ff8, bits := 0xa000040, pipe := .alu0, ext := .no, d := .p, a := .p, b := .non, t := false })
  | .voteAll f => .word (vR 5 5 f { mask := 0x7fc71ff8, bits := 0xa000050, pipe := .alu0, ext := .no, d := .p, a := .p, b := .non, t := false })
  | .ballot f => .word (vR 5 6 f { mask := 0x7e071ff0, bits := 0xa000060, pipe := .alu0, ext := .no, d := (.v 1 1 false true), a := .p, b := .non, t := true })
  | .pmov f => .word (vR 5 7 f { mask := 0x7fc01ff8, bits := 0xa000070, pipe := .alu, ext := .no, d := .p, a := (.v 1 1 true false), b := .non, t := false })
  | .shflIdx f => .word (vR 6 0 f { mask := 0x7e000070, bits := 0xc000000, pipe := .alu0, ext := .imm, d := (.v 1 1 false true), a := (.v 1 1 true false), b := (.v 1 1 true false), t := true })
  | .shflUp f => .word (vR 6 1 f { mask := 0x7e000070, bits := 0xc000010, pipe := .alu0, ext := .imm, d := (.v 1 1 false true), a := (.v 1 1 true false), b := (.v 1 1 true false), t := true })
  | .shflDown f => .word (vR 6 2 f { mask := 0x7e000070, bits := 0xc000020, pipe := .alu0, ext := .imm, d := (.v 1 1 false true), a := (.v 1 1 true false), b := (.v 1 1 true false), t := true })
  | .shflXor f => .word (vR 6 3 f { mask := 0x7e000070, bits := 0xc000030, pipe := .alu0, ext := .imm, d := (.v 1 1 false true), a := (.v 1 1 true false), b := (.v 1 1 true false), t := true })
  | .lswz f => .word (vR 6 4 f { mask := 0x7e000070, bits := 0xc000040, pipe := .alu0, ext := .imm, d := (.v 1 1 false true), a := (.v 1 1 true false), b := (.v 1 1 true false), t := true })
  | .gredIadd f => .word (vR 6 5 f { mask := 0x7e001ff0, bits := 0xc000050, pipe := .alu0, ext := .no, d := (.v 1 1 false true), a := (.v 1 1 true false), b := .non, t := true })
  | .gredFmax f => .word (vR 6 6 f { mask := 0x7e001ff0, bits := 0xc000060, pipe := .alu0, ext := .no, d := (.v 1 1 false true), a := (.v 1 1 true false), b := .non, t := true })
  | .gscanIadd f => .word (vR 6 7 f { mask := 0x7e001ff0, bits := 0xc000070, pipe := .alu0, ext := .no, d := (.v 1 1 false true), a := (.v 1 1 true false), b := .non, t := true })
  | .iadd f => .word (vR 8 0 f { mask := 0x7e000070, bits := 0x10000000, pipe := .alu, ext := .imm, d := (.v 1 1 false true), a := (.v 1 1 true false), b := (.v 1 1 true false), t := true })
  | .isub f => .word (vR 8 1 f { mask := 0x7e000070, bits := 0x10000010, pipe := .alu, ext := .imm, d := (.v 1 1 false true), a := (.v 1 1 true false), b := (.v 1 1 true false), t := true })
  | .imul f => .word (vR 8 2 f { mask := 0x7e000070, bits := 0x10000020, pipe := .alu, ext := .imm, d := (.v 1 1 false true), a := (.v 1 1 true false), b := (.v 1 1 true false), t := true })
  | .imulhI f => .word (vR 8 3 f { mask := 0x7e000070, bits := 0x10000030, pipe := .alu, ext := .imm, d := (.v 1 1 false true), a := (.v 1 1 true false), b := (.v 1 1 true false), t := true })
  | .imulhN f => .word (vR 8 4 f { mask := 0x7e000070, bits := 0x10000040, pipe := .alu, ext := .imm, d := (.v 1 1 false true), a := (.v 1 1 true false), b := (.v 1 1 true false), t := true })
  | .ineg f => .word (vR 8 5 f { mask := 0x7e001ff0, bits := 0x10000050, pipe := .alu, ext := .no, d := (.v 1 1 false true), a := (.v 1 1 true false), b := .non, t := true })
  | .iabs f => .word (vR 8 6 f { mask := 0x7e001ff0, bits := 0x10000060, pipe := .alu, ext := .no, d := (.v 1 1 false true), a := (.v 1 1 true false), b := .non, t := true })
  | .iaddSat f => .word (vR 8 7 f { mask := 0x7e000070, bits := 0x10000070, pipe := .alu, ext := .imm, d := (.v 1 1 false true), a := (.v 1 1 true false), b := (.v 1 1 true false), t := true })
  | .iminI f => .word (vR 9 0 f { mask := 0x7e000070, bits := 0x12000000, pipe := .alu, ext := .imm, d := (.v 1 1 false true), a := (.v 1 1 true false), b := (.v 1 1 true false), t := true })
  | .iminN f => .word (vR 9 1 f { mask := 0x7e000070, bits := 0x12000010, pipe := .alu, ext := .imm, d := (.v 1 1 false true), a := (.v 1 1 true false), b := (.v 1 1 true false), t := true })
  | .imaxI f => .word (vR 9 2 f { mask := 0x7e000070, bits := 0x12000020, pipe := .alu, ext := .imm, d := (.v 1 1 false true), a := (.v 1 1 true false), b := (.v 1 1 true false), t := true })
  | .imaxN f => .word (vR 9 3 f { mask := 0x7e000070, bits := 0x12000030, pipe := .alu, ext := .imm, d := (.v 1 1 false true), a := (.v 1 1 true false), b := (.v 1 1 true false), t := true })
  | .iadd64 f => .word (vR 9 4 f { mask := 0x7e000070, bits := 0x12000040, pipe := .alu, ext := .sext, d := (.v 2 2 false true), a := (.v 2 2 true false), b := (.v 2 2 true false), t := true })
  | .isub64 f => .word (vR 9 5 f { mask := 0x7e000070, bits := 0x12000050, pipe := .alu, ext := .sext, d := (.v 2 2 false true), a := (.v 2 2 true false), b := (.v 2 2 true false), t := true })
  | .lea f => .word (vR 9 6 f { mask := 0x7e000070, bits := 0x12000060, pipe := .alu, ext := .imm, d := (.v 2 2 false true), a := (.v 2 2 true false), b := (.v 1 1 true false), t := true })
  | .isubSat f => .word (vR 9 7 f { mask := 0x7e000070, bits := 0x12000070, pipe := .alu, ext := .imm, d := (.v 1 1 false true), a := (.v 1 1 true false), b := (.v 1 1 true false), t := true })
  | .imad f => .word (vR 10 0 f { mask := 0x7e000070, bits := 0x14000000, pipe := .alu, ext := .imm, d := (.v 1 1 true true), a := (.v 1 1 true false), b := (.v 1 1 true false), t := true })
  | .imadwI f => .word (vR 10 1 f { mask := 0x7e000070, bits := 0x14000010, pipe := .alu, ext := .imm, d := (.v 2 2 true true), a := (.v 1 1 true false), b := (.v 1 1 true false), t := true })
  | .imadwN f => .word (vR 10 2 f { mask := 0x7e000070, bits := 0x14000020, pipe := .alu, ext := .imm, d := (.v 2 2 true true), a := (.v 1 1 true false), b := (.v 1 1 true false), t := true })
  | .iaccw f => .word (vR 10 3 f { mask := 0x7e000070, bits := 0x14000030, pipe := .alu, ext := .imm, d := (.v 2 2 true true), a := (.v 1 1 true false), b := (.v 1 1 true false), t := true })
  | .idot4I8 f => .word (vR 10 4 f { mask := 0x7e000070, bits := 0x14000040, pipe := .alu, ext := .imm, d := (.v 1 1 true true), a := (.v 1 1 true false), b := (.v 1 1 true false), t := true })
  | .idot4N8 f => .word (vR 10 5 f { mask := 0x7e000070, bits := 0x14000050, pipe := .alu, ext := .imm, d := (.v 1 1 true true), a := (.v 1 1 true false), b := (.v 1 1 true false), t := true })
  | .idot2I16 f => .word (vR 10 6 f { mask := 0x7e000070, bits := 0x14000060, pipe := .alu, ext := .imm, d := (.v 1 1 true true), a := (.v 1 1 true false), b := (.v 1 1 true false), t := true })
  | .isad f => .word (vR 10 7 f { mask := 0x7e000070, bits := 0x14000070, pipe := .alu, ext := .imm, d := (.v 1 1 true true), a := (.v 1 1 true false), b := (.v 1 1 true false), t := true })
  | .and f => .word (vR 11 0 f { mask := 0x7e000070, bits := 0x16000000, pipe := .alu, ext := .imm, d := (.v 1 1 false true), a := (.v 1 1 true false), b := (.v 1 1 true false), t := true })
  | .or f => .word (vR 11 1 f { mask := 0x7e000070, bits := 0x16000010, pipe := .alu, ext := .imm, d := (.v 1 1 false true), a := (.v 1 1 true false), b := (.v 1 1 true false), t := true })
  | .xor f => .word (vR 11 2 f { mask := 0x7e000070, bits := 0x16000020, pipe := .alu, ext := .imm, d := (.v 1 1 false true), a := (.v 1 1 true false), b := (.v 1 1 true false), t := true })
  | .andn f => .word (vR 11 3 f { mask := 0x7e000070, bits := 0x16000030, pipe := .alu, ext := .imm, d := (.v 1 1 false true), a := (.v 1 1 true false), b := (.v 1 1 true false), t := true })
  | .orn f => .word (vR 11 4 f { mask := 0x7e000070, bits := 0x16000040, pipe := .alu, ext := .imm, d := (.v 1 1 false true), a := (.v 1 1 true false), b := (.v 1 1 true false), t := true })
  | .not f => .word (vR 11 5 f { mask := 0x7e001ff0, bits := 0x16000050, pipe := .alu, ext := .no, d := (.v 1 1 false true), a := (.v 1 1 true false), b := .non, t := true })
  | .mov f => .word (vR 11 6 f { mask := 0x7e07e070, bits := 0x16000060, pipe := .alu, ext := .imm, d := (.v 1 1 false true), a := .non, b := (.v 1 1 true false), t := true })
  | .sel f => .word (vR 11 7 f { mask := 0x7e000070, bits := 0x16000070, pipe := .alu, ext := .imm, d := (.v 1 1 false true), a := (.v 1 1 true false), b := (.v 1 1 true false), t := true })
  | .shl f => .word (vR 12 0 f { mask := 0x7e000070, bits := 0x18000000, pipe := .alu, ext := .imm, d := (.v 1 1 false true), a := (.v 1 1 true false), b := (.v 1 1 true false), t := true })
  | .shr f => .word (vR 12 1 f { mask := 0x7e000070, bits := 0x18000010, pipe := .alu, ext := .imm, d := (.v 1 1 false true), a := (.v 1 1 true false), b := (.v 1 1 true false), t := true })
  | .sar f => .word (vR 12 2 f { mask := 0x7e000070, bits := 0x18000020, pipe := .alu, ext := .imm, d := (.v 1 1 false true), a := (.v 1 1 true false), b := (.v 1 1 true false), t := true })
  | .rol f => .word (vR 12 3 f { mask := 0x7e000070, bits := 0x18000030, pipe := .alu, ext := .imm, d := (.v 1 1 false true), a := (.v 1 1 true false), b := (.v 1 1 true false), t := true })
  | .ror f => .word (vR 12 4 f { mask := 0x7e000070, bits := 0x18000040, pipe := .alu, ext := .imm, d := (.v 1 1 false true), a := (.v 1 1 true false), b := (.v 1 1 true false), t := true })
  | .shl64 f => .word (vR 12 5 f { mask := 0x7e000070, bits := 0x18000050, pipe := .alu, ext := .imm, d := (.v 2 2 false true), a := (.v 2 2 true false), b := (.v 1 1 true false), t := true })
  | .shr64 f => .word (vR 12 6 f { mask := 0x7e000070, bits := 0x18000060, pipe := .alu, ext := .imm, d := (.v 2 2 false true), a := (.v 2 2 true false), b := (.v 1 1 true false), t := true })
  | .sar64 f => .word (vR 12 7 f { mask := 0x7e000070, bits := 0x18000070, pipe := .alu, ext := .imm, d := (.v 2 2 false true), a := (.v 2 2 true false), b := (.v 1 1 true false), t := true })
  | .popc f => .word (vR 13 0 f { mask := 0x7e001ff0, bits := 0x1a000000, pipe := .alu, ext := .no, d := (.v 1 1 false true), a := (.v 1 1 true false), b := .non, t := true })
  | .clz f => .word (vR 13 1 f { mask := 0x7e001ff0, bits := 0x1a000010, pipe := .alu, ext := .no, d := (.v 1 1 false true), a := (.v 1 1 true false), b := .non, t := true })
  | .ctz f => .word (vR 13 2 f { mask := 0x7e001ff0, bits := 0x1a000020, pipe := .alu, ext := .no, d := (.v 1 1 false true), a := (.v 1 1 true false), b := .non, t := true })
  | .brev f => .word (vR 13 3 f { mask := 0x7e001ff0, bits := 0x1a000030, pipe := .alu, ext := .no, d := (.v 1 1 false true), a := (.v 1 1 true false), b := .non, t := true })
  | .bfxI f => .word (vR 13 4 f { mask := 0x7e000070, bits := 0x1a000040, pipe := .alu, ext := .imm, d := (.v 1 1 false true), a := (.v 1 1 true false), b := (.v 1 1 true false), t := true })
  | .bfxN f => .word (vR 13 5 f { mask := 0x7e000070, bits := 0x1a000050, pipe := .alu, ext := .imm, d := (.v 1 1 false true), a := (.v 1 1 true false), b := (.v 1 1 true false), t := true })
  | .bfi f => .word (vR 13 6 f { mask := 0x7e000070, bits := 0x1a000060, pipe := .alu, ext := .imm, d := (.v 1 1 true true), a := (.v 1 1 true false), b := (.v 1 1 true false), t := true })
  | .bswp f => .word (vR 13 7 f { mask := 0x7e001ff0, bits := 0x1a000070, pipe := .alu, ext := .no, d := (.v 1 1 false true), a := (.v 1 1 true false), b := .non, t := true })
  | .isetEq f => .word (vR 14 0 f { mask := 0x7fc00070, bits := 0x1c000000, pipe := .alu, ext := .imm, d := .p, a := (.v 1 1 true false), b := (.v 1 1 true false), t := false })
  | .isetNe f => .word (vR 14 1 f { mask := 0x7fc00070, bits := 0x1c000010, pipe := .alu, ext := .imm, d := .p, a := (.v 1 1 true false), b := (.v 1 1 true false), t := false })
  | .isetLtI f => .word (vR 14 2 f { mask := 0x7fc00070, bits := 0x1c000020, pipe := .alu, ext := .imm, d := .p, a := (.v 1 1 true false), b := (.v 1 1 true false), t := false })
  | .isetLeI f => .word (vR 14 3 f { mask := 0x7fc00070, bits := 0x1c000030, pipe := .alu, ext := .imm, d := .p, a := (.v 1 1 true false), b := (.v 1 1 true false), t := false })
  | .isetLtN f => .word (vR 14 4 f { mask := 0x7fc00070, bits := 0x1c000040, pipe := .alu, ext := .imm, d := .p, a := (.v 1 1 true false), b := (.v 1 1 true false), t := false })
  | .isetLeN f => .word (vR 14 5 f { mask := 0x7fc00070, bits := 0x1c000050, pipe := .alu, ext := .imm, d := .p, a := (.v 1 1 true false), b := (.v 1 1 true false), t := false })
  | .isetTst f => .word (vR 14 6 f { mask := 0x7fc00070, bits := 0x1c000060, pipe := .alu, ext := .imm, d := .p, a := (.v 1 1 true false), b := (.v 1 1 true false), t := false })
  | .movi f => .word (vR 15 0 f { mask := 0x7e000070, bits := 0x1e000000, pipe := .alu, ext := .no, d := (.v 1 1 false true), a := .raw, b := .raw, t := true })
  | .movh f => .word (vR 15 1 f { mask := 0x7e07e070, bits := 0x1e000010, pipe := .alu, ext := .imm, d := (.v 1 1 true true), a := .non, b := (.v 1 1 true false), t := true })
  | .mov64 f => .word (vR 15 2 f { mask := 0x7e07e070, bits := 0x1e000020, pipe := .alu, ext := .sext, d := (.v 2 2 false true), a := .non, b := (.v 2 2 true false), t := true })
  | .idxset f => .word (vR 15 3 f { mask := 0x7fc7e070, bits := 0x1e000030, pipe := .alu, ext := .imm, d := .x, a := .non, b := (.v 1 1 true false), t := false })
  | .idxadd f => .word (vR 15 4 f { mask := 0x7fc70070, bits := 0x1e000040, pipe := .alu, ext := .imm, d := .x, a := .x, b := (.v 1 1 true false), t := false })
  | .winset f => .word (vR 15 5 f { mask := 0x7fe00070, bits := 0x1e000050, pipe := .alu, ext := .imm, d := .w, a := (.v 1 1 true false), b := (.v 1 1 true false), t := false })
  | .unif f => .word (vR 15 6 f { mask := 0x7e001ff0, bits := 0x1e000060, pipe := .alu, ext := .no, d := (.v 1 1 false true), a := (.v 1 1 true false), b := .non, t := true })
  | .fadd f => .word (vR 16 0 f { mask := 0x7e000070, bits := 0x20000000, pipe := .alu, ext := .imm, d := (.v 1 1 false true), a := (.v 1 1 true false), b := (.v 1 1 true false), t := true })
  | .fsub f => .word (vR 16 1 f { mask := 0x7e000070, bits := 0x20000010, pipe := .alu, ext := .imm, d := (.v 1 1 false true), a := (.v 1 1 true false), b := (.v 1 1 true false), t := true })
  | .fmul f => .word (vR 16 2 f { mask := 0x7e000070, bits := 0x20000020, pipe := .alu, ext := .imm, d := (.v 1 1 false true), a := (.v 1 1 true false), b := (.v 1 1 true false), t := true })
  | .fmin f => .word (vR 16 3 f { mask := 0x7e000070, bits := 0x20000030, pipe := .alu, ext := .imm, d := (.v 1 1 false true), a := (.v 1 1 true false), b := (.v 1 1 true false), t := true })
  | .fmax f => .word (vR 16 4 f { mask := 0x7e000070, bits := 0x20000040, pipe := .alu, ext := .imm, d := (.v 1 1 false true), a := (.v 1 1 true false), b := (.v 1 1 true false), t := true })
  | .fabs f => .word (vR 16 5 f { mask := 0x7e001ff0, bits := 0x20000050, pipe := .alu, ext := .no, d := (.v 1 1 false true), a := (.v 1 1 true false), b := .non, t := true })
  | .fneg f => .word (vR 16 6 f { mask := 0x7e001ff0, bits := 0x20000060, pipe := .alu, ext := .no, d := (.v 1 1 false true), a := (.v 1 1 true false), b := .non, t := true })
  | .fcpys f => .word (vR 16 7 f { mask := 0x7e000070, bits := 0x20000070, pipe := .alu, ext := .imm, d := (.v 1 1 false true), a := (.v 1 1 true false), b := (.v 1 1 true false), t := true })
  | .ffma f => .word (vR 17 0 f { mask := 0x7e000070, bits := 0x22000000, pipe := .alu, ext := .imm, d := (.v 1 1 true true), a := (.v 1 1 true false), b := (.v 1 1 true false), t := true })
  | .ffms f => .word (vR 17 1 f { mask := 0x7e000070, bits := 0x22000010, pipe := .alu, ext := .imm, d := (.v 1 1 true true), a := (.v 1 1 true false), b := (.v 1 1 true false), t := true })
  | .fnma f => .word (vR 17 2 f { mask := 0x7e000070, bits := 0x22000020, pipe := .alu, ext := .imm, d := (.v 1 1 true true), a := (.v 1 1 true false), b := (.v 1 1 true false), t := true })
  | .twosum f => .word (vR 17 3 f { mask := 0x7e000070, bits := 0x22000030, pipe := .alu, ext := .imm, d := (.v 2 2 false true), a := (.v 1 1 true false), b := (.v 1 1 true false), t := true })
  | .ftsum f => .word (vR 17 4 f { mask := 0x7e000070, bits := 0x22000040, pipe := .alu, ext := .imm, d := (.v 2 2 true true), a := (.v 1 1 true false), b := (.v 1 1 true false), t := true })
  | .twoprod f => .word (vR 17 5 f { mask := 0x7e000070, bits := 0x22000050, pipe := .alu, ext := .imm, d := (.v 2 2 false true), a := (.v 1 1 true false), b := (.v 1 1 true false), t := true })
  | .fsetEq f => .word (vR 18 0 f { mask := 0x7fc00070, bits := 0x24000000, pipe := .alu, ext := .imm, d := .p, a := (.v 1 1 true false), b := (.v 1 1 true false), t := false })
  | .fsetNe f => .word (vR 18 1 f { mask := 0x7fc00070, bits := 0x24000010, pipe := .alu, ext := .imm, d := .p, a := (.v 1 1 true false), b := (.v 1 1 true false), t := false })
  | .fsetLt f => .word (vR 18 2 f { mask := 0x7fc00070, bits := 0x24000020, pipe := .alu, ext := .imm, d := .p, a := (.v 1 1 true false), b := (.v 1 1 true false), t := false })
  | .fsetLe f => .word (vR 18 3 f { mask := 0x7fc00070, bits := 0x24000030, pipe := .alu, ext := .imm, d := .p, a := (.v 1 1 true false), b := (.v 1 1 true false), t := false })
  | .fsetUnord f => .word (vR 18 4 f { mask := 0x7fc00070, bits := 0x24000040, pipe := .alu, ext := .imm, d := .p, a := (.v 1 1 true false), b := (.v 1 1 true false), t := false })
  | .fsetOrd f => .word (vR 18 5 f { mask := 0x7fc00070, bits := 0x24000050, pipe := .alu, ext := .imm, d := .p, a := (.v 1 1 true false), b := (.v 1 1 true false), t := false })
  | .fsetClass f => .word (vR 18 6 f { mask := 0x7fc00070, bits := 0x24000060, pipe := .alu, ext := .imm, d := .p, a := (.v 1 1 true false), b := (.v 1 1 true false), t := false })
  | .frcp f => .word (vR 19 0 f { mask := 0x7e001ff0, bits := 0x26000000, pipe := .alu0, ext := .no, d := (.v 1 1 false true), a := (.v 1 1 true false), b := .non, t := true })
  | .frsq f => .word (vR 19 1 f { mask := 0x7e001ff0, bits := 0x26000010, pipe := .alu0, ext := .no, d := (.v 1 1 false true), a := (.v 1 1 true false), b := .non, t := true })
  | .fsqrt f => .word (vR 19 2 f { mask := 0x7e001ff0, bits := 0x26000020, pipe := .alu0, ext := .no, d := (.v 1 1 false true), a := (.v 1 1 true false), b := .non, t := true })
  | .fexp2 f => .word (vR 19 3 f { mask := 0x7e001ff0, bits := 0x26000030, pipe := .alu0, ext := .no, d := (.v 1 1 false true), a := (.v 1 1 true false), b := .non, t := true })
  | .flog2 f => .word (vR 19 4 f { mask := 0x7e001ff0, bits := 0x26000040, pipe := .alu0, ext := .no, d := (.v 1 1 false true), a := (.v 1 1 true false), b := .non, t := true })
  | .fsin f => .word (vR 19 5 f { mask := 0x7e001ff0, bits := 0x26000050, pipe := .alu0, ext := .no, d := (.v 1 1 false true), a := (.v 1 1 true false), b := .non, t := true })
  | .fcos f => .word (vR 19 6 f { mask := 0x7e001ff0, bits := 0x26000060, pipe := .alu0, ext := .no, d := (.v 1 1 false true), a := (.v 1 1 true false), b := .non, t := true })
  | .ftanh f => .word (vR 19 7 f { mask := 0x7e001ff0, bits := 0x26000070, pipe := .alu0, ext := .no, d := (.v 1 1 false true), a := (.v 1 1 true false), b := .non, t := true })
  | .hadd2Bf16 f => .word (vR 20 0 f { mask := 0x7e000070, bits := 0x28000000, pipe := .alu, ext := .imm, d := (.v 1 1 false true), a := (.v 1 1 true false), b := (.v 1 1 true false), t := true })
  | .hmul2Bf16 f => .word (vR 20 1 f { mask := 0x7e000070, bits := 0x28000010, pipe := .alu, ext := .imm, d := (.v 1 1 false true), a := (.v 1 1 true false), b := (.v 1 1 true false), t := true })
  | .hfma2Bf16 f => .word (vR 20 2 f { mask := 0x7e000070, bits := 0x28000020, pipe := .alu, ext := .imm, d := (.v 1 1 true true), a := (.v 1 1 true false), b := (.v 1 1 true false), t := true })
  | .hadd2F16 f => .word (vR 20 3 f { mask := 0x7e000070, bits := 0x28000030, pipe := .alu, ext := .imm, d := (.v 1 1 false true), a := (.v 1 1 true false), b := (.v 1 1 true false), t := true })
  | .hmul2F16 f => .word (vR 20 4 f { mask := 0x7e000070, bits := 0x28000040, pipe := .alu, ext := .imm, d := (.v 1 1 false true), a := (.v 1 1 true false), b := (.v 1 1 true false), t := true })
  | .hfma2F16 f => .word (vR 20 5 f { mask := 0x7e000070, bits := 0x28000050, pipe := .alu, ext := .imm, d := (.v 1 1 true true), a := (.v 1 1 true false), b := (.v 1 1 true false), t := true })
  | .hmax2Bf16 f => .word (vR 20 6 f { mask := 0x7e000070, bits := 0x28000060, pipe := .alu, ext := .imm, d := (.v 1 1 false true), a := (.v 1 1 true false), b := (.v 1 1 true false), t := true })
  | .hmin2Bf16 f => .word (vR 20 7 f { mask := 0x7e000070, bits := 0x28000070, pipe := .alu, ext := .imm, d := (.v 1 1 false true), a := (.v 1 1 true false), b := (.v 1 1 true false), t := true })
  | .dadd f => .word (vR 21 0 f { mask := 0x7e000070, bits := 0x2a000000, pipe := .alu0, ext := .f64, d := (.v 2 2 false true), a := (.v 2 2 true false), b := (.v 2 2 true false), t := true })
  | .dsub f => .word (vR 21 1 f { mask := 0x7e000070, bits := 0x2a000010, pipe := .alu0, ext := .f64, d := (.v 2 2 false true), a := (.v 2 2 true false), b := (.v 2 2 true false), t := true })
  | .dmul f => .word (vR 21 2 f { mask := 0x7e000070, bits := 0x2a000020, pipe := .alu0, ext := .f64, d := (.v 2 2 false true), a := (.v 2 2 true false), b := (.v 2 2 true false), t := true })
  | .dfma f => .word (vR 21 3 f { mask := 0x7e000070, bits := 0x2a000030, pipe := .alu0, ext := .f64, d := (.v 2 2 true true), a := (.v 2 2 true false), b := (.v 2 2 true false), t := true })
  | .dmin f => .word (vR 21 4 f { mask := 0x7e000070, bits := 0x2a000040, pipe := .alu0, ext := .f64, d := (.v 2 2 false true), a := (.v 2 2 true false), b := (.v 2 2 true false), t := true })
  | .dmax f => .word (vR 21 5 f { mask := 0x7e000070, bits := 0x2a000050, pipe := .alu0, ext := .f64, d := (.v 2 2 false true), a := (.v 2 2 true false), b := (.v 2 2 true false), t := true })
  | .dsetLt f => .word (vR 21 6 f { mask := 0x7fc00070, bits := 0x2a000060, pipe := .alu0, ext := .f64, d := .p, a := (.v 2 2 true false), b := (.v 2 2 true false), t := false })
  | .dsetEq f => .word (vR 21 7 f { mask := 0x7fc00070, bits := 0x2a000070, pipe := .alu0, ext := .f64, d := .p, a := (.v 2 2 true false), b := (.v 2 2 true false), t := false })
  | .cvtF32I32 f => .word (vR 22 0 f { mask := 0x7e001c70, bits := 0x2c000000, pipe := .alu, ext := .no, d := (.v 1 1 false true), a := (.v 1 1 true false), b := .raw, t := true })
  | .cvtF32N32 f => .word (vR 22 1 f { mask := 0x7e001c70, bits := 0x2c000010, pipe := .alu, ext := .no, d := (.v 1 1 false true), a := (.v 1 1 true false), b := .raw, t := true })
  | .cvtI32F32 f => .word (vR 22 2 f { mask := 0x7e001c70, bits := 0x2c000020, pipe := .alu, ext := .no, d := (.v 1 1 false true), a := (.v 1 1 true false), b := .raw, t := true })
  | .cvtN32F32 f => .word (vR 22 3 f { mask := 0x7e001c70, bits := 0x2c000030, pipe := .alu, ext := .no, d := (.v 1 1 false true), a := (.v 1 1 true false), b := .raw, t := true })
  | .cvtF32F64 f => .word (vR 22 4 f { mask := 0x7e001c70, bits := 0x2c000040, pipe := .alu0, ext := .no, d := (.v 1 1 false true), a := (.v 2 2 true false), b := .raw, t := true })
  | .cvtF64F32 f => .word (vR 22 5 f { mask := 0x7e001ff0, bits := 0x2c000050, pipe := .alu0, ext := .no, d := (.v 2 2 false true), a := (.v 1 1 true false), b := .non, t := true })
  | .cvtBf16x2F32 f => .word (vR 22 6 f { mask := 0x7e000070, bits := 0x2c000060, pipe := .alu, ext := .imm, d := (.v 1 1 false true), a := (.v 1 1 true false), b := (.v 1 1 true false), t := true })
  | .cvtF16x2F32 f => .word (vR 22 7 f { mask := 0x7e000070, bits := 0x2c000070, pipe := .alu, ext := .imm, d := (.v 1 1 false true), a := (.v 1 1 true false), b := (.v 1 1 true false), t := true })
  | .unpkBf16x2 f => .word (vR 23 0 f { mask := 0x7e001ff0, bits := 0x2e000000, pipe := .alu, ext := .no, d := (.v 2 2 false true), a := (.v 1 1 true false), b := .non, t := true })
  | .unpkF16x2 f => .word (vR 23 1 f { mask := 0x7e001ff0, bits := 0x2e000010, pipe := .alu, ext := .no, d := (.v 2 2 false true), a := (.v 1 1 true false), b := .non, t := true })
  | .cvtF64I32 f => .word (vR 23 2 f { mask := 0x7e001ff0, bits := 0x2e000020, pipe := .alu0, ext := .no, d := (.v 2 2 false true), a := (.v 1 1 true false), b := .non, t := true })
  | .cvtI32F64 f => .word (vR 23 3 f { mask := 0x7e001c70, bits := 0x2e000030, pipe := .alu0, ext := .no, d := (.v 1 1 false true), a := (.v 2 2 true false), b := .raw, t := true })
  | .packI8x4 f => .word (vR 23 4 f { mask := 0x7e000070, bits := 0x2e000040, pipe := .alu, ext := .sext, d := (.v 1 1 false true), a := (.v 2 2 true false), b := (.v 2 2 true false), t := true })
  | .packN8x4 f => .word (vR 23 5 f { mask := 0x7e000070, bits := 0x2e000050, pipe := .alu, ext := .sext, d := (.v 1 1 false true), a := (.v 2 2 true false), b := (.v 2 2 true false), t := true })
  | .unpkI8x4 f => .word (vR 23 6 f { mask := 0x7e000070, bits := 0x2e000060, pipe := .alu, ext := .imm, d := (.v 2 2 false true), a := (.v 1 1 true false), b := (.v 1 1 true false), t := true })
  | .unpkN8x4 f => .word (vR 23 7 f { mask := 0x7e000070, bits := 0x2e000070, pipe := .alu, ext := .imm, d := (.v 2 2 false true), a := (.v 1 1 true false), b := (.v 1 1 true false), t := true })
  | .qnt f => .word (vR 24 0 f { mask := 0x7e000070, bits := 0x30000000, pipe := .alu, ext := .imm, d := (.v 1 1 true true), a := (.v 1 1 true false), b := (.v 1 1 true false), t := true })
  | .dqnt f => .word (vR 24 1 f { mask := 0x7e000070, bits := 0x30000010, pipe := .alu, ext := .imm, d := (.v 1 1 true true), a := (.v 1 1 true false), b := (.v 1 1 true false), t := true })
  | .qpack f => .word (vR 24 2 f { mask := 0x7e000070, bits := 0x30000020, pipe := .alu, ext := .imm, d := (.v 1 1 false true), a := (.v 1 1 true false), b := (.v 1 1 true false), t := true })
  | .qunpk f => .word (vR 24 3 f { mask := 0x7e001ff0, bits := 0x30000030, pipe := .alu, ext := .no, d := (.v 2 2 false true), a := (.v 1 1 true false), b := .non, t := true })
  | .segscl f => .word (vR 24 4 f { mask := 0x7e000070, bits := 0x30000040, pipe := .alu, ext := .imm, d := (.v 1 1 false true), a := (.v 1 1 true false), b := (.v 1 1 true false), t := true })
  | .fmtchk f => .word (vR 24 5 f { mask := 0x7e001ff0, bits := 0x30000050, pipe := .alu, ext := .no, d := (.v 1 1 false true), a := (.v 1 1 true false), b := .non, t := true })
  | .ld f => .word (vX 32 f { mask := 0x7e000000, bits := 0x40000000, pipe := .mem, ext := .off, d := (dLoad f.b), a := (aSpace f.b), b := .raw, t := false })
  | .st f => .word (vX 33 f { mask := 0x7e000000, bits := 0x42000000, pipe := .mem, ext := .off, d := (dStore f.b), a := (aSpace f.b), b := .raw, t := false })
  | .ldNt f => .word (vX 34 f { mask := 0x7e000380, bits := 0x44000000, pipe := .mem, ext := .off, d := (dLoad f.b), a := (aSpace f.b), b := .raw, t := false })
  | .stNt f => .word (vX 35 f { mask := 0x7e000380, bits := 0x46000000, pipe := .mem, ext := .off, d := (dStore f.b), a := (aSpace f.b), b := .raw, t := false })
  | .ldfe f => .word (vX 36 f { mask := 0x7e000000, bits := 0x48000000, pipe := .mem, ext := .off, d := (dLoad f.b), a := (aSpace f.b), b := .raw, t := false })
  | .stfe f => .word (vX 37 f { mask := 0x7e000000, bits := 0x4a000000, pipe := .mem, ext := .off, d := (dStore f.b), a := (aSpace f.b), b := .raw, t := false })
  | .pf f => .word (vX 38 f { mask := 0x7ff01f80, bits := 0x4c000000, pipe := .mem, ext := .off, d := .raw, a := (.v 2 2 true false), b := .raw, t := false })
  | .cmoClean f => .word (vX 39 f { mask := 0x7ff81f80, bits := 0x4e000000, pipe := .mem, ext := .off, d := .non, a := (.v 2 2 true false), b := .raw, t := false })
  | .cmoInv f => .word (vX 39 f { mask := 0x7ff81f80, bits := 0x4e000400, pipe := .mem, ext := .off, d := .non, a := (.v 2 2 true false), b := .raw, t := false })
  | .cmoCleaninv f => .word (vX 39 f { mask := 0x7ff81f80, bits := 0x4e000800, pipe := .mem, ext := .off, d := .non, a := (.v 2 2 true false), b := .raw, t := false })
  | .atomG f => .word (vX 40 f { mask := 0x7e000000, bits := 0x50000000, pipe := .mem, ext := .off, d := (dAtom f.b), a := (.v 2 2 true false), b := .raw, t := false })
  | .atomS f => .word (vX 41 f { mask := 0x7e000000, bits := 0x52000000, pipe := .mem, ext := .off, d := (dAtom f.b), a := (.v 1 1 true false), b := .raw, t := false })
  | .atomC f => .word (vX 42 f { mask := 0x7e000000, bits := 0x54000000, pipe := .mem, ext := .off, d := (dAtom f.b), a := (.v 1 1 true false), b := .raw, t := false })
  | .redG f => .word (vX 43 f { mask := 0x7e000000, bits := 0x56000000, pipe := .mem, ext := .off, d := (dRed f.b), a := (.v 2 2 true false), b := .raw, t := false })
  | .bara f => .word (vR 44 0 f { mask := 0x7e07f878, bits := 0x58000000, pipe := .ctl, ext := .no, d := (.v 1 1 false true), a := .non, b := .raw, t := false })
  | .barw f => .word (vR 44 1 f { mask := 0x7ff81878, bits := 0x58000010, pipe := .ctl, ext := .no, d := .non, a := (.v 1 1 true false), b := .raw, t := false })
  | .baraw f => .word (vR 44 2 f { mask := 0x7ffff878, bits := 0x58000020, pipe := .ctl, ext := .no, d := .non, a := .non, b := .raw, t := false })
  | .barinit f => .word (vR 44 3 f { mask := 0x7ff81878, bits := 0x58000030, pipe := .ctl, ext := .no, d := .non, a := (.v 1 1 true false), b := .raw, t := false })
  | .gbar f => .word (vR 44 4 f { mask := 0x7ff81ff8, bits := 0x58000040, pipe := .ctl, ext := .no, d := .non, a := (.v 1 1 true false), b := .non, t := false })
  | .barq f => .word (vR 44 5 f { mask := 0x7e07f878, bits := 0x58000050, pipe := .ctl, ext := .no, d := (.v 1 1 false true), a := .non, b := .raw, t := false })
  | .arrvInit f => .word (vR 45 0 f { mask := 0x7ff80070, bits := 0x5a000000, pipe := .ctl, ext := .imm, d := .non, a := (.v 1 1 true false), b := (.v 1 1 true false), t := false })
  | .arrvAdd f => .word (vR 45 1 f { mask := 0x7ff80070, bits := 0x5a000010, pipe := .ctl, ext := .imm, d := .non, a := (.v 1 1 true false), b := (.v 1 1 true false), t := false })
  | .await f => .word (vR 45 2 f { mask := 0x7ff80070, bits := 0x5a000020, pipe := .ctl, ext := .imm, d := .non, a := (.v 1 1 true false), b := (.v 1 1 true false), t := false })
  | .awaitT f => .word (vR 45 3 f { mask := 0x7e000070, bits := 0x5a000030, pipe := .ctl, ext := .imm, d := (.v 1 1 true true), a := (.v 1 1 true false), b := (.v 1 1 true false), t := false })
  | .arrvRd f => .word (vR 45 4 f { mask := 0x7e001ff8, bits := 0x5a000040, pipe := .ctl, ext := .no, d := (.v 2 2 false true), a := (.v 1 1 true false), b := .non, t := false })
  | .fenceAcq f => .word (vR 46 0 f { mask := 0x7ffffc7f, bits := 0x5c000000, pipe := .ctl, ext := .no, d := .non, a := .non, b := .raw, t := false })
  | .fenceRel f => .word (vR 46 1 f { mask := 0x7ffffc7f, bits := 0x5c000010, pipe := .ctl, ext := .no, d := .non, a := .non, b := .raw, t := false })
  | .fenceAr f => .word (vR 46 2 f { mask := 0x7ffffc7f, bits := 0x5c000020, pipe := .ctl, ext := .no, d := .non, a := .non, b := .raw, t := false })
  | .fenceSp f => .word (vR 46 3 f { mask := 0x7ffffc7f, bits := 0x5c000030, pipe := .ctl, ext := .no, d := .non, a := .non, b := .raw, t := false })
  | .ifence f => .word (vR 46 4 f { mask := 0x7ffffc7f, bits := 0x5c000040, pipe := .ctl, ext := .no, d := .non, a := .non, b := .raw, t := false })
  | .pbar f => .word (vR 46 5 f { mask := 0x7ffffc7f, bits := 0x5c000050, pipe := .ctl, ext := .no, d := .non, a := .non, b := .raw, t := false })
  | .psync f => .word (vR 46 6 f { mask := 0x7ffffc7f, bits := 0x5c000060, pipe := .ctl, ext := .no, d := .non, a := .non, b := .raw, t := false })
  | .mma f => .word (vX 48 f { mask := 0x7f000000, bits := 0x60000000, pipe := .mtx, ext := (.pay 0x1FFF), d := .raw, a := (.v 6 2 true false), b := (.v 6 2 true false), t := false })
  | .mzero f => .word (vX 49 f { mask := 0x7fe7ff80, bits := 0x62000000, pipe := .mtx, ext := .no, d := .raw, a := .non, b := .non, t := false })
  | .mrd f => .word (vX 50 f { mask := 0x7e061800, bits := 0x64000000, pipe := .mtx, ext := .no, d := (.v 8 8 false true), a := .raw, b := .raw, t := false })
  | .mwr f => .word (vX 51 f { mask := 0x7fe01800, bits := 0x66000000, pipe := .mtx, ext := .no, d := .raw, a := (.v 8 8 true false), b := .raw, t := false })
  | .mdrain f => .word (vX 52 f { mask := 0x7fc01f80, bits := 0x68000000, pipe := .mtx, ext := (.pay 0xF), d := .raw, a := (.v 8 8 true false), b := .non, t := false })
  | .mfence f => .word (vR 53 0 f { mask := 0x7fffffff, bits := 0x6a000000, pipe := .mtx, ext := .no, d := .non, a := .non, b := .raw, t := false })
  | .mwait f => .word (vR 53 1 f { mask := 0x7ffffc78, bits := 0x6a000010, pipe := .mtx, ext := .no, d := .non, a := .non, b := .raw, t := false })
  | .mwm f => .word (vR 53 2 f { mask := 0x7ff81e78, bits := 0x6a000020, pipe := .mtx, ext := .no, d := .non, a := (.v 1 1 true false), b := .raw, t := false })
  | .mtld f => .word (vR 53 3 f { mask := 0x7e000070, bits := 0x6a000030, pipe := .mtx, ext := .imm, d := (.v 8 8 false true), a := (.v 2 2 true false), b := (.v 1 1 true false), t := false })
  | .mstat f => .word (vR 53 4 f { mask := 0x7e07fe78, bits := 0x6a000040, pipe := .mtx, ext := .no, d := (.v 1 1 false true), a := .non, b := .raw, t := false })
  | .cpy f => .word (vX 54 f { mask := 0x7e001000, bits := 0x6c000000, pipe := .ctl, ext := (.pay 0xF), d := (.v 1 1 false true), a := (.v 8 8 true false), b := .raw, t := false })
  | .cpym f => .word (vX 55 f { mask := 0x7e001000, bits := 0x6e000000, pipe := .ctl, ext := (.pay 0xFF03), d := (.v 1 1 false true), a := (.v 8 8 true false), b := .raw, t := false })
  | .cpystg f => .word (vR 56 0 f { mask := 0x7ff81ff8, bits := 0x70000000, pipe := .ctl, ext := .no, d := .non, a := (.v 1 1 true false), b := .non, t := false })
  | .cpystgRet f => .word (vR 56 0 f { mask := 0x7ff81ff8, bits := 0x70080000, pipe := .ctl, ext := .no, d := .non, a := (.v 1 1 true false), b := .non, t := false })
  | .cpytst f => .word (vR 56 1 f { mask := 0x7e001ff8, bits := 0x70000010, pipe := .ctl, ext := .no, d := (.v 1 1 false true), a := (.v 1 1 true false), b := .non, t := false })
  | .cpywt f => .word (vR 56 2 f { mask := 0x7ff81ff8, bits := 0x70000020, pipe := .ctl, ext := .no, d := .non, a := (.v 1 1 true false), b := .non, t := false })
  | .cpyq f => .word (vR 56 3 f { mask := 0x7e07f878, bits := 0x70000030, pipe := .ctl, ext := .no, d := (.v 2 2 false true), a := .non, b := .raw, t := false })
  | .cpycnl f => .word (vR 56 4 f { mask := 0x7e001ff8, bits := 0x70000040, pipe := .ctl, ext := .no, d := (.v 1 1 false true), a := (.v 1 1 true false), b := .non, t := false })
  | .rput f => .word (vX 58 f { mask := 0x7ff80000, bits := 0x74000000, pipe := .ctl, ext := .no, d := .non, a := (.v 8 8 true false), b := .raw, t := false })
  | .rget f => .word (vX 59 f { mask := 0x7ff80000, bits := 0x76000000, pipe := .ctl, ext := .no, d := .non, a := (.v 8 8 true false), b := .raw, t := false })
  | .rred f => .word (vX 60 f { mask := 0x7ff80000, bits := 0x78000000, pipe := .ctl, ext := .no, d := .non, a := (.v 8 8 true false), b := .raw, t := false })
  | .rstv f => .word (vR 61 0 f { mask := 0x7e000078, bits := 0x7a000000, pipe := .ctl, ext := (.pay 0x3F), d := .raw, a := (.v 1 1 true false), b := (.v 2 2 true false), t := false })
  | .rrcv f => .word (vR 61 1 f { mask := 0x7e07fc78, bits := 0x7a000010, pipe := .ctl, ext := .no, d := .raw, a := .non, b := .raw, t := false })
  | .name f => .word (vR 61 2 f { mask := 0x7e07fff8, bits := 0x7a000020, pipe := .ctl, ext := .no, d := (.v 2 2 false true), a := .non, b := .non, t := false })
  | .rstat f => .word (vR 61 3 f { mask := 0x7e07fff8, bits := 0x7a000030, pipe := .ctl, ext := .no, d := (.v 1 1 false true), a := .non, b := .non, t := false })
  | .meetEntryFree _ => .event
  | .partialGangTimer _ => .event
  | .heldSetExchange _ => .event
  | .splitPromotion _ => .event
  | .binTimer _ => .event
  | .spawnRoom _ => .event
  | .tokenGrant _ => .event
  | .mmaEngineStart _ => .event
  | .mmaBlockEnd _ => .event
  | .mmaResume _ => .event
  | .mmaSuspend _ => .event
  | .refillAccept _ _ => .event
  | .copyQueueSpace _ => .event
  | .chunkStart _ _ => .event
  | .copyQueueResume _ _ => .event
  | .chunkEnd _ _ => .event
  | .copyComplete _ _ => .event
  | .barrierWake _ => .event
  | .groupPhaseComplete _ _ => .event
  | .awaitWake _ => .event
  | .awaitTimeout _ => .event
  | .loadDataReturn _ => .event
  | .homeRead _ => .event
  | .homeWrite _ => .event
  | .storeAck _ => .event
  | .parkedReplay _ => .event
  | .migrationComplete _ _ => .event
  | .pageMove _ _ _ _ => .event
  | .wcBufferDrain _ => .event
  | .l2Writeback _ => .event
  | .clockTick _ => .event
  | .sweepComplete _ => .event
  | .fenceSpValidate _ => .event
  | .persistAccept _ => .event
  | .epochClosedNotice _ _ _ => .event
  | .cxlSnoopInvalidation _ _ => .event
  | .hostMemRead _ _ => .event
  | .hostMemWrite _ _ => .event
  | .cxlCompletionTimeout _ => .event
  | .ideCheckFail => .event
  | .ideKm => .event
  | .remoteAccessArrive _ => .event
  | .remoteResponse _ _ _ => .event
  | .remoteTimeout _ => .event
  | .dropNotice _ => .event
  | .bulkPacketArrive _ => .event
  | .bulkAck _ _ _ _ => .event
  | .messageArrive _ => .event
  | .linkTraining _ => .event
  | .linkRekey _ => .event
  | .linkDown _ => .event
  | .packDispatch _ _ => .event
  | .launchComplete _ => .event
  | .drainPreemption _ => .event
  | .hardPreemption _ => .event
  | .packRestore _ _ _ => .event
  | .sundeshThreadWake _ => .event
  | .waitTimeout _ => .event
  | .queueRotation _ _ => .event
  | .poolUpdate _ => .event
  | .telemetryRefresh => .event
  | .railOvercurrent => .event
  | .clockStepUp => .event
  | .junctionOver105 _ => .event
  | .thermalTrip => .event
  | .powerLoss => .event
  | .powerOn => .event
  | .bringupStage => .event
  | .poisonRecheck _ => .event
  | .uncontainableError => .event
  | .settPageCopy _ _ => .event
  | .snapshotComplete _ => .event
  | .parityFold _ _ => .event
  | .rebuildDone _ => .event
  | .heartbeatTimeout => .event
  | .doorbell _ _ => .event
  | .warmReset => .event
  | .plimWrite _ => .event
  | .hostRegisterWrite _ _ => .event
  | .qreg _ _ => .event
  | .qunreg _ => .event
  | .qresume _ => .event
  | .preempt _ _ => .event
  | .fwstage _ _ => .event
  | .fwact _ => .event
  | .dbgstate _ _ _ => .event
  | .dbgwrite _ _ _ => .event
  | .dbgresume _ _ => .event
  | .nopPacket _ _ => .event
  | .launch _ _ => .event
  | .graphSeal _ _ => .event
  | .graphLaunch _ _ => .event
  | .wait _ _ => .event
  | .signalWrite _ _ => .event
  | .signalAdd _ _ => .event
  | .barrier _ _ => .event
  | .mapRoot _ _ => .event
  | .mapSync _ _ => .event
  | .dspalloc _ _ => .event
  | .dspfree _ _ => .event
  | .migreg _ _ => .event
  | .mcgroup _ _ => .event
  | .mcfree _ _ => .event
  | .unmap _ _ => .event
  | .bias _ _ => .event
  | .cap _ _ => .event
  | .step _ _ => .event
  | .snapregionAdd _ _ => .event
  | .snapregionRemove _ _ => .event
  | .rebuild _ _ => .event
  | .persist _ _ => .event
  | .attest _ _ => .event
  | .getVersion => .event
  | .getCapabilities => .event
  | .negotiateAlgorithms => .event
  | .getDigests => .event
  | .getCertificate _ => .event
  | .challenge _ => .event
  | .getMeasurements _ => .event
  | .keyExchange => .event
  | .finish => .event
  | .endSession => .event
  | .keyset _ _ => .event
  | .keyrevoke _ => .event
  | .opqDrain _ => .event
  | .leaseCopyEviction _ => .event

/-- What is wrong with an instruction word whatever stands before it. -/
inductive IllFormed where
  /-- a fixed or must-be-zero bit differs (R43, R120) -/
  | fixedBits
  /-- a direct register field breaks the evenness or range of its operand (R29, R207, R248) -/
  | registerField
  /-- a field holds a value the entry excludes (R42, R176, R226, R246) -/
  | excludedValue
  deriving DecidableEq, Repr

/-- A register field is direct and fits, or indexed (R29). -/
def Opnd.fits (o : Opnd) (field : Nat) : Bool :=
  match o with
  | .v n al _ _ => decide (56 ≤ field) || (decide (field % al = 0) && decide (field + n ≤ 56))
  | _ => true

/-- The AOP and AW pairs of R246. -/
def atomOk (aop aw : Nat) : Bool :=
  if aop = 0 ∨ aop = 9 then true
  else if aop = 10 then decide (aw ≤ 2)
  else if aop = 13 ∨ aop = 14 then decide (2 ≤ aw)
  else decide (aop ≤ 12) && decide (aw ≤ 1)

/-- The scopes each form of group 0x2E accepts (table before R226). -/
def scopeOk (fn scope : Nat) : Bool :=
  match fn with
  | 0 => decide (scope ≤ 6)
  | 1 => decide (scope ≤ 6)
  | 2 => decide (scope ≤ 6)
  | 3 => decide (2 ≤ scope) && decide (scope ≤ 4)
  | 4 => decide (1 ≤ scope) && decide (scope ≤ 6)
  | 5 => decide (3 ≤ scope) && decide (scope ≤ 5)
  | 6 => decide (3 ≤ scope) && decide (scope ≤ 5)
  | _ => false

/-- A field value the entry of the word's group excludes. -/
def View.excluded (v : View) : Bool :=
  let w := v.b / 8
  let s := v.b % 8
  if v.op = 0x20 then decide (w = 7) || decide (4 ≤ s)
  else if v.op = 0x21 then decide (5 ≤ w) || decide (4 ≤ s)
  else if v.op = 0x22 then decide (w = 7) || decide (s ≠ 0)
  else if v.op = 0x23 then decide (5 ≤ w) || decide (s ≠ 0)
  else if v.op = 0x24 ∨ v.op = 0x25 then !((w = 2 || w = 3) && (s = 1 || s = 2))
  else if 0x28 ≤ v.op ∧ v.op ≤ 0x2A then !(atomOk (v.b / 4) (v.b % 4))
  else if v.op = 0x2B then !(atomOk (v.b / 4) (v.b % 4)) || decide (v.b / 4 = 10)
  else if v.op = 0x2E then !(scopeOk v.fn v.b)
  else if v.op = 0x16 ∧ v.fn ≤ 4 ∨ v.op = 0x17 ∧ v.fn = 3 then decide (5 ≤ v.b)
  else if (v.op = 0x04 ∧ v.fn = 5) ∨ (v.op = 0x04 ∧ v.fn = 6) then decide (v.d < 56) && decide (56 < v.d + v.b + 1)
  else if v.op = 0 ∧ v.fn = 6 ∨ v.op = 0 ∧ v.fn = 7 then decide (32 ≤ v.a)
  else if v.op = 0x3D ∧ v.fn = 1 then decide (56 < v.d + v.b % 8 + 1)
  else if v.op = 0x32 then decide (v.a / 4 % 4 = 3)
  else false

/-- The first check a word fails, whatever stands before it; B and T of a form that accepts an immediate are not tested here, since EXT may use them (R32). -/
def View.ill (v : View) : Option IllFormed :=
  if v.word % 2 ^ 31 &&& v.form.mask ≠ v.form.bits then some .fixedBits
  else if !(v.form.d.fits v.d && v.form.a.fits v.a && ((v.form.ext = .imm || v.form.ext = .sext || v.form.ext = .f64) || v.form.b.fits v.b)) then some .registerField
  else if v.excluded then some .excludedValue
  else none

/-- The values an EXT payload may hold beyond its zero bits: space 3 of a matrix or copy word does not exist, and a CPYM names some core (R278, R309, R312). -/
def View.payOk (v : View) (x : Nat) : Bool :=
  if v.op = 0x30 then decide (x / 8 % 4 ≠ 3) && decide (x / 32 % 4 ≠ 3)
  else if v.op = 0x34 ∨ v.op = 0x36 then decide (x % 4 ≠ 3) && decide (x / 4 % 4 ≠ 3)
  else if v.op = 0x37 then decide (x % 4 ≠ 3) && decide (x / 2 ^ 8 ≠ 0)
  else true

/-- The EXT prefix, or its absence, agrees with the word (R32 to R34, R37): without it B must fit and T needs a transient form; with it the form must accept it and its payload must use no other bits. (DEDUCED, assumption log 33) -/
def View.extOk (v : View) (ext : Option (BitVec 25)) : Bool :=
  match ext with
  | none => v.form.b.fits v.b && (!v.t || v.form.t) && decide (v.op ≠ 0x37)
  | some x =>
    match v.form.ext with
    | .no => false
    | .pay m => decide (x.toNat &&& m = x.toNat) && v.payOk x.toNat
    | _ => true

end Sys2Proof.Machine
end

