-- ==== Sys2Proof/Config.lean ====
section
/-! DEFINITION. What the manual leaves to the hardware. Every constant here is a FREE VALUE: it has no body, so no proof can use a value of it. The counter it is applied to is run.draws (assumption log 1). -/
namespace Sys2Proof.Config

/-- R5, "one of the following, chosen by the hardware": the pick of the n-th draw (used when run.choices is empty). (DESIGN CHOICE, assumption log 1) -/
opaque choice : Nat → Nat

/-- R6, an undefined value of 32 bits: draw number and position within the draw. (DESIGN CHOICE, assumption log 1) -/
opaque undefWord : Nat → Nat → Word

/-- R6, an undefined byte of memory. (DESIGN CHOICE, assumption log 1) -/
opaque undefByte : Nat → Nat → Byte

/-- R172: which of the two FP32 neighbours of 1/sqrt(A) FRSQ delivers; a fixed function of the operand. (DESIGN CHOICE, assumption log 11) -/
opaque frsqUp : Word → Bool

/-- R172: FEXP2 of an operand that is not one of the exact cases. (DESIGN CHOICE, assumption log 11) -/
opaque fexp2 : Word → Word

/-- R172: FLOG2 of an operand that is not one of the exact cases. (DESIGN CHOICE, assumption log 11) -/
opaque flog2 : Word → Word

/-- R172: FSIN of a finite nonzero operand. -/
opaque fsin : Word → Word

/-- R172: FCOS of a finite nonzero operand. -/
opaque fcos : Word → Word

/-- R172: FTANH of a finite nonzero operand of magnitude below 9. -/
opaque ftanh : Word → Word

/-- SHA-384 of a byte string (R381, R383, R387, R424): the manual names the function and does not give it. -/
opaque sha384 : List Byte → BitVec 384

/-- ECDSA signature with the device identity key over a byte string (R387): r and s. -/
opaque sign : List Byte → BitVec 768

/-- The check of a firmware image's signature against the vendor key of the boot ROM (R383). -/
opaque imageSigned : List Byte → Bool

/-- A secret or random value of the device's own (R421, R423, R424): draw number. -/
opaque secret : Nat → BitVec 384

/-- The device serial number (R387). -/
opaque serial : BitVec 128

/-- Sundesh's new size of a die's token pool from the last interval's package power (R433): draw and die. (DESIGN CHOICE, assumption log 71) -/
opaque poolTarget : Nat → Nat → Nat
/-- The largest token pool that the hardware clamp of a package limit in W allows (R19); the spec does not state it for a limit below the module's 3,600 W. (DESIGN CHOICE, assumption log 71) -/
opaque poolClamp : Nat → Nat

/-- A telemetry reading (R435): draw number, die and counter. -/
opaque reading : Nat → Nat → Nat → BitVec 64

/-- Handles the migration tables hold (R198, R361): the manual gives no number. -/
opaque migrationRoom : Nat

/-- The handover version an image writes (R384): the manual does not say where it stands. -/
opaque handoverVersion : List Byte → Nat

/-- The boot ROM's bytes (R387), and the certificate chain of slot 0 (R424). -/
opaque bootRom : List Byte
opaque certificateChain : List Byte

/-- The product form fused into the device (R1, R424). -/
opaque productForm : Byte

/-- The fabric identity the fabric configuration gives the device (R17): pod×4096 + device. -/
opaque fabricId : BitVec 20

/-- The frames Sundesh holds free when it starts (R198): tier and stack. -/
opaque freeFrames : Nat → Nat → List Nat

end Sys2Proof.Config
end

