-- ==== Sys2Proof/Machine/Sparse.lean ====
section
/-! DEFINITION. Sparse maps from naturals: the ONE form in which the state holds memory and every numbered register. A map is a list of (key, value) pairs, keys strictly rising, no entry equal to the default an unlisted key reads as, so that equal maps are equal lists. -/
namespace Sys2Proof.Machine

/-- A sparse map with values in V. -/
abbrev Sparse (V : Type) := List (Nat × V)

/-- The value at a key; an unlisted key reads as the default d. (DESIGN CHOICE, assumption log 3) -/
def Sparse.get {V : Type} (d : V) : Sparse V → Nat → V
  | [], _ => d
  | (k, v) :: m, j => if j = k then v else if j < k then d else Sparse.get d m j

/-- Insert at the place that keeps the keys rising; the value written is not the default. -/
def Sparse.put {V : Type} : Sparse V → Nat → V → Sparse V
  | [], j, w => [(j, w)]
  | (k, v) :: m, j, w =>
    if j = k then (k, w) :: m else if j < k then (j, w) :: (k, v) :: m else (k, v) :: Sparse.put m j w

/-- Remove a key. -/
def Sparse.drop {V : Type} : Sparse V → Nat → Sparse V
  | [], _ => []
  | (k, v) :: m, j => if j = k then m else if j < k then (k, v) :: m else (k, v) :: Sparse.drop m j

/-- Write one key. Writing the default removes the entry, which keeps the canonical form. (DESIGN CHOICE, assumption log 3) -/
def Sparse.set {V : Type} [DecidableEq V] (d : V) (m : Sparse V) (j : Nat) (w : V) : Sparse V :=
  if w = d then Sparse.drop m j else Sparse.put m j w

/-- Every key of m is above lo, the keys rise strictly and no value is the default. -/
def Sparse.wfFrom {V : Type} [DecidableEq V] (d : V) : Option Nat → Sparse V → Bool
  | _, [] => true
  | lo, (k, v) :: m => (match lo with | none => true | some l => decide (l < k)) && decide (v ≠ d) && Sparse.wfFrom d (some k) m

/-- The canonical form. -/
def Sparse.wf {V : Type} [DecidableEq V] (d : V) (m : Sparse V) : Bool := Sparse.wfFrom d none m

end Sys2Proof.Machine
end

