-- ==== Sys2Proof/Machine/State.lean ====
section
/-! DEFINITION. The state of the machine: one device, plain data. Every numbered piece of state is a sparse map (Sparse.lean) with the key layout of assumption log 3: pack = unique number p, slice = p×128 + SID, lane = slice×4 + LANE, gang = p×128 + GANG, quadrant = core×4 + q, tile = gang×4 + k, die and core as R10. -/
namespace Sys2Proof.Machine

/-! ### Lanes and slices (03_control, 04_system, 05_integer) -/

/-- An open transient result of one lane (R38): the value the bypass holds for a register. -/
structure Trans where
  lane : Nat
  reg : Nat
  val : Word
  /-- instructions of the window still to come -/
  left : Nat
  /-- packet and word of the producer (R39) -/
  pkt : Nat
  word : Nat
  /-- instructions issued since the producer, the producer counted (R94 DIST) -/
  dist : Nat
  deriving DecidableEq, Repr

/-- Why a slice does not issue (R56, R64, R106, R112). -/
inductive Status where
  /-- issues when its split is chosen -/
  | run
  /-- arrived at a meet (R56): mode, meet number, packet of the REGANG, ac of the arrival -/
  | meet (mode m pkt since : Nat)
  /-- BARW, BARAW (R254): barrier and the phase it waits on -/
  | barrier (b phase : Nat)
  /-- GBAR (R257): group number and the phase of its arrival -/
  | group (g phase : Nat)
  /-- AWAIT, AWAIT.T (R259): per active lane the lane, its word's key and generation; the ac of the timeout; the destination registers of the result -/
  | await (lanes : List (Nat × Nat × Nat)) (until_ : Option Nat) (dst : List (Nat × Nat))
  /-- a SPAWN whose bin has no room (R80): die, instance, node, records -/
  | spawnRoom (bin n : Nat)
  /-- a copy-class instruction without space in a queue, or without free slots at the cluster positions of a mask (R292, R310) -/
  | copySpace (queue mask : Nat)
  /-- stopped by a fatal trap (R98) or by the end of its launch -/
  | halted
  /-- left the machine by EXIT (R112) -/
  | exited
  deriving DecidableEq, Repr

/-- A place of a slice that a word reads or writes (R26, R40): a register, predicate or index register of a lane, or a window. -/
inductive Dst where
  | r (lane n : Nat) | p (lane n : Nat) | x (lane n : Nat) | w (n : Nat)
  deriving DecidableEq, Repr

/-- The transient span a slice is in (R40): what its producer and its instructions so far read, what they have written, and whether one wrote what the producer or an instruction of the span reads. -/
structure Span where
  reads : List Dst := []
  writes : List Dst := []
  broken : Bool := false
  deriving DecidableEq, Repr

/-- A broken span that is executed again from its oldest producer (R39, R40): that place, the handler mode there, the instructions up to the interrupted one, whether the slice is back there, and the destinations that hold undefined values. -/
structure Redo where
  pkt : Nat
  word : Nat
  hm : Bool := false
  left : Nat
  on : Bool := false
  dsts : List Dst
  deriving DecidableEq, Repr

/-- A window descriptor (R118). -/
structure Window where
  base : Nat
  len : Nat
  deriving DecidableEq, Repr

/-- An RRCV hold (R339): the register held, the lanes, and whether a poisoned part was applied. -/
structure Hold where
  reg : Nat
  mask : BitVec 4
  deriving DecidableEq, Repr

/-- A trap condition of one slice (R95, R97): cause, detail, address or value, the lanes that met it, AFT, RPL, and where it resumes when that is not the issuing group's first word. -/
structure Trap where
  code : Nat
  info : Nat := 0
  addr : Dword := 0
  lanes : BitVec 4 := 0
  aft : Bool := false
  rpl : Bool := false
  resume : Option (Nat × Nat) := none
  /-- instructions of its group before the reported one, or what R276 counts (R94 DIST) -/
  dist : Nat := 0
  /-- an operand test of R96 step 3 -/
  operand : Bool := false
  deriving DecidableEq, Repr

/-- The state of one slice. (DESIGN CHOICE, assumption log 5) -/
structure Slice where
  /-- the slice exists -/
  here : Bool := false
  sid : Nat := 0
  gslot : Nat := 0
  /-- GANG number within the pack (R14) -/
  gang : Nat := 0
  /-- index of its home gang (R334) -/
  home : Nat := 0
  /-- live lanes (R50) -/
  live : BitVec 4 := 0
  /-- packet address (R20) -/
  pc : Nat := 0
  /-- word at which it resumes (R94) -/
  word : Nat := 0
  status : Status := .run
  w0 : Window := ⟨56, 8⟩
  w1 : Window := ⟨56, 8⟩
  w2 : Window := ⟨56, 8⟩
  w3 : Window := ⟨56, 8⟩
  fpctl : Word := 0
  trapcause : Word := 0
  trappc : Word := 0
  trapaddr : Dword := 0
  traplanes : Word := 0
  sptop : Nat := 0
  splim : Nat := 0
  /-- WINCFG.SEL (R94) -/
  sel : Nat := 0
  clkLatch : Option Word := none
  cycLatch : Option Word := none
  /-- origin address of poison (R100) -/
  origin : Option Dword := none
  /-- no poisoned load has recorded its address since the last RTT -/
  originFree : Bool := true
  /-- largest ws acknowledged since the last release (R219) -/
  maxws : Nat := 0
  /-- persist epoch (R239) and the scopes of the PBARs that ended the epochs before it: (epoch, scope) -/
  epoch : Nat := 0
  pbars : List (Nat × Nat) := []
  holds : List Hold := []
  /-- open transient results, youngest first (R38) -/
  trans : List Trans := []
  /-- the transient span (R40), that span with the issuing group in it, and a broken span executed again -/
  span : Span := {}
  spanNext : Span := {}
  redo : Option Redo := none
  /-- flags of floating-point instructions in flight: ac of their completion, and the flags (R164) -/
  flight : List (Nat × BitVec 8) := []
  /-- lookahead windows (R35): outstanding instruction and how many instructions may still issue -/
  looks : List (Nat × Nat) := []
  /-- the next group executes in these lanes only (RTT with RPL, R113) -/
  only : Option (BitVec 4) := none
  /-- the breakpoint or watchpoint match (CODE and number) suppressed for the first group (R105) -/
  suppress : Option (Nat × Nat) := none
  /-- single-step: stop after the next group (R107); that group has issued and the slice waits in it -/
  stepping : Bool := false
  stepped : Bool := false
  /-- it took its last control transfer: it is on the taken side of its split's divergence, whatever the target (R51, R53) -/
  taken : Bool := false
  /-- a trap was taken while earlier loads are outstanding: the handler waits for them (R97) -/
  drain : Bool := false
  /-- stopped, or to stop at its next group boundary, for a debugger (R104, R106) -/
  stop : Bool := false
  /-- instructions issued since dispatch, for DIST (R94) -/
  issued : Nat := 0
  /-- the trap of a suspended MMA, taken at the next group boundary (R276): its `dist` is the number of instructions issued up to that MMA -/
  owed : Option Trap := none
  /-- the last release was a pod-scope one, for RSTV's REL bit (R343) -/
  podRel : Bool := false
  deriving DecidableEq, Repr

/-- A held set of a split-table entry (R54). -/
structure Held where
  slices : List Nat
  since : Nat
  deriving DecidableEq, Repr

/-- A split-table entry (R52): the running split's slices in GSLOT order, its gang, its held sets (top first), and the issue book-keeping of R65, R66 and R111. -/
structure Split where
  slices : List Nat := []
  gang : Nat := 0
  age : Nat := 0
  held : List Held := []
  /-- ac from which its promotion count runs: its last issue other than a YIELD, or its becoming a running split (R66, R111) -/
  last : Nat := 0
  /-- ac of its last issue as this split (R65 step 3) -/
  issuedAt : Option Nat := none
  promoted : Bool := false
  /-- YIELD: not chosen in step 3 of R65, and not for 16 ac (R111) -/
  yield : Option Nat := none
  deriving DecidableEq, Repr

/-- A debug block as Sundesh read it (R103). -/
structure Debug where
  bps : List (Option Nat) := []
  wps : List (Nat × Nat × Nat) := []
  scope : Nat := 0
  attach : Bool := false
  step : Bool := false
  note : Option Nat := none
  va : Nat := 0
  deriving DecidableEq, Repr

/-- An entry of a static copy schedule (R306): the first eight words as a descriptor, the signed steps per pack index, the stage, queue, spaces, and the consumer count of a refill. -/
structure SchedEntry where
  desc : List Nat
  sstep : Nat
  dstep : Nat
  stage : Nat
  queue : Nat
  ss : Nat
  sd : Nat
  /-- trigger 1: a refill -/
  refill : Bool
  cons : Nat
  deriving DecidableEq, Repr

/-- One pack: the values its launch gave it (R91, R370, R371). -/
structure Pack where
  /-- resident on a core (R15); false when saved or ended -/
  here : Bool := false
  core : Nat := 0
  slot : Nat := 0
  gen : Nat := 0
  /-- core and slot at first residency, with `gen` the pack's name (R335) -/
  core0 : Nat := 0
  slot0 : Nat := 0
  /-- saved away by a hard pre-emption (R379) -/
  saved : Bool := false
  launch : Nat := 0
  launchId : Word := 0
  queue : Nat := 0
  asid : Nat := 0
  prio : Nat := 0
  /-- linear pack index and grid indices -/
  index : Nat := 0
  px : Word := 0
  py : Word := 0
  pz : Word := 0
  ngang : Nat := 1
  nsl : Nat := 8
  regs : Nat := 64
  tiles : Nat := 0
  scratch : Nat := 0
  /-- lane-private window size and base LPB (R186) -/
  lpsize : Nat := 4096
  lpbase : Nat := 0
  groups : List Nat := []
  groupEntries : Nat := 0
  textBase : Nat := 0
  entry : Nat := 0
  handler : Nat := 0
  arrvBase : Nat := 0
  barriers : Nat := 16
  /-- member of a cluster set: linear index of its first pack (R185) -/
  cluster : Option Nat := none
  /-- dispatch age (R65) -/
  age : Nat := 0
  /-- spawned gang: graph instance and node depth (R78) -/
  spawned : Option (Nat × Nat) := none
  debug : Option Debug := none
  /-- quadrant of each gang at dispatch is gang mod 4; slices of the pack placed on each quadrant (R62) -/
  quota : List Nat := []
  /-- the stage counter, the static copy schedule, and its entries that have fired and that have been accepted (R307, R308) -/
  stage : Nat := 0
  sched : List SchedEntry := []
  fired : List Nat := []
  taken : List Nat := []
  /-- a maintenance launch (R311) -/
  maint : Bool := false
  /-- a hard pre-emption is under way: nothing of the pack begins (R379) -/
  freeze : Bool := false
  deriving DecidableEq, Repr

/-- One gang: its quadrant, its sticky remote status, and its tiles (R91, R94). -/
structure Gang where
  quad : Nat := 0
  rstatus : Word := 0
  accmap : Nat := 0
  age : Nat := 0
  /-- slices it was formed with (NSL) -/
  nsl : Nat := 0
  deriving DecidableEq, Repr

/-- A barrier register (R250). -/
structure Bar where
  phase : Nat := 0
  cnt : Nat := 0
  exp : Nat := 0
  deriving DecidableEq, Repr

/-! ### Memory requests and coherence (08_memory, 09_ordering, 10_sync) -/

/-- What an instruction that parks as a whole does in a lane's window when it replays (R27, R90), with what it read at issue: the SPTOP it leaves; for SPILL the poison bits of its words, for FILL its registers, for CALL and CALLR the target, for RET the guarded lanes. -/
inductive Whole where
  | spill (top : Nat) (psn : List Bool)
  | fill (top : Nat) (regs : List Nat)
  | push (top target : Nat)
  | pop (top : Nat) (lanes : BitVec 4)
  deriving DecidableEq, Repr

/-- What a request does at its performing point. -/
inductive ReqKind where
  /-- a load: widths of R207, destination registers in order -/
  | load (w : Nat) (dst : List Nat)
  | store
  /-- an atomic (R246): AOP, AW, destination registers (empty for RED.g) -/
  | atom (aop aw : Nat) (dst : List Nat)
  /-- PF (R213): level -/
  | prefetch (level : Nat)
  /-- LDFE that waits for a full word (R261) -/
  | ldfe (dst : List Nat)
  /-- an RSTV message to another device (R345) -/
  | message
  /-- a packet of a bulk operation (R330) -/
  | bulk (op pkt : Nat)
  /-- a lane of an instruction that parks as a whole (R90): its block of the lane's window, and the words to be written -/
  | again (w : Whole)
  /-- a page an MDRAIN waits for, as a whole (R284): its drain -/
  | drain (id : Nat)
  /-- CMO of a lane that parked (R214): FN -/
  | cmo (fn : Nat)
  deriving DecidableEq, Repr

/-- Where a request stands. -/
inductive ReqState where
  /-- parked on a fault, a window or a bias flip (R211): it translates again -/
  | parked
  /-- a write of an MDRAIN whose bytes are not yet computed: not accepted (R285) -/
  | forming
  /-- accepted, not performed -/
  | queued
  /-- a load served: bytes, wts, poison -/
  | served (data : List Byte) (wts : Nat) (psn : Bool)
  /-- performed at its home with ws; `old` is what an atomic returns -/
  | done (ws : Nat) (old : List Byte) (psn : Bool)
  deriving DecidableEq, Repr

/-- An outstanding memory access of one lane (R35, R211, R220, R221). -/
structure Req where
  slice : Nat
  lane : Nat
  /-- instruction number: the lanes of one instruction share it (R245) -/
  iid : Nat
  core : Nat
  kind : ReqKind
  state : ReqState
  va : Nat
  /-- memory key (assumption log 3), 0 while parked -/
  key : Nat
  size : Nat
  data : List Byte := []
  op2 : List Byte := []
  /-- TYPE, TIER, KEYID of the page; persist-ordered; host bias -/
  ty : Nat := 0
  tier : Nat := 0
  keyid : Nat := 0
  persist : Bool := false
  /-- write-combining store still in the buffer (R195): ac of its entry -/
  held : Option Nat := none
  /-- FENCE.SP window store, not sent (R229) -/
  window : Bool := false
  nt : Bool := false
  /-- ck of the core when the request left it (R220, R221) -/
  ck : Nat := 0
  epoch : Nat := 0
  /-- wts of the write an atomic read (R221) -/
  wts : Nat := 0
  /-- a store whose value a load of the core has taken from the queue (R218) -/
  seen : Bool := false
  poison : Bool := false
  /-- ranges of a bulk packet's payload that leave marked: offset and length (R100, R428) -/
  marks : List (Nat × Nat) := []
  /-- D field and page facts for traps at replay -/
  field : Nat := 0
  /-- AFT = 0 resume point: packet and word of its instruction -/
  pkt : Nat := 0
  word : Nat := 0
  asid : Nat := 0
  /-- wall-clock time at which a remote access times out (R3, R325) -/
  due : Option Nat := none
  /-- capability channel of its packet (R317); none for a load, store or atomic, whose channel is the slice's own (R319) -/
  chan : Option Nat := none
  /-- target device of a fabric page: pod and device -/
  dev : Nat := 0
  /-- host-bias page (R202) -/
  hb : Bool := false
  /-- other slices a store of an MDRAIN belongs to, with their epochs (R285) -/
  also : List (Nat × Nat) := []
  /-- offsets of its line that its MDRAIN writes (R285) -/
  cover : List Nat := []
  /-- the breakpoint or watchpoint match that its group suppresses (R105) -/
  quiet : Option (Nat × Nat) := none
  /-- what it takes of its MDRAIN's outputs (R283): the drain, the output (0 rows, 1 their scale bytes, 2 transposed rows, 3 their scale bytes), the row, and the first byte of the row -/
  out : Option (Nat × Nat × Nat × Nat) := none
  /-- an access of the operand pipes (R289): `wts` is then the number of the next MMA at its issue, which says what it may miss (R286) -/
  pipe : Bool := false
  deriving DecidableEq, Repr

/-- A lease copy of a line in an L1 (agents 0 to 159) or a non-home L2 (agents 160 to 163) (R219, R220). -/
structure Copy where
  data : List Byte
  wts : Nat
  rts : Nat
  /-- ac of the fill or renewal -/
  fill : Nat
  /-- snoop counter at the fill (R232) -/
  snt : Nat
  psn : Bool
  /-- KEYID tag of each byte (R205) -/
  tags : List Nat := []
  deriving DecidableEq, Repr

/-- One core. (DESIGN CHOICE, assumption log 6) -/
structure Core where
  ck : Nat := 0
  obsv : Nat := 0
  lease : Nat := 32
  /-- ac of the last tick of ck -/
  tick : Nat := 0
  /-- L1 capacity lent back, remote inbox, and Marten state stand in their own maps -/
  stopped : Bool := false
  deriving DecidableEq, Repr

/-- One die: time base, running sweep (ac of its start), snoop counter, token pool and tokens held (R19, R225, R232). (DESIGN CHOICE, assumption log 6) -/
structure Die where
  base : Nat := 0
  phase : Bool := false
  sweep : Option Nat := none
  snt : Nat := 0
  pool : Nat := 160
  held : Nat := 0
  deriving DecidableEq, Repr

/-- A cached translation (R200, R236): its address space and the number of its page at its level, the leaf entry, its level and its address. -/
structure Tlb where
  asid : Nat
  page : Nat
  leaf : Nat
  level : Nat
  at_ : Nat
  deriving DecidableEq, Repr

/-- The speculative window of a gang (R229). -/
structure SpWin where
  scope : Nat
  /-- the fence's packet and word, and the word after it -/
  pkt : Nat
  word : Nat
  nextPkt : Nat
  nextWord : Nat
  /-- instruction number of the fence -/
  iid : Nat
  /-- instructions of the window issued -/
  count : Nat := 0
  slices : List Nat := []
  regs : Sparse Word := []
  psn : Sparse Bool := []
  pred : Sparse (BitVec 8) := []
  idx : Sparse (BitVec 16) := []
  untag : Sparse Bool := []
  wins : List (Nat × Window × Window × Window × Window) := []
  /-- lines read: line key and wts read, none for a value taken from an unsent store of the core -/
  lines : List (Nat × Option Nat) := []
  deriving DecidableEq, Repr

/-- A persist-write between its home and its OPQ (R237): the slices whose epochs it carries, its line and the bytes within it, and the request whose acknowledgement waits with it when the OPQ is full. -/
structure PWrite where
  slices : List (Nat × Nat) := []
  line : Nat
  /-- its bytes: offset in the line, and byte -/
  cells : List Host.Cell
  mark : Bool := false
  /-- a Marten write: its copy and its position in copy order, and whether it is PORD (R305) -/
  copy : Option (Nat × Nat) := none
  pord : Bool := false
  req : Option Nat := none
  /-- issuing die, for a PBAR of scope die -/
  die : Nat := 0
  deriving DecidableEq, Repr

/-! ### Matrix (11_matrix) -/

/-- A tile's state (R264, R290). -/
structure TileSt where
  wm : Nat := 64
  flt : Bool := false
  km : Nat := 0
  row0 : Nat := 0
  deriving DecidableEq, Repr

/-- One lane's rows of A (R269): gang lane, row address, row stride and scale address. -/
structure ARow where
  lane : Nat
  base : Nat
  lda : Nat
  scale : Nat
  deriving DecidableEq, Repr

/-- An MMA that has issued and not ended (R265, R277): its gang, tile and quadrant, the slices with an active lane and what each had issued, the descriptor values read at issue, and its progress. -/
structure Mma where
  /-- its number -/
  id : Nat := 0
  gang : Nat
  tile : Nat
  quad : Nat
  core : Nat
  slices : List (Nat × Nat)
  arows : List ARow
  fa : Word
  fb : Word
  bbase : Nat
  ldb : Nat
  bscale : Nat
  /-- spaces of A and B: 0 g, 1 s, 2 c -/
  sa : Nat
  sb : Nat
  m : Nat
  row0 : Nat
  neg : Bool
  tb : Bool
  acc : Bool
  /-- first row not final -/
  row : Nat
  /-- clock of the core at issue (R234) -/
  ck : Nat
  prio : Nat
  since : Nat
  /-- waits for a page (R275) -/
  parked : Option Nat := none
  /-- length of the journal at issue (R273) -/
  from_ : Nat := 0
  deriving DecidableEq, Repr

/-- A quadrant's engine (R265, R266): the running MMA, those waiting in order, the token, and the ac its block began. -/
structure Engine where
  running : Option Nat := none
  queue : List Nat := []
  token : Bool := false
  blockAt : Nat := 0
  deriving DecidableEq, Repr

/-- A performed write of a slice that MMAs may miss (R272): its bytes before it, and the number of the first MMA that always reads it, because an MFENCE covers it, or, for the slices listed, because they have observed a release it belongs to; `rel` is the ac by which such a release has completed. -/
structure Stale where
  slice : Nat
  key : Nat
  old : List Byte
  covered : Option Nat := none
  rel : Option Nat := none
  seen : List (Nat × Nat) := []
  deriving DecidableEq, Repr

/-- A place written while some MMA is outstanding (R273); for the write of a refill, the bytes that stood there (R308). -/
structure Written where
  key : Nat
  len : Nat
  old : Option (List Byte) := none
  deriving DecidableEq, Repr

/-- An MDRAIN that has issued and not ended (R284, R285): its tile, its split's slices with their persist epochs and the slice through which it translates, its active gang lanes, the descriptor values read at issue, and its progress. -/
structure Drain where
  id : Nat
  gang : Nat
  tile : Nat
  core : Nat
  slices : List (Nat × Nat)
  lead : Nat
  lanes : List Nat
  fmt1 : Word
  fmt2 : Word
  dest : Nat
  ld : Nat
  tdest : Nat
  tld : Nat
  sp1 : Nat
  sp2 : Nat
  tr : Bool
  clr : Bool
  ck : Nat
  iid : Nat
  field : Nat
  pkt : Nat
  word : Nat
  quiet : Option (Nat × Nat) := none
  /-- MMAs numbered below this one come before it; none after one of them was suspended, when it waits for all (R276) -/
  before : Option Nat
  /-- its pages are there and its writes formed -/
  going : Bool := false
  deriving DecidableEq, Repr

/-- Tiles and engines. Element key: tile×4096 + row×64 + column. -/
structure Mat where
  els : Sparse (Word × Word) := []
  marks : Sparse Bool := []
  /-- elements that hold an undefined value (R6) -/
  undef : Sparse Bool := []
  tiles : Sparse TileSt := []
  mmas : Sparse (Option Mma) := []
  engines : Sparse Engine := []
  /-- places written while some MMA is outstanding, newest first (R273) -/
  journal : List Written := []
  stale : List Stale := []
  next : Nat := 0
  /-- MDRAINs under way, oldest first -/
  drains : List Drain := []
  nextDrain : Nat := 0
  deriving DecidableEq, Repr

/-! ### Copies (12_copy) -/

/-- A copy descriptor (R295, R296). -/
structure Desc where
  src : Nat
  dst : Nat
  /-- L and N -/
  len : Nat
  rows : Nat
  sstr : Int
  dstr : Int
  tgt : Nat
  kind : Nat
  low : Bool
  pord : Bool
  zero : Bool
  t32 : Bool
  deriving DecidableEq, Repr

/-- A run of source bytes: its memory key, length, KEYID, TYPE and the poison of its page. -/
structure SrcRun where
  key : Nat
  len : Nat
  keyid : Nat
  ty : Nat
  psn : Bool
  deriving DecidableEq, Repr

/-- A part of a chunk within one destination line: its position in copy order, its source run (none under ZERO), its destination keys (one for each receiver, with the receiver's pack), KEYID, whether it is a persist-write, whether its page is in host bias, the offsets that overlap the source in each receiver (R298), and the data once read. -/
structure Part where
  pos : Nat
  len : Nat
  /-- destination address, its line number there -/
  va : Nat
  src : Option SrcRun
  dst : List (Nat × Nat)
  keyid : Nat
  persist : Bool
  hb : Bool
  lapped : List (Nat × Nat)
  data : Option (List Byte × Bool) := none
  deriving DecidableEq, Repr

/-- A destination line on a persist page that a copy has begun to write (R237): its line in the destination's addresses, its memory line, its first position in copy order, the offsets written, and whether one is marked. -/
structure LineAcc where
  va : Nat
  line : Nat
  pos : Nat
  offs : List Nat
  mark : Bool
  deriving DecidableEq, Repr

/-- A copy that has been accepted and has not completed (R292 to R303). -/
structure CopyJob where
  pack : Nat
  slice : Nat
  seq : Nat := 0
  uid : Nat := 0
  d : Desc
  /-- spaces of source and destination; cores of a CPYM, consumers of a maintenance launch -/
  ss : Nat
  sd : Nat
  mask : Nat := 0
  consumers : Nat := 0
  /-- ck and persist epoch at issue -/
  ck : Nat
  epoch : Nat
  refill : Bool := false
  /-- next chunk, and the chunks in flight with their parts not yet written -/
  next : Nat := 0
  flight : List (Nat × List Part) := []
  lines : List LineAcc := []
  psn : Bool := false
  tc : Nat := 0
  /-- ended before its last chunk: STATE, and the trap's CODE, INFO and VA -/
  stop : Option (Nat × Nat × Nat × Nat) := none
  /-- packs of a CPYM whose arrival word is raised -/
  raised : List Nat := []
  /-- restored from a pre-emption (R304) -/
  kept : Bool := false
  deriving DecidableEq, Repr

/-- The status of a completed copy (R301). -/
structure Past where
  seq : Nat
  state : Nat
  psn : Bool
  tc : Nat
  code : Nat
  info : Nat
  va : Nat
  kept : Bool
  deriving DecidableEq, Repr

/-- A copy queue (R292, R301, R315): its copies, oldest first; copies accepted since the core's reset; the latest 32 completed, newest first, and Tc by number of all completed (R233); PARK and FLT. -/
structure CQueue where
  jobs : List CopyJob := []
  count : Nat := 0
  past : List Past := []
  tcs : List (Nat × Nat) := []
  park : Bool := false
  flt : Bool := false
  deriving DecidableEq, Repr

/-- The MMAs a refill entry covers so far (R308): how many have issued, and which. -/
structure Cover where
  count : Nat := 0
  mmas : List Nat := []
  deriving DecidableEq, Repr

/-- The Marten engines. -/
structure Cpy where
  /-- core×16 + queue -/
  queues : Sparse CQueue := []
  /-- free slots FS[k] of a core's engine: core×8 + k (R310) -/
  slots : Sparse Nat := []
  /-- pack×256 + entry -/
  covers : Sparse Cover := []
  /-- queue after the last chosen one of a core (R294) -/
  turn : Sparse Nat := []
  uid : Nat := 0
  deriving DecidableEq, Repr

/-! ### Remote operations (13_remote) -/

/-- A capability entry (R322). -/
structure CapEntry where
  ctl : Nat := 0
  base : Nat := 0
  len : Nat := 0
  allow : Nat := 0
  deriving DecidableEq, Repr

/-- Where a packet of a bulk operation stands (R330, R331). -/
inductive PktStage where
  /-- its local bytes are being read -/
  | reading
  /-- sent, not acknowledged -/
  | sent
  /-- RGET: the remote bytes are here, not yet translated for the local write -/
  | arrived (data : List Byte) (psn : Bool)
  /-- RGET: the local bytes are being written -/
  | writing
  deriving DecidableEq, Repr

/-- A packet of a bulk operation: its number, remote VA, local VA and length, its parts, and the largest ws of its local writes. -/
structure BulkPkt where
  no : Nat
  va : Nat
  loc : Nat
  len : Nat
  stage : PktStage
  parts : List Part := []
  tc : Nat := 0
  /-- it failed: the bytes it writes hold undefined values (R331) -/
  bad : Bool := false
  deriving DecidableEq, Repr

/-- An unfinished bulk operation (R327 to R331). op: 0 put, 1 get, 2 reduction. -/
structure BulkOp where
  id : Nat := 0
  pack : Nat
  slice : Nat
  chan : Nat
  op : Nat
  red : Nat
  coef : Nat
  remote : Nat
  loc : Nat
  len : Nat
  /-- remote and local arrival words, when raised -/
  rword : Option Nat
  lword : Option Nat
  low : Bool
  /-- target: pod and device, or the multicast group -/
  pod : Nat
  dev : Nat
  group : Option Nat
  ck : Nat
  /-- its instruction, and whether the fabric port has accepted its first packet (R333) -/
  iid : Nat := 0
  sent : Bool := false
  next : Nat := 0
  park : Bool := false
  pkts : List BulkPkt := []
  /-- sent by Sundesh on a firmware channel: the address space, and the snapshot whose delta it is, 0 for none (R396, R398) -/
  fw : Option (Nat × Nat) := none
  deriving DecidableEq, Repr

/-- A bulk packet at its target: its lines still to be performed, the bytes read so far, and the largest ws of its writes. -/
structure Inbound where
  p : BulkPacket
  started : Bool := false
  parts : List Part := []
  ws : Nat := 0
  psn : Bool := false
  /-- persist-writes of its lines, which its acknowledgement waits for (R239) -/
  pend : List Nat := []
  deriving DecidableEq, Repr

/-- A part of a message for one slice (R340). -/
structure PartMsg where
  slice : Nat
  reg : Nat
  mask : BitVec 4
  vals : List Word
  psn : BitVec 4
  tm : Option Nat
  rel : Bool
  deriving DecidableEq, Repr

/-- An answer that leaves the device: to a remote access, bulk packet or message (RCODE of R326), or to a host read. -/
structure Reply where
  pod : Nat
  device : Nat
  tag : Nat
  rcode : Nat
  data : List Byte := []
  psn : Bool := false
  deriving DecidableEq, Repr

/-- The fabric side of the device. -/
structure Fab where
  /-- capability tables: pack×64 + entry -/
  caps : Sparse CapEntry := []
  /-- entries that a CAP under way puts in their place (R365) -/
  fresh : Sparse (Option CapEntry) := []
  bulk : List BulkOp := []
  nextBulk : Nat := 0
  /-- bulk packets and remote accesses of other devices, oldest first; a performed persist-write waits for its acceptance -/
  inbound : List Inbound := []
  access : List (RemoteAccess × Option Nat) := []
  /-- messages to gangs of this device, oldest first -/
  msgs : List Message := []
  /-- remote inbox of a core, save-area inbox of a pack (R340, R342) -/
  inbox : Sparse (List PartMsg) := []
  saved : Sparse (List PartMsg) := []
  /-- generation counter of a pack slot: core×16 + slot (R335) -/
  gens : Sparse Nat := []
  /-- saved packs with a redirect entry (R336) -/
  redirect : List Nat := []
  /-- multicast groups of the pod: number to (tenant, members), and the groups this device defined (R321) -/
  groups : Sparse (Option (Nat × List Nat)) := []
  mine : List Nat := []
  /-- what has left the device, newest first -/
  out : List Reply := []
  /-- T_F in µs (R318) -/
  tf : Nat := 20
  deriving DecidableEq, Repr

/-- The ordered persist queues (R237 to R241). -/
structure Opq where
  /-- persist-writes performed and not yet accepted, by order number -/
  transit : Sparse (Option PWrite) := []
  /-- accepted entries of each die, oldest first -/
  entries : Sparse (List PWrite) := []
  /-- notices "epoch e closed" received: (slice, epoch, OPQ) -/
  notices : List (Nat × Nat × Nat) := []
  next : Nat := 0
  deriving DecidableEq, Repr

/-! ### Sundesh (14_queues) -/

/-- A registered queue (R350 to R355). -/
structure Queue where
  here : Bool := false
  /-- descriptor VA and its address space; none: a host physical address -/
  desc : Nat := 0
  space : Option Nat := none
  ring : Nat := 0
  prio : Nat := 0
  maint : Bool := false
  /-- packets of the ring -/
  size : Nat := 16
  asid : Nat := 0
  /-- doorbell, RDIDX, DONEIDX, and completed packets above DONEIDX -/
  door : Nat := 0
  rd : Nat := 0
  done : Nat := 0
  fin : List Nat := []
  /-- CODE of the error that halted it -/
  halted : Option Nat := none
  /-- first error completion since registration or QRESUME (R355) -/
  err : Option Nat := none
  /-- owns a thread (R349); ac since which its oldest pending packet waits, and the wall-clock time since which it waits for a thread (R353) -/
  mapped : Bool := false
  since : Nat := 0
  idle : Nat := 0
  /-- registrations of this number before it -/
  gen : Nat := 0
  deriving DecidableEq, Repr

/-- What a packet that has started still waits for. -/
inductive Work where
  /-- WAIT (R357): address, comparand, mask, condition, wall-clock time of the timeout -/
  | wait (addr value mask cond : Nat) (until_ : Option Nat)
  /-- BARRIER (R358): queue and index -/
  | barrier (deps : List (Nat × Nat))
  /-- a translation change (R236): the range whose accesses are still to be performed -/
  | drain (va len : Nat)
  /-- BIAS (R203): the regions still to flip, from a VA to an end, and HB -/
  | bias (va stop : Nat) (hb : Bool)
  /-- CAP (R365): a launch, the first entry and the new ones -/
  | caps (no first : Nat) (es : List CapEntry)
  /-- PERSIST (R366): the order number of persist-writes at its start -/
  | persist (upto : Nat)
  /-- STEP (R388): step number, job, dies frozen so far; none while step 3 waits -/
  | step (n job : Nat) (dies : Option Nat)
  /-- SNAPREGION remove (R390) -/
  | unsnap (va len : Nat)
  /-- LAUNCH and GRAPH LAUNCH (R373): the launch -/
  | launch (no : Nat)
  /-- REBUILD (R400), and a packet with nothing left to wait for -/
  | rebuild
  deriving DecidableEq, Repr

/-- A packet that has started and not completed: its queue, index, TAG, CST and address space. -/
structure Active where
  queue : Nat
  index : Nat
  tag : Nat
  cst : Nat
  asid : Nat
  gen : Nat
  work : Work
  deriving DecidableEq, Repr

/-- A work-graph node (R368, R374): entry VA, record words, timer in ac, successor mask and depth. -/
structure Node where
  entry : Nat
  words : Nat
  timer : Nat
  succ : Nat
  depth : Nat := 0
  deriving DecidableEq, Repr

/-- What a spawned gang takes from the graph's kernel object (R78). -/
structure Kernel where
  regs : Nat := 64
  scratch : Nat := 0
  lanepriv : Nat := 4096
  bars : Nat := 16
  text : Nat := 0
  deriving DecidableEq, Repr

/-- A sealed version of a graph object (R375). -/
structure Graph where
  asid : Nat
  va : Nat
  version : Nat
  nodes : List Node
  kernel : Kernel
  deriving DecidableEq, Repr

/-- A bin (R76): its records with their arrival ac, oldest first, and the gangs it has launched. -/
structure Bin where
  recs : List (Nat × List Word) := []
  count : Nat := 0
  /-- largest clock of a SPAWN with REL that sent to it (R79) -/
  tc : Nat := 0
  deriving DecidableEq, Repr

/-- A pre-emption of a launch (R377): hard or drain, and whether a command asked for it. -/
structure Stop where
  hard : Bool
  cmd : Bool
  deriving DecidableEq, Repr

/-- A launch that has started and not completed (R367 to R376). -/
structure Launch where
  here : Bool := false
  queue : Nat := 0
  index : Nat := 0
  gen : Nat := 0
  tag : Nat := 0
  asid : Nat := 0
  /-- its record, and the kernel object's text base and entry VA -/
  record : Nat := 0
  text : Nat := 0
  entry : Nat := 0
  regs : Nat := 64
  gangs : Nat := 1
  slices : Nat := 8
  acc : Nat := 0
  /-- effective priority (R371) -/
  prio : Nat := 0
  bars : Nat := 16
  cset : Bool := false
  maint : Bool := false
  scratch : Nat := 0
  lanepriv : Nat := 4096
  /-- argument block: VA and length -/
  argsAt : Nat := 0
  arglen : Nat := 0
  lparea : Nat := 0
  gx : Nat := 1
  gy : Nat := 1
  gz : Nat := 1
  arrvBase : Nat := 0
  handler : Nat := 0
  /-- members of each group, by linear index -/
  groups : List (List Nat) := []
  mcslots : Nat := 0
  caps : List CapEntry := []
  sched : List SchedEntry := []
  debugAt : Nat := 0
  debug : Option Debug := none
  csa : Nat := 0
  csalen : Nat := 0
  errrec : Nat := 0
  /-- linear index of the next undispatched pack, and higher ones dispatched with their partners (R372) -/
  next : Nat := 0
  early : List Nat := []
  /-- a pre-emption asked for by PREEMPT, and the one in force (R377) -/
  want : Option Bool := none
  stop : Option Stop := none
  /-- a graph instance: its version (R376) and the die scratchpad blocks its bins hold -/
  graph : Option Graph := none
  blocks : List Nat := []
  /-- a saved pack failed its digest (R381) -/
  broken : Option Nat := none
  deriving DecidableEq, Repr

/-- What a save area holds of a pack beside its slices (R381): its split-table entries and uncompleted copies with their queues, and where in memory its section lies: VA and length. -/
structure Save where
  /-- LAYOUT of the save area (R380) -/
  layout : Nat := 7
  splits : List Split := []
  jobs : List (Nat × CopyJob) := []
  /-- FS of its core's engine, in a cluster set (R310) -/
  fs : List Nat := []
  va : Nat := 0
  len : Nat := 0
  deriving DecidableEq, Repr

/-- A job's history for attestation (R387): first and last step, ac of the first STEP, its address space, queues that have named it, KEYIDs its address space has carried, and the images in charge. -/
structure Job where
  first : Nat := 0
  last : Nat := 0
  at_ : Nat := 0
  asid : Nat := 0
  queues : List Nat := []
  keyids : List Nat := []
  images : List (BitVec 384) := []
  /-- a ninth image has run its packets -/
  full : Bool := false
  deriving DecidableEq, Repr

/-- The command processor. -/
structure Sun where
  queues : Sparse Queue := []
  active : List Active := []
  launches : Sparse Launch := []
  /-- launch numbers given to records by DSPALLOC (R361): number, ASID, record, and whether the launch has started -/
  names : List (Nat × Nat × Nat × Bool) := []
  nextLaunch : Nat := 1
  graphs : List Graph := []
  /-- last version sealed: ASID×2^57 + VA -/
  seals : Sparse Nat := []
  /-- bins: (launch×4 + die)×64 + node -/
  bins : Sparse Bin := []
  saves : Sparse Save := []
  /-- slices whose stop has been notified (R108) -/
  told : List Nat := []
  jobs : Sparse Job := []
  /-- host physical address of the notification table (R360), and the regions Sundesh may write (R386) -/
  table : Nat := 0
  regions : List (Nat × Nat) := [(0, 2 ^ 48)]
  deriving DecidableEq, Repr

/-! ### Sett (15_recovery) -/

/-- A snapshot region with its ring (R390, R391). -/
structure Region where
  asid : Nat
  va : Nat
  len : Nat
  ring : Nat
  ndev : Nat
  pos : Nat
  mcg : Nat
  repva : Nat
  stripe : Nat
  deriving DecidableEq, Repr

/-- Snapshot state of an address space: last STEPNO, the first one, the last step that every die has frozen, LOCAL, and G (R388, R395, R396). -/
structure Steps where
  step : Nat := 0
  first : Nat := 0
  frozen : Nat := 0
  local_ : Nat := 0
  g : Nat := 0
  deriving DecidableEq, Repr

/-- A stripe-group descriptor the device knows, and FOLD of its parity ring when the device holds parity of it (R397, R399). -/
structure Stripe where
  asid : Nat
  desc : Nat
  fold : Nat := 0
  deriving DecidableEq, Repr

/-- A rebuild on this spare (R400 to R403): its packet, its descriptor, the lost member and its job position, RLAST, r, and the contributed bytes that have arrived for each page. -/
structure Rebuild where
  queue : Nat
  index : Nat
  asid : Nat
  desc : Nat
  lost : Nat
  last : Nat
  r : Option Nat := none
  got : Sparse Nat := []
  deriving DecidableEq, Repr

/-- A rebuild that this device helps as a survivor (R401, R402): descriptor, lost member, spare, the lost member's last LOCAL, the pinned snapshot, and the pages still to be sent. -/
structure Help where
  asid : Nat
  desc : Nat
  lost : Nat
  spare : Nat
  last : Nat
  r : Option Nat := none
  pages : List Nat := []
  deriving DecidableEq, Repr

/-- The four Sett engines. Pages are keyed ASID×2^41 + VA/2^16. -/
structure Sett where
  asids : Sparse Steps := []
  regions : List Region := []
  /-- the page that stands in a 64 KiB frame: memory key / 2^16 to page key + 1 -/
  frames : Sparse Nat := []
  /-- dirtied in the current step, and pending: page to snapshot number -/
  dirty : Sparse Bool := []
  pending : Sparse Nat := []
  stripes : List Stripe := []
  rebuilds : List Rebuild := []
  helps : List Help := []
  deriving DecidableEq, Repr

/-! ### The platform (19_platform) -/

/-- What the device sends to the host: a data reply, an interrupt, an SPDM answer. -/
inductive HostMsg where
  /-- a CXL.mem read's data and poison (R202) -/
  | data (pa : Nat) (bs : List Byte) (psn : Bool)
  /-- CXL.cache requests of the device for a host-bias line, and its stores written through to the host (R202) -/
  | cacheRead (pa : Nat)
  | cacheWrite (pa : Nat) (bs : List Byte)
  /-- an MSI-X vector (R360) -/
  | msix (vector : Nat)
  /-- an SPDM answer (R424): request code and contents -/
  | spdm (code : Nat) (contents : List Byte)
  /-- an SPDM error -/
  | spdmError (code : Nat)
  deriving DecidableEq, Repr

/-- An entry of the error log (R429): class (0 corrected, 1 transient, 2 lasting, 3 uncontainable, 4 link, 5 malformed entry), KEYID, tier, die, physical address, time in µs, COUNT. -/
structure ErrEntry where
  cls : Nat
  keyid : Nat
  tier : Nat
  die : Nat
  pa : Nat
  time : Nat
  count : Nat
  deriving DecidableEq, Repr

/-- The device around the cores. (DESIGN CHOICE, assumption log 8) -/
structure Dev where
  /-- power is on, and a bring-up is under way or over (R431) -/
  on : Bool := true
  ready : Bool := false
  fail : Bool := false
  loss : Bool := false
  stage : Nat := 0
  fcode : Nat := 0
  /-- active firmware slot, images of the slots, whether the other slot's image is staged (R383) -/
  fw : Nat := 0
  images : Sparse (List Byte) := []
  staged : Bool := false
  /-- FWACT: a command that waits for saves to end (R384 step 2), and, while the first heartbeat is due, the slot to fall back to and the ac of the timeout (R385) -/
  act : Option Nat := none
  heart : Option (Nat × Nat) := none
  /-- W (R433) -/
  plim : Nat := 3600
  pclamp : Nat := 3600
  /-- hold-up energy is fitted (R2); the last drain was cut short (R431) -/
  holdup : Bool := true
  cut : Bool := false
  /-- mailbox (R429): command, status, operands -/
  mbcmd : Nat := 0
  mbstat : Nat := 0
  mbarg : Sparse Nat := []
  /-- error log, newest first, and LOGHEAD -/
  log : List ErrEntry := []
  loghead : Nat := 0
  /-- lines whose mark a consumer has met: (line, KEYID, wall-clock time) (R426); counts of corrected, transient and lasting errors by die -/
  suspects : List (Nat × Nat × Nat) := []
  /-- lasting errors whose translation change is not complete: (line, KEYID, events) (R427, R428) -/
  lasting : List (Nat × Nat × Nat) := []
  counts : Sparse Nat := []
  /-- telemetry block: offset from 0x4000, 64 or 32 bits (R435) -/
  tele : Sparse Nat := []
  /-- occupied key slots 1 to 255, the number of the key each slot last held, and the keys by number (R421) -/
  keys : Sparse Bool := []
  keyver : Sparse Nat := []
  seen : List (BitVec 256) := []
  /-- SPDM (R424): key exchange in progress, secure session open, key exchanges so far -/
  exchange : Bool := false
  session : Bool := false
  sessions : Nat := 0
  /-- CXL IDE (R423): the stream has ended; key programmings so far -/
  ide : Bool := false
  ideKeys : Nat := 0
  /-- fabric links that are trained, and how many times each has changed keys (R423) -/
  links : Sparse Bool := []
  linkKeys : Sparse Nat := []
  /-- arithmetic clock in MHz (R434); a die's pool limit while its junction is hot: limit + 1 -/
  mhz : Nat := 1500
  hot : Sparse Nat := []
  /-- KEYREVOKEs that wait (R421) -/
  revokes : List Nat := []
  /-- host writes that wait for a page (R394) -/
  writes : List (Nat × List Byte) := []
  /-- what has left for the host, newest first -/
  out : List HostMsg := []
  deriving DecidableEq, Repr

/-! ### The state by parts -/

/-- What is issuing: the split's entry, the slices that act, the word and its successor, the EXT payload read before it (R21, R31), and the group's first word (R97). -/
structure Cur where
  entry : Nat
  slices : List Nat
  pkt : Nat
  word : Nat
  nextPkt : Nat
  nextWord : Nat
  firstPkt : Nat
  firstWord : Nat
  ext : Option (BitVec 25) := none
  /-- instruction number -/
  iid : Nat := 0
  /-- instructions of its group before it -/
  index : Nat := 0
  /-- slices of the split, when only some of them still act in this word (R27, R299) -/
  all : List Nat := []
  /-- the group's first instruction leaves open transient windows open: an ALU-pipe instruction, LD, LD.nt or PF (R38, R39) -/
  opens : Bool := false
  deriving DecidableEq, Repr

/-- The slices of the split at issue (R299). -/
def Cur.split (c : Cur) : List Nat := if c.all = [] then c.slices else c.all

/-- The changes a slice's own fields go through. -/
inductive SliceUpd where
  /-- continue at (packet, word) -/
  | goto (pkt word : Nat)
  /-- a control transfer is taken to a packet (R51) -/
  | jump (pkt : Nat)
  | status (st : Status)
  /-- flags are ORed into FPCTL (R144) -/
  | flags (f : BitVec 8)
  /-- those flags are raised when the instruction completes, at an ac (R164) -/
  | flight (due now : Nat) (f : BitVec 8)
  /-- SWR FPCTL, which completes at an ac (R114); flags of instructions that complete later stay (R164) -/
  | fpctl (v : Word) (done : Nat)
  | trapcause (v : Word)
  | trappc (v : Word)
  | trapregs (addr : Dword) (lanes : Word)
  | sptop (n : Nat)
  | splim (n : Nat)
  | sel (n : Nat)
  | clkLatch (v : Option Word)
  | cycLatch (v : Option Word)
  | origin (v : Option Dword)
  | maxws (t : Nat)
  | clearMaxws
  | pbar (scope : Nat)
  | holds (h : List Hold)
  /-- one instruction enters the transient windows (R38): `alu` keeps them open -/
  | tick (alu : Bool)
  | trans (ts : List Trans)
  | look (iid n : Nat)
  | only (m : Option (BitVec 4))
  | suppress (m : Option (Nat × Nat))
  | stepping (b : Bool)
  | stepped (b : Bool)
  | owed (t : Option Trap)
  /-- the span once the issuing group is part of it (R40) -/
  | spanNext (x : Span)
  | redo (r : Option Redo)
  | drain (b : Bool)
  | podRel (b : Bool)
  | window (k : Nat) (w : Window)
  | place (gslot gang : Nat)
  | live (m : BitVec 4)
  | stop (b : Bool)
  | replace (s : Slice)
  deriving DecidableEq, Repr

/-- The model's own fields (assumption logs 1 and 2). -/
structure Run where
  /-- ac elapsed -/
  ac : Nat := 0
  /-- wall-clock time elapsed, in units of 1/122,094,000 µs, of which an ac takes a whole number at every clock frequency (R3, R434) -/
  time : Nat := 0
  /-- free values drawn so far -/
  draws : Nat := 0
  /-- choices of the hardware to be taken first (R5) -/
  choices : List Nat := []
  /-- inputs of the outside world still to come -/
  env : List Instr := []
  cur : Option Cur := none
  /-- instructions issued so far -/
  count : Nat := 0
  deriving DecidableEq, Repr

/-- The lane files (R115). -/
structure Lanes where
  regs : Sparse Word := []
  psn : Sparse Bool := []
  /-- p7 to p0 of a lane; p0 is not stored -/
  pred : Sparse (BitVec 8) := []
  idx : Sparse (BitVec 16) := []
  /-- slice×256 + register: the uniform tag is clear (R125) -/
  untag : Sparse Bool := []
  /-- registers (as regs), predicates (2^40 + lane×8 + k) and index registers (2^41 + lane×8 + k) that hold an undefined value (R6) -/
  undef : Sparse Bool := []
  deriving DecidableEq, Repr

/-- Slices, splits, gangs, packs and their synchronisation. -/
structure Ctl where
  slices : Sparse Slice := []
  splits : Sparse Split := []
  gangs : Sparse Gang := []
  packs : Sparse Pack := []
  bars : Sparse Bar := []
  /-- phase of a launch's group: launch×256 + group (R255) -/
  groupPh : Sparse Nat := []
  /-- largest ws behind the copies that arrived at a barrier register, or raised an arrival word (2^60 + key) (R233) -/
  tcs : Sparse Nat := []
  /-- quadrant: uniform-write counter (R125) -/
  uniform : Sparse Nat := []
  /-- FENCE.SP windows by first slice (R229) -/
  windows : Sparse (Option SpWin) := []
  /-- launches with a fatal trap, and the first slice that trapped (R98) -/
  fatal : List (Nat × Nat) := []
  /-- step number last declared by a STEP packet of a queue (R91, R388) -/
  steps : Sparse Nat := []
  nextPack : Nat := 1
  nextAge : Nat := 0
  deriving DecidableEq, Repr

/-- Memory: bytes by key, and what each line carries beside its bytes. (DESIGN CHOICE, assumption log 4) (DESIGN CHOICE, assumption log 6) -/
structure Mem where
  bytes : List Host.Cell := []
  /-- SCM array: bytes by key, what survives a loss of power (R241) -/
  nv : List Host.Cell := []
  /-- poison marks of lines, and of lines of the SCM array -/
  marks : Sparse Bool := []
  nvMarks : Sparse Bool := []
  /-- lines dirty at their home (R197) -/
  dirty : Sparse Bool := []
  /-- poison bits SPILL carries into lane-private words (R101), by word key -/
  wmarks : Sparse Bool := []
  /-- KEYID under which a byte was written (R205) -/
  keys : Sparse Nat := []
  /-- full/empty bit of a scratchpad word (R260) -/
  full : Sparse Bool := []
  /-- bytes that hold an undefined value (R6) -/
  undef : Sparse Bool := []
  /-- wts and rts of a home line (R219) -/
  wts : Sparse Nat := []
  rts : Sparse Nat := []
  deriving DecidableEq, Repr

/-- Clocks, copies of lines, instruction caches and outstanding requests. -/
structure Coh where
  cores : Sparse Core := []
  dies : Sparse Die := []
  copies : Sparse (Option Copy) := []
  reqs : Sparse (Option Req) := []
  /-- packets in the instruction cache of a core: key (core×2^16 + ASID)×2^57 + packet address (R235) -/
  icache : Sparse (List Byte) := []
  /-- agent clocks of Sundesh, the host and the fabric -/
  sck : Nat := 0
  hck : Nat := 0
  fck : Nat := 0
  nextReq : Nat := 0
  deriving DecidableEq, Repr

/-- Translations, frames and windows. -/
structure Maps where
  /-- translations cached, newest first: by quadrant (0 to 639), core (1000 and up), die (2000 and up) (R200) -/
  tlb : Sparse (List Tlb) := []
  /-- page-table root of an ASID (R191, R361) -/
  roots : Sparse (Option Nat) := []
  /-- migration table: handle to (tier, first frame) (R198) -/
  handles : Sparse (Option (Nat × Nat)) := []
  /-- free 64 KiB frames of a stack: key tier×16 + stack (R198) -/
  frames : Sparse (List Nat) := []
  /-- owner of a die scratchpad block (die×512 + block): 0 free, 1 bins, launch + 2 (R187) -/
  blocks : Sparse Nat := []
  /-- 2 MiB regions of HBM in host bias (R202), and regions that a BIAS packet is flipping (R203) -/
  hostBias : Sparse Bool := []
  flips : List Nat := []
  /-- fabric identity: pod×4096 + device (R17) -/
  devid : Nat := 0
  /-- pages on their way to another frame (R199): (ASID, VA, tier, stack) -/
  moves : List (Nat × Nat × Nat × Nat) := []
  deriving DecidableEq, Repr

/-- One change of the state. Every instruction and every step of another agent acts by a list of these, computed from the state before it (R25). -/
inductive Act where
  | reg (lane r : Nat) (v : Word) (psn : Bool)
  | pred (lane k : Nat) (b : Bool)
  | idx (lane k : Nat) (v : BitVec 16)
  | untag (slice r : Nat) (b : Bool)
  /-- a register, predicate or index register of a slice holds an undefined value (R6, R40) -/
  | undef (sl : Nat) (d : Dst)
  /-- n bytes of memory hold undefined values (R6) -/
  | undefMem (key n : Nat)
  /-- a tile element holds an undefined value (R6) -/
  | undefEl (k : Nat)
  | slice (sl : Nat) (u : SliceUpd)
  /-- take a trap (R97) -/
  | trap (sl : Nat) (t : Trap)
  | gang (g : Nat) (v : Gang)
  /-- bits outside `keep` leave a gang's RSTATUS, and those of v join it (R114, R326, R346) -/
  | rstatus (g : Nat) (keep v : Word)
  | pack (p : Nat) (v : Pack)
  | bar (k : Nat) (v : Bar)
  /-- an arrival word is raised (R258) -/
  | raise (key n : Nat)
  | groupPhase (launch g n : Nat)
  /-- Tc behind a barrier register or arrival word (R233) -/
  | tc (k t : Nat)
  | split (e : Nat) (v : Split)
  | uniform (q n : Nat)
  /-- the issuing split divides, waits or ends (R53, R54) -/
  | settle
  /-- slices without an entry take one (R57, R97) -/
  | enter (slices : List Nat)
  /-- the entry that holds a slice divides after the slice was sent elsewhere (R97) -/
  | resplit (sl : Nat)
  /-- the meets of a pack are tested again (R57 to R63); the flag lets a partial gang form -/
  | meets (p : Nat) (partialGang : Bool)
  /-- a pack whose last slice has exited leaves its core (R112) -/
  | packEnd (p : Nat)
  | window (k : Nat) (w : Option SpWin)
  /-- a FENCE.SP window rolls back to its checkpoint; the flag goes to the fence itself, not after it (R229, R230) -/
  | rollback (w : SpWin) (again : Bool)
  /-- a persist-write leaves its home for its OPQ (R237) -/
  | addPersist (w : PWrite)
  | el (k : Nat) (v : Word × Word) (mark : Bool)
  | tile (k : Nat) (v : TileSt)
  | addMma (v : Mma)
  | setMma (id : Nat) (v : Option Mma)
  | engine (q : Nat) (v : Engine)
  | stale (v : Stale)
  | freshSlice (sl : Nat)
  | freshPack (p : Nat)
  /-- a slice has observed the releases completed on its core so far (R272) -/
  | observe (sl : Nat)
  /-- a malformed entry met by a walk for no slice leaves its error record (R192) -/
  | badEntry (asid va : Nat)
  | drains (v : List Drain) (next : Nat)
  /-- slices leave their entries and take new ones together (R276) -/
  | regroup (slices : List Nat)
  | opq (v : Opq)
  /-- a copy is accepted into a queue (R292, R301) -/
  | accept (queue : Nat) (j : CopyJob)
  | cqueue (k : Nat) (v : CQueue)
  /-- free slots are added and taken (R310) -/
  | slots (k add sub : Nat)
  | cover (k : Nat) (v : Cover)
  | turn (core q : Nat)
  /-- the stage counter of a pack rises and its schedule entries fire (R307) -/
  | stage (p n : Nat)
  /-- a schedule entry is accepted (R307, R308) -/
  | take (p entry : Nat)
  | fab (v : Fab)
  | cap (k : Nat) (v : CapEntry)
  | fresh (k : Nat) (v : Option CapEntry)
  | bulkOp (b : BulkOp)
  | message (m : Message)
  /-- the oldest parked part for a register of a slice leaves its core's inbox (R340) -/
  | unpark (core slice reg : Nat)
  /-- a refill's write (R308) -/
  | refill (key : Nat) (bs : List Byte) (keyid : Nat)
  /-- write bytes at a memory key under a KEYID -/
  | store (key : Nat) (bs : List Byte) (keyid : Nat)
  | mark (line : Nat) (b : Bool)
  | wmark (w : Nat) (b : Bool)
  | full (w : Nat) (b : Bool)
  | times (line wts rts : Nat)
  | dirty (line : Nat) (b : Bool)
  /-- a line reaches the SCM array with its mark (R197, R241) -/
  | persistLine (line : Nat)
  /-- bytes, and the mark of a line, reach the SCM array (R241) -/
  | array (key : Nat) (bs : List Byte)
  | arrayMark (line : Nat) (b : Bool)
  | addReq (r : Req)
  | setReq (id : Nat) (r : Option Req)
  | raiseCk (core t : Nat)
  | raiseObsv (core t : Nat)
  | core (c : Nat) (v : Core)
  | die (d : Nat) (v : Die)
  | copy (k : Nat) (v : Option Copy)
  /-- a translation enters the TLBs of some agents (R200) -/
  | tlb (agents : List Nat) (v : Tlb)
  | icache (k : Nat) (v : List Byte)
  | icacheDrop (core : Nat)
  | agentClock (k t : Nat)
  /-- copy n bytes from one key to another with their marks and keys; a copy into SCM reaches the array (R198, R199, R428) -/
  | copyRange (src dst n : Nat)
  | maps (v : Maps)
  | sun (v : Sun)
  | queue (k : Nat) (v : Queue)
  | active (v : Active)
  | dropActive (queue index : Nat)
  | launch (no : Nat) (v : Launch)
  | bin (k : Nat) (v : Bin)
  | sett (v : Sett)
  /-- KEYIDs that leaf entries of an address space carry enter its jobs' histories (R387) -/
  | carry (asid : Nat) (ids : List Nat)
  /-- a packet of a queue runs under an image (R387) -/
  | ran (queue : Nat) (image : BitVec 384)
  /-- an entry of the error log (R429) -/
  | record (e : ErrEntry)
  /-- a consumer has met marked data of a line (R426) -/
  | suspect (line keyid : Nat)
  /-- the STEP register of a queue's launches (R91, R382) -/
  | steps (queue n : Nat)
  | dev (v : Dev)
  /-- something leaves for the host -/
  | send (m : HostMsg)
  /-- a pack number and a dispatch age are used up -/
  | newPack
  /-- the slices of a pack leave their split-table entries -/
  | vacate (p : Nat)
  /-- a pack ends wherever its slices stand (R373, R381) -/
  | endPack (p : Nat)
  /-- a power-on or warm reset: everything but SCM, fused configuration and firmware slots goes (R432) -/
  | coldStart
  | draw (n : Nat)
  | cur (c : Option Cur)
  | countIssue
  deriving DecidableEq, Repr

/-- An effect: the slice whose trap would suppress it (R27), and the change. -/
abbrev Eff := Option Nat × Act

/-- The machine. -/
structure State where
  run : Run := {}
  /-- effects of the last instruction, by which the words of a chained group write together (R25; assumption log 2) -/
  log : List Eff := []
  lanes : Lanes := {}
  ctl : Ctl := {}
  mem : Mem := {}
  coh : Coh := {}
  maps : Maps := {}
  opq : Opq := {}
  mat : Mat := {}
  cpy : Cpy := {}
  fab : Fab := {}
  sun : Sun := {}
  sett : Sett := {}
  dev : Dev := {}
  deriving DecidableEq, Repr

/-- Why the machine stops with a fault. -/
inductive Fault where
  /-- raised by an access of the memory operations to a physical frame that the spec says does not exist (R438); safe: the machine stops -/
  | noSuchFrame (key : Nat)
  deriving DecidableEq, Repr

/-- Why an instruction is refused. -/
inductive Refusal where
  /-- raised by Dispatch.lean alone, for an instruction without a meaning; safe: the machine stops -/
  | notModelled (mnemonic : String)
  deriving DecidableEq, Repr

/-- The machine right after reset (R431 before bring-up): no pack resident, every store empty. (DESIGN CHOICE, assumption log 4) (DESIGN CHOICE, assumption log 8) -/
def State.reset : State := {}

end Sys2Proof.Machine
end

