-- ==== Sys2Proof/Machine/Ops.lean ====
section
/-! DEFINITION. The named operations over the state: reading registers, predicates and memory, applying one change (Act), dividing a split (R53, R54), forming gangs at a meet (R56 to R63), and taking a trap (R97) as ONE operation with the return from it beside it (R113). -/
namespace Sys2Proof.Machine

/-! ### Keys (assumption log 3) -/

/-- Key of lane ln of a slice. -/
def laneKey (sl ln : Nat) : Nat := sl * 4 + ln
/-- Key of register r of a lane. -/
def regKey (lane r : Nat) : Nat := lane * 256 + r
/-- The pack of a slice. -/
def packKey (sl : Nat) : Nat := sl / 128
/-- The line of a memory key. -/
def lineOf (key : Nat) : Nat := key / 64

/-- Memory keys: HBM physical addresses stand as they are, SCM above 2^44. -/
def scmBase : Nat := 2 ^ 44
/-- Host memory. -/
def hostBase : Nat := 2 ^ 48
/-- Die scratchpads, 32 MiB each. -/
def dspKey : Nat := 2 ^ 54
/-- Core scratchpad allocations, 1 MiB for each pack. -/
def scratchBase : Nat := 2 ^ 55
/-- Memory of other devices, reached over the fabric: no byte of it is held here. -/
def farBase : Nat := 2 ^ 60

/-- Key of offset o of a pack's scratchpad allocation. -/
def scratchKey (p o : Nat) : Nat := scratchBase + p * 2 ^ 20 + o

/-! ### Reading -/

/-- A slice. -/
def State.slice (s : State) (sl : Nat) : Slice := Sparse.get {} s.ctl.slices sl
/-- A pack. -/
def State.pack (s : State) (p : Nat) : Pack := Sparse.get {} s.ctl.packs p
/-- The pack of a slice. -/
def State.packOf (s : State) (sl : Nat) : Pack := s.pack (packKey sl)
/-- Key of a slice's gang. -/
def State.gangKey (s : State) (sl : Nat) : Nat := packKey sl * 128 + (s.slice sl).gang
/-- A gang. -/
def State.gang (s : State) (g : Nat) : Gang := Sparse.get {} s.ctl.gangs g
/-- A split-table entry. -/
def State.split (s : State) (e : Nat) : Split := Sparse.get {} s.ctl.splits e
/-- A barrier register. -/
def State.bar (s : State) (k : Nat) : Bar := Sparse.get {} s.ctl.bars k
/-- A core. -/
def State.core (s : State) (c : Nat) : Core := Sparse.get {} s.coh.cores c
/-- A die. -/
def State.die (s : State) (d : Nat) : Die := Sparse.get {} s.coh.dies d
/-- The core of a slice. -/
def State.coreOf (s : State) (sl : Nat) : Nat := (s.packOf sl).core
/-- The die of a core (R10). -/
def dieOfCore (c : Nat) : Nat := c / 40
/-- The register file's value of one register of a lane (R115). -/
def State.file (s : State) (lane r : Nat) : Word := Sparse.get 0 s.lanes.regs (regKey lane r)
/-- The poison bit of one register of a lane. -/
def State.poisoned (s : State) (lane r : Nat) : Bool := Sparse.get false s.lanes.psn (regKey lane r)
/-- Predicate k of a lane; p0 reads true (R120). -/
def State.predOf (s : State) (lane k : Nat) : Bool := decide (k = 0) || (Sparse.get 0 s.lanes.pred lane).getLsbD k
/-- Index register k of a lane. -/
def State.idxOf (s : State) (lane k : Nat) : BitVec 16 := Sparse.get 0 s.lanes.idx (lane * 8 + k)
/-- A window descriptor of a slice. -/
def Slice.window (sl : Slice) (k : Nat) : Window :=
  match k with
  | 0 => sl.w0
  | 1 => sl.w1
  | 2 => sl.w2
  | _ => sl.w3
/-- One byte of memory; a byte that nothing has written reads as zero (DESIGN CHOICE, assumption log 4). -/
def State.byte (s : State) (key : Nat) : Byte := Sparse.get 0 s.mem.bytes key
/-- n bytes of memory from a key. -/
def State.bytes (s : State) (key n : Nat) : List Byte := (List.range n).map (fun i => s.byte (key + i))
/-- The number n bytes hold, little-endian (R20, R207). -/
def leNat : List Byte → Nat
  | [] => 0
  | b :: bs => b.toNat + 256 * leNat bs
/-- n bytes of a number, little-endian. -/
def leBytes : Nat → Nat → List Byte
  | 0, _ => []
  | n + 1, v => BitVec.ofNat 8 v :: leBytes n (v / 256)
/-- A doubleword of memory. -/
def State.dword (s : State) (key : Nat) : Nat := leNat (s.bytes key 8)
/-- A line is marked poisoned. -/
def State.marked (s : State) (line : Nat) : Bool := Sparse.get false s.mem.marks line
/-- The poison mark of the lines of n bytes from a key. (DEDUCED, assumption log 28) -/
def State.markedAt (s : State) (key n : Nat) : Bool := s.marked (lineOf key) || s.marked (lineOf (key + n - 1))

/-- The value register r of a lane is read as: the youngest open transient result for it, else the file (R38). (DEDUCED, assumption log 16) -/
def State.readReg (s : State) (bypass : Bool) (sl ln r : Nat) : Word :=
  let file := s.file (laneKey sl ln) r
  if bypass then
    match (s.slice sl).trans.find? (fun t => decide (t.lane = ln) && decide (t.reg = r)) with
    | some t => t.val
    | none => file
  else file

/-- An open transient result hides the poison bit of its register. -/
def State.readPsn (s : State) (bypass : Bool) (sl ln r : Nat) : Bool :=
  !(bypass && (s.slice sl).trans.any (fun t => decide (t.lane = ln) && decide (t.reg = r))) && s.poisoned (laneKey sl ln) r

/-- The four lanes. -/
def lanes4 : List Nat := [0, 1, 2, 3]
/-- The lanes of a mask, ascending. -/
def maskLanes (m : BitVec 4) : List Nat := lanes4.filter (fun l => m.getLsbD l)
/-- A mask from a list of lanes. -/
def laneMask (ls : List Nat) : BitVec 4 := ls.foldl (fun m l => m ||| BitVec.ofNat 4 (2 ^ l)) 0
/-- The lanes of a slice that take part in its next instruction: live, and in the lanes RTT named (R50, R113). -/
def State.liveLanes (s : State) (sl : Nat) : List Nat :=
  let x := s.slice sl
  maskLanes (x.live &&& x.only.getD 15)
/-- The active lanes of a slice (R122): live lanes whose guard is true. -/
def State.activeLanes (s : State) (sl pg : Nat) : List Nat := (s.liveLanes sl).filter (fun l => s.predOf (laneKey sl l) pg)

/-- The slices of a split that are in a GSLOT order. -/
def State.byGslot (s : State) (ls : List Nat) : List Nat :=
  (List.range 8).flatMap (fun g => ls.filter (fun x => decide ((s.slice x).gslot = g)))
/-- All slices of a pack, in ascending SID. -/
def State.slicesOf (s : State) (p : Nat) : List Nat :=
  (s.ctl.slices.filter (fun e => decide (e.1 / 128 = p) && e.2.here)).map (fun e => e.1)
/-- The slice has left the machine or stopped for good. -/
def Slice.gone (x : Slice) : Bool := !x.here || decide (x.status = .exited)
/-- The quadrant of a slice's gang. -/
def State.quadOf (s : State) (sl : Nat) : Nat := (s.gang (s.gangKey sl)).quad

/-! ### Requests -/

/-- The outstanding requests, oldest first. -/
def State.reqs (s : State) : List (Nat × Req) :=
  s.coh.reqs.filterMap (fun e => e.2.map (fun r => (e.1, r)))
/-- One request. -/
def State.req (s : State) (id : Nat) : Option Req := Sparse.get none s.coh.reqs id
/-- A request that has not delivered what its slice waits for: a load or atomic until its registers are written (R36). -/
def Req.pending (r : Req) : Bool :=
  match r.kind with
  | .load _ _ => true
  | .atom _ _ dst => !dst.isEmpty
  | .ldfe _ => true
  | _ => decide (r.state = .parked) || decide (r.state = .forming)
/-- The request belongs to a slice: its own, or one of the split whose MDRAIN made it (R285). -/
def Req.of (r : Req) (sl : Nat) : Bool := decide (r.slice = sl) || r.also.any (fun o => decide (o.1 = sl))
/-- The request's persist epoch for a slice. -/
def Req.epochOf (r : Req) (sl : Nat) : Nat := if r.slice = sl then r.epoch else ((r.also.find? (fun o => decide (o.1 = sl))).map (fun o => o.2)).getD 0
/-- Destination registers still to be written. -/
def Req.dsts (r : Req) : List Nat :=
  match r.kind with
  | .load _ d => d
  | .atom _ _ d => d
  | .ldfe d => d
  | _ => []

/-! ### Changing parts -/

/-- Write bytes under a KEYID (R205). -/
def Mem.write (m : Mem) (key keyid : Nat) : List Byte → Mem
  | [] => m
  | b :: bs =>
    Mem.write { m with bytes := Sparse.set 0 m.bytes key b, keys := Sparse.set 0 m.keys key keyid, undef := Sparse.set false m.undef key false } (key + 1) keyid bs

/-- n bytes hold undefined values (R6). -/
def Mem.blur (m : Mem) (key : Nat) : Nat → Mem
  | 0 => m
  | n + 1 => Mem.blur { m with undef := Sparse.set false m.undef key true } (key + 1) n

/-- Bytes reach the SCM array (R241). -/
def nvWrite (m : List Host.Cell) (key : Nat) : List Byte → List Host.Cell
  | [] => m
  | b :: bs => nvWrite (Sparse.set 0 m key b) (key + 1) bs

/-- A line, or a part of it from its first key, reaches the SCM array with its mark. -/
def Mem.toArray (m : Mem) (line : Nat) (bs : List Byte) (mark : Bool) : Mem :=
  { m with nv := nvWrite m.nv (line * 64) bs, nvMarks := Sparse.set false m.nvMarks line mark }

/-- One instruction enters a slice's transient windows: an ALU-pipe instruction, LD, LD.nt or PF counts, any other closes them (R38); lookahead windows count every instruction (R35). (DEDUCED, assumption log 16) -/
def Slice.tick (x : Slice) (alu : Bool) : Slice :=
  { x with
    only := none
    suppress := none
    span := x.spanNext
    issued := x.issued + 1
    looks := x.looks.map (fun l => (l.1, l.2 - 1))
    trans := if alu then
      (x.trans.filter (fun t => decide (1 < t.left))).map (fun t => { t with left := t.left - 1, dist := t.dist + 1 }) else [] }

/-- The change of one slice's fields. -/
def Slice.upd (x : Slice) : SliceUpd → Slice
  | .goto p w => { x with pc := p, word := w, taken := false }
  | .jump p => { x with pc := p, word := 0, taken := true }
  | .status st => { x with status := st }
  | .flags f => { x with fpctl := x.fpctl ||| (f.setWidth 32 &&& 0xF8#32) }
  | .flight due now f => { x with flight := (due, f) :: x.flight.filter (fun e => decide (now < e.1)) }
  | .fpctl v done => { x with fpctl := x.flight.foldl (fun w e => if done < e.1 then w ||| (e.2.setWidth 32 &&& 0xF8#32) else w) (fpctlWrite x.fpctl v) }
  | .trapcause v => { x with trapcause := v }
  | .trappc v => { x with trappc := v }
  | .trapregs a l => { x with trapaddr := a, traplanes := l }
  | .sptop n => { x with sptop := n }
  | .splim n => { x with splim := n }
  | .sel n => { x with sel := n }
  | .clkLatch v => { x with clkLatch := v }
  | .cycLatch v => { x with cycLatch := v }
  | .origin v => if x.originFree then { x with origin := v, originFree := false } else x
  | .maxws t => { x with maxws := max x.maxws t }
  | .clearMaxws => { x with maxws := 0 }
  | .pbar sc => { x with pbars := (x.epoch, sc) :: x.pbars, epoch := x.epoch + 1 }
  | .holds h => { x with holds := h }
  | .tick alu => x.tick alu
  | .trans ts => { x with trans := ts ++ x.trans }
  | .look i n => { x with looks := (i, n) :: x.looks.take 15 }
  | .only m => { x with only := m }
  | .suppress m => { x with suppress := m }
  | .stepping b => { x with stepping := b }
  | .stepped b => { x with stepped := b }
  | .owed t => { x with owed := t }
  | .spanNext y => { x with spanNext := y }
  | .redo r => { x with redo := r }
  | .drain b => { x with drain := b }
  | .podRel b => { x with podRel := b }
  | .window k w =>
    match k with
    | 0 => { x with w0 := w }
    | 1 => { x with w1 := w }
    | 2 => { x with w2 := w }
    | _ => { x with w3 := w }
  | .place g n => { x with gslot := g, gang := n }
  | .live m => { x with live := m }
  | .stop b => { x with stop := b }
  | .replace y => y

/-- Change one slice. -/
def State.updSlice (s : State) (sl : Nat) (u : SliceUpd) : State :=
  { s with ctl := { s.ctl with slices := Sparse.set {} s.ctl.slices sl ((s.slice sl).upd u) } }
/-- Change one split-table entry. -/
def State.setSplit (s : State) (e : Nat) (v : Split) : State :=
  { s with ctl := { s.ctl with splits := Sparse.set {} s.ctl.splits e v } }
/-- Change one gang. -/
def State.setGang (s : State) (g : Nat) (v : Gang) : State :=
  { s with ctl := { s.ctl with gangs := Sparse.set {} s.ctl.gangs g v } }

/-! ### Splits (R52 to R54) -/

/-- The free entries of a quadrant's split table, ascending. -/
def State.freeEntries (s : State) (quad : Nat) : List Nat :=
  ((List.range 64).map (fun i => quad * 64 + i)).filter (fun e => decide ((s.split e).slices = []))

/-- Where a slice of a split stands (R51, R53): its place, whether it is to stop, and whether it has just taken a control transfer or executes again in some lanes only. Slices that agree issue together. -/
def State.where_ (s : State) (sl : Nat) : Nat × Nat × Bool × Bool :=
  let x := s.slice sl
  (x.pc, x.word, x.stop, x.taken || x.only.isSome)

/-- The distinct places of some slices. -/
def State.places (s : State) (ls : List Nat) : List (Nat × Nat × Bool × Bool) :=
  ls.foldl (fun acc x => if acc.contains (s.where_ x) then acc else acc ++ [s.where_ x]) []

/-- The place with the lowest packet and word. -/
def lowestPlace : List (Nat × Nat × Bool × Bool) → Option (Nat × Nat × Bool × Bool)
  | [] => none
  | a :: l =>
    match lowestPlace l with
    | none => some a
    | some b => some (if b.1 < a.1 ∨ (b.1 = a.1 ∧ b.2.1 < a.2.1) then b else a)

/-- A slice still in its split: not waiting at a meet, not ended. -/
def State.inSplit (s : State) (sl : Nat) : Bool :=
  match (s.slice sl).status with
  | .meet _ _ _ _ => false
  | .halted => false
  | .exited => false
  | _ => (s.slice sl).here

/-- Put groups of slices into free entries, one each (R53). (DESIGN CHOICE, assumption log 23) -/
def State.spread (s : State) (like : Split) : List (List Nat) → List Nat → State
  | g :: gs, e :: es =>
    State.spread (s.setSplit e { slices := g, gang := like.gang, age := like.age, last := s.run.ac }) like gs es
  | _, _ => s

/-- Divide the running split of entry e by where its slices stand; `stay` is the place that keeps the entry when some slice stands there (R53), else the lowest one. Without enough free entries the slices with the lowest of the other places run on and the rest become one held set (R54). -/
def State.divide (s : State) (e : Nat) (stay : Option (Nat × Nat)) : State :=
  let sp := s.split e
  let run := sp.slices.filter s.inSplit
  let ps := s.places run
  let at_ := fun p => run.filter (fun x => decide (s.where_ x = p))
  match ps with
  | [] =>
    match sp.held with
    | h :: hs => s.setSplit e { sp with slices := h.slices.filter s.inSplit, held := hs, last := s.run.ac, promoted := false, issuedAt := none }
    | [] => s.setSplit e {}
  | [_] => s.setSplit e { sp with slices := run }
  | _ =>
    let free := s.freeEntries (e / 64)
    let fall := ps.find? (fun p => decide (some (p.1, p.2.1) = stay) && !p.2.2.1 && !p.2.2.2)
    if ps.length - 1 ≤ free.length then
      let keep := (match fall with
        | some p => some p
        | none => lowestPlace ps).getD (0, 0, false, false)
      State.spread (s.setSplit e { sp with slices := at_ keep }) sp ((ps.filter (fun p => decide (p ≠ keep))).map at_) free
    else
      let taken := ps.filter (fun p => decide (some p ≠ fall))
      let go := (lowestPlace taken).getD (0, 0, false, false)
      let rest := run.filter (fun x => decide (s.where_ x ≠ go))
      s.setSplit e { sp with slices := at_ go, held := { slices := rest, since := s.run.ac } :: sp.held }

/-- A held set that became the running split divides by its own places, and an empty one is passed over (R54); an entry has at most seven held sets. -/
def State.divideAll (s : State) (e : Nat) (stay : Option (Nat × Nat)) : Nat → State
  | 0 => s
  | n + 1 =>
    let s' := s.divide e stay
    let sp := s'.split e
    if (sp.slices = [] ∧ sp.held ≠ []) ∨ (s'.places sp.slices).length > 1 then State.divideAll s' e none n else s'

/-- Slices that hold no entry take one of the quadrant of their gang, one for each place; without a free entry they are held on the quadrant's first entry of the same gang, or its first entry (R54, R97). (DESIGN CHOICE, assumption log 23) -/
def State.enter (s : State) (ls : List Nat) : State :=
  match ls with
  | [] => s
  | x :: _ =>
    let q := s.quadOf x
    let like : Split := { gang := s.gangKey x, age := (s.gang (s.gangKey x)).age }
    let gs := (s.places ls).map (fun p => ls.filter (fun y => decide (s.where_ y = p)))
    let free := s.freeEntries q
    if gs.length ≤ free.length then s.spread like gs free
    else
      let es := (List.range 64).map (fun i => q * 64 + i)
      let e := (es.find? (fun e => decide ((s.split e).gang = like.gang))).getD (q * 64)
      s.setSplit e { s.split e with held := { slices := ls, since := s.run.ac } :: (s.split e).held }

/-- Take slices out of whatever entry holds them. -/
def State.leave (s : State) (ls : List Nat) : State :=
  { s with ctl := { s.ctl with
      splits := (s.ctl.splits.map (fun p => (p.1, { p.2 with
        slices := p.2.slices.filter (fun x => !ls.contains x)
        held := (p.2.held.map (fun h => { h with slices := h.slices.filter (fun x => !ls.contains x) })).filter (fun h => decide (h.slices ≠ [])) }))).filter
        (fun p => decide (p.2 ≠ {}) && (decide (p.2.slices ≠ []) || decide (p.2.held ≠ []))) } }

/-- Entries whose running split is empty go on with their top held set, or free (R54). -/
def State.refill (s : State) : State :=
  s.ctl.splits.foldl (fun s e => if e.2.slices = [] then s.divideAll e.1 none 9 else s) s

/-! ### Page-table entries (R191, R192, R438) -/

/-- Bits hi..lo of an entry. -/
def bitsOf (e hi lo : Nat) : Nat := e / 2 ^ lo % 2 ^ (hi - lo + 1)
/-- One bit of an entry. -/
def flagOf (e i : Nat) : Bool := decide (e / 2 ^ i % 2 = 1)

/-- A leaf entry found by a walk, its level, and the key at which it stands. -/
structure Page where
  e : Nat
  level : Nat
  at_ : Nat
  deriving DecidableEq, Repr

/-- TIER. -/
def Page.tier (p : Page) : Nat := bitsOf p.e 3 2
/-- TYPE. -/
def Page.ty (p : Page) : Nat := bitsOf p.e 5 4
/-- FRAME. -/
def Page.frame (p : Page) : Nat := bitsOf p.e 51 16
/-- KEYID. -/
def Page.keyid (p : Page) : Nat := bitsOf p.e 59 52
/-- RES. -/
def Page.res (p : Page) : Bool := flagOf p.e 1
/-- W. -/
def Page.w (p : Page) : Bool := flagOf p.e 6
/-- X. -/
def Page.x (p : Page) : Bool := flagOf p.e 7
/-- P, persist-ordered. -/
def Page.p (p : Page) : Bool := flagOf p.e 8
/-- WPW. -/
def Page.wpw (p : Page) : Bool := flagOf p.e 9
/-- HB. -/
def Page.hb (p : Page) : Bool := flagOf p.e 12
/-- SNAP. -/
def Page.snap (p : Page) : Bool := flagOf p.e 62
/-- POISON. -/
def Page.poison (p : Page) : Bool := flagOf p.e 63
/-- Bytes of the page, from its level. -/
def pageBits (level : Nat) : Nat := if level = 3 then 30 else if level = 2 then 21 else 16
/-- Frames of each tier (R438). -/
def tierFrames : Nat → Nat
  | 0 => 9437184
  | 1 => 67108864
  | _ => 2 ^ 36

/-- The tests of R192 on a leaf entry at a level. -/
def leafOk (e level : Nat) : Bool :=
  let p : Page := ⟨e, level, 0⟩
  decide (bitsOf e 15 13 = 0) && decide (bitsOf e 61 60 = level - 1) && decide (level ≤ 3)
    && (!p.res || decide (p.tier = 3) || decide (p.frame % 2 ^ (pageBits level - 16) = 0))
    && (!p.res || decide (2 ≤ p.tier) || decide (p.frame < tierFrames p.tier))
    && (!p.p || decide (p.tier = 1)) && (!p.hb || decide (p.tier = 0))
    && (decide (p.tier ≠ 3) || decide (p.frame / 2 ^ 20 = 0))

/-- The tests of R191 on a table entry: every bit outside V, SIZE and [51:8] is zero. -/
def tableOk (e : Nat) : Bool := decide (e = 1 + bitsOf e 51 8 * 2 ^ 8 + 3 * 2 ^ 60)

/-- The walk from a table at physical address `tab` (R191): levels with the lowest VA bit and the number of entries each indexes. -/
def State.walkFrom (s : State) (va : Nat) : List (Nat × Nat × Nat) → Nat → Except Nat Page
  | [], _ => .error 0
  | (lv, lo, n) :: rest, tab =>
    let at_ := tab + 8 * (va / 2 ^ lo % n)
    let e := s.dword at_
    if !flagOf e 0 then .error 0
    else if bitsOf e 61 60 = 3 then (if tableOk e then State.walkFrom s va rest (bitsOf e 51 8 * 2 ^ 8) else .error 0)
    else if leafOk e lv then .ok ⟨e, lv, at_⟩ else .error 0

/-- The levels of R191. -/
def walkLevels : List (Nat × Nat × Nat) := [(4, 39, 2 ^ 18), (3, 30, 512), (2, 21, 512), (1, 16, 32)]

/-- The entry that makes an address's walk fail because it is malformed (R192): its key and itself. -/
def State.badFrom (s : State) (va : Nat) : List (Nat × Nat × Nat) → Nat → Option (Nat × Nat)
  | [], _ => none
  | (lv, lo, n) :: rest, tab =>
    let at_ := tab + 8 * (va / 2 ^ lo % n)
    let e := s.dword at_
    if !flagOf e 0 then none
    else if bitsOf e 61 60 = 3 then (if tableOk e && !rest.isEmpty then State.badFrom s va rest (bitsOf e 51 8 * 2 ^ 8) else some (at_, e))
    else if leafOk e lv then none else some (at_, e)

/-- Units of State.run.time in a µs. -/
def usec : Nat := 122094000
/-- Wall-clock time in whole µs (R3). -/
def State.us (s : State) : Nat := s.run.time / usec
/-- Units of wall-clock time that an ac takes: the arithmetic clock runs at 75 MHz times 14 to 20 (R3, R434). -/
def State.acTime (s : State) : Nat := 1627920 / (s.dev.mhz / 75)

/-- An entry joins the error log (R429). -/
def Dev.record (d : Dev) (e : ErrEntry) : Dev := { d with log := e :: d.log.take 255, loghead := d.loghead + 1 }

/-- The die of an HBM key. -/
def hbmDie (key : Nat) : Nat := key / (48 * 2 ^ 30) / 3 % 4

/-- A malformed entry on the walk of an address leaves an error record that names the entry's address (R192). -/
def State.noteWalk (s : State) (asid va : Nat) : State :=
  match Sparse.get none s.maps.roots asid with
  | none => s
  | some root =>
    match s.badFrom va walkLevels root with
    | none => s
    | some (at_, e) => { s with dev := s.dev.record { cls := 5, keyid := bitsOf e 59 52, tier := 0, die := hbmDie at_, pa := at_, time := s.us, count := 1 } }

/-- A translation trap that a malformed entry causes leaves its error record (R192). -/
def State.noteEntry (s : State) (sl : Nat) (t : Trap) : State :=
  if t.code = 0x0D ∧ t.info = 0 then s.noteWalk (s.packOf sl).asid t.addr.toNat else s

/-! ### Taking a trap (R97) and returning (R113) -/

/-- TRAPCAUSE (R94). -/
def causeWord (hm aft : Bool) (dist word info code : Nat) (rpl : Bool) : Word :=
  BitVec.ofNat 32 (bit hm * 2 ^ 31 + min dist 15 * 2 ^ 20 + bit aft * 2 ^ 19 + word % 4 * 2 ^ 17 + bit rpl * 2 ^ 16 + info % 256 * 2 ^ 8 + code % 256)
/-- TRAPCAUSE.HM. -/
def hmOf (w : Word) : Bool := w.toNat / 2 ^ 31 % 2 = 1
/-- TRAPCAUSE.WORD. -/
def wordField (w : Word) : Nat := w.toNat / 2 ^ 17 % 4
/-- TRAPCAUSE.RPL. -/
def rplOf (w : Word) : Bool := w.toNat / 2 ^ 16 % 2 = 1

/-- A debug event (R104): breakpoints, watchpoint, single-step. -/
def isDebugEvent (code : Nat) : Bool := decide (0x09 ≤ code) && decide (code ≤ 0x0C)

/-- The oldest open transient producer of a slice (R39). -/
def oldestTrans (x : Slice) : Option Trans := x.trans.getLast?

/-- A trap that names no place of its own strikes while a transient window is open (R39): it restarts at the oldest open producer. -/
def State.openProducer (s : State) (x : Slice) (t : Trap) : Option Trans :=
  match s.run.cur with
  | none => none
  | some c => if t.resume = none ∧ !t.aft ∧ c.opens then oldestTrans x else none

/-- Where a trap resumes and its DIST (R39, R94, R97). -/
def State.resumeOf (s : State) (x : Slice) (t : Trap) : (Nat × Nat) × Nat :=
  match t.resume with
  | some r => (r, t.dist)
  | none =>
    match s.run.cur with
    | none => ((x.pc, x.word), t.dist)
    | some c =>
      if t.aft then ((c.nextPkt, c.nextWord), 0)
      else
        match s.openProducer x t with
        | some p => ((p.pkt, p.word), p.dist + t.dist)
        | none => ((c.firstPkt, c.firstWord), 0)

/-- Where a register, predicate or index register of a slice stands among the undefined ones (R6). -/
def Dst.key (sl : Nat) : Dst → Option Nat
  | .r l n => some (regKey (laneKey sl l) n)
  | .p l n => if n = 0 then none else some (2 ^ 40 + laneKey sl l * 8 + n)
  | .x l n => some (2 ^ 41 + laneKey sl l * 8 + n)
  | .w _ => none

/-- A destination of a slice holds an undefined value from now on (R6). -/
def Lanes.blur (x : Lanes) (sl : Nat) (d : Dst) : Lanes :=
  match d.key sl with
  | some k => { x with undef := Sparse.set false x.undef k true }
  | none => x

/-- One marked place of the lane files takes a fresh value. -/
def Lanes.redraw (x : Lanes) (n key : Nat) : Lanes :=
  if key < 2 ^ 40 then { x with regs := Sparse.set 0 x.regs key (Config.undefWord n key) }
  else if key < 2 ^ 41 then
    let l := (key - 2 ^ 40) / 8
    let m : BitVec 8 := BitVec.ofNat 8 (2 ^ (key % 8))
    let old := Sparse.get 0 x.pred l
    { x with pred := Sparse.set 0 x.pred l (if (Config.undefWord n key).getLsbD 0 then old ||| m else old &&& ~~~m) }
  else { x with idx := Sparse.set 0 x.idx (key - 2 ^ 41) ((Config.undefWord n key).setWidth 16 &&& 0xC0FF#16) }

/-- Every place that holds an undefined value takes a fresh one, so that no two reads need agree (R6). (DESIGN CHOICE, assumption log 73) -/
def State.drift (s : State) : State :=
  let n := s.run.draws * 2 ^ 64 + s.run.ac
  { s with
    lanes := s.lanes.undef.foldl (fun x e => x.redraw n e.1) s.lanes
    mem := { s.mem with bytes := s.mem.undef.foldl (fun m e => Sparse.set 0 m e.1 (Config.undefByte n e.1)) s.mem.bytes }
    mat := { s.mat with els := s.mat.undef.foldl (fun m e => Sparse.set (0, 0) m e.1 (Config.undefWord n (2 * e.1), Config.undefWord n (2 * e.1 + 1))) s.mat.els } }

/-- A destination of a slice takes an undefined value, and goes on changing (R6). -/
def State.blurDst (s : State) (sl : Nat) (d : Dst) : State :=
  { s with lanes := match d.key sl with
    | some k => (s.lanes.blur sl d).redraw (s.run.draws * 2 ^ 64 + s.run.ac) k
    | none => s.lanes }

/-- A slice takes a trap (R97): TRAPLANES, TRAPCAUSE, TRAPPC and TRAPADDR are written, HM is set and the slice goes to its launch's handler. A trap without a handler or in handler mode is fatal (R98). With a debugger attached a debug event or a fatal trap stops the slice at its resume point instead, HM left as it was for a debug event (R104). A broken transient span that is executed again is remembered (R40). (DEDUCED, assumption log 74) -/
def State.takeTrap (s : State) (sl : Nat) (t : Trap) : State :=
  let x := s.slice sl
  let p := s.packOf sl
  let hm := hmOf x.trapcause
  let ((rp, rw), dist) := s.resumeOf x t
  let attached := match p.debug with
    | some d => d.attach
    | none => false
  let debug := isDebugEvent t.code && attached
  let fatal := (hm || decide (p.handler = 0)) && !debug
  let double := hm && !debug
  let code := if double then 0x17 else t.code
  let info := if double then t.code else t.info
  let cause := causeWord (!debug || hm) t.aft dist rw info code t.rpl
  let again := (s.openProducer x t).isSome && x.span.broken
  let y : Slice := { x with
    trapcause := cause
    trappc := BitVec.ofNat 32 (rp + 2 ^ 64 - p.textBase)
    trapaddr := if double then 0 else t.addr
    traplanes := t.lanes.setWidth 32
    trans := []
    span := {}
    spanNext := {}
    redo := if again then some { pkt := rp, word := rw, hm := debug && hm, left := dist, dsts := x.span.writes } else x.redo
    only := none
    stepping := false
    stepped := false
    taken := false
    pc := if debug || fatal then rp else p.handler
    word := if debug || fatal then rw else 0
    status := if fatal && !attached then .halted else .run
    drain := true
    stop := debug || (fatal && attached) }
  let s1 := { s with ctl := { s.ctl with
    slices := Sparse.set {} s.ctl.slices sl y
    fatal := if fatal && !attached && !(s.ctl.fatal.any (fun f => decide (f.1 = p.launch))) then (p.launch, sl) :: s.ctl.fatal else s.ctl.fatal } }
  if debug || (fatal && attached) then
    let scope := ((p.debug).getD {}).scope
    let others := if scope = 0 then [] else
      (s1.slicesOf (packKey sl)).filter (fun o => decide (scope = 2) || decide ((s1.slice o).gang = x.gang))
    others.foldl (fun s o => s.updSlice o (.stop true)) s1
  else s1

/-- The breakpoint or watchpoint match that the last trap reported (R105). -/
def Slice.matched (x : Slice) : Option (Nat × Nat) :=
  let w := x.trapcause.toNat
  if w % 256 = 0x0A ∨ w % 256 = 0x0B then some (w % 256, w / 256 % 256) else none

/-- The return from a trap (R113) of one slice in handler mode with WORD below 3: HM is cleared and the slice goes to TRAPPC; with RPL the resume instruction, and of its group no other, executes only in the lanes of TRAPLANES (DEDUCED, assumption log 81). The next poisoned load records its address again (R100), the match that trapped the slice is suppressed for its first group (R105), and under single-step without a debugger the slice steps (R107). (DEDUCED, assumption log 24) -/
def Slice.rtt (x : Slice) (textBase : Nat) (step : Bool) : Slice :=
  let w := x.trapcause
  let pkt := (textBase + x.trappc.toNat) % 2 ^ 64
  { x with
    trapcause := w &&& 0x7FFEFFFF#32
    pc := pkt
    word := wordField w
    redo := x.redo.filter (fun r => r.on || (decide (r.pkt = pkt) && decide (r.word = wordField w)))
    only := if rplOf w then some (x.traplanes.setWidth 4) else none
    originFree := true
    trans := []
    span := {}
    spanNext := {}
    taken := false
    stepping := step
    suppress := x.matched }

/-! ### Meets (R56 to R63) -/

/-- The meet a slice waits at. -/
def Slice.meet? (x : Slice) : Option (Nat × Nat × Nat × Nat) :=
  match x.status with
  | .meet mode m pkt since => some (mode, m, pkt, since)
  | _ => none

/-- The slices of a gang that count for its mode 0 meet (R57, R58). -/
def State.counted (s : State) (p g : Nat) : List Nat :=
  (s.slicesOf p).filter (fun x =>
    let y := s.slice x
    decide (y.gang = g) && !y.gone && decide (y.status ≠ .halted) &&
      (match y.meet? with
        | some (1, _, _, _) => false
        | _ => true))

/-- Slices that leave a meet go on at the packet after the REGANG (R57, R59). -/
def State.release (s : State) (ls : List Nat) : State :=
  ls.foldl (fun s x =>
    let pkt := match (s.slice x).meet? with
      | some (_, _, pkt, _) => pkt + 12
      | none => (s.slice x).pc
    (s.updSlice x (.status .run)).updSlice x (.goto pkt 0)) s

/-- Mode 0 of one gang (R57, R58): complete when all counted slices wait with one key and an entry is free; a mismatch of keys traps each of them. (DESIGN CHOICE, assumption log 17) -/
def State.meet0 (s : State) (p g : Nat) : State :=
  let ls := s.counted p g
  let ms := ls.filterMap (fun x => (s.slice x).meet?)
  if ls = [] ∨ ms.length < ls.length then s
  else
    match ms with
    | [] => s
    | (_, m, pkt, _) :: rest =>
      if rest.all (fun k => decide (k.2.1 = m) && decide (k.2.2.1 = pkt)) then
        match ls with
        | [] => s
        | x :: _ => if s.freeEntries (s.quadOf x) = [] then s else (s.release ls).enter (s.byGslot ls)
      else
        let s' := ls.foldl (fun s x =>
          let (mm, pk) := match (s.slice x).meet? with
            | some (_, mm, pk, _) => (mm, pk)
            | none => (0, 0)
          s.takeTrap x { code := 0x06, info := mm, lanes := (s.slice x).live, resume := some (pk, (s.slice x).word) }) s
        s'.enter (ls.filter s'.inSplit)

/-- The keys of the mode 1 meets of a pack that slices wait at. -/
def State.keys1 (s : State) (p : Nat) : List (Nat × Nat) :=
  (s.slicesOf p).foldl (fun acc x =>
    match (s.slice x).meet? with
    | some (1, m, pkt, _) => if acc.contains (m, pkt) then acc else acc ++ [(m, pkt)]
    | _ => acc) []

/-- The slices that wait at one mode 1 meet, ascending SID. -/
def State.at1 (s : State) (p : Nat) (k : Nat × Nat) : List Nat :=
  (s.slicesOf p).filter (fun x =>
    match (s.slice x).meet? with
    | some (1, m, pkt, _) => decide ((m, pkt) = k)
    | _ => false)

/-- The largest set of the slices, in ascending SID, that quadrant q can hold together (R62, R63): a slice that stands there needs no room, and every slice of the pack that stands there and is not of the set counts against the pack's share. -/
def State.fitOn (s : State) (p q : Nat) (ls : List Nat) : List Nat :=
  let quota := (s.pack p).quota.getD (q % 4) 0
  let standing := ((s.slicesOf p).filter (fun x => !(s.slice x).gone && decide (s.quadOf x = q))).length
  let take := ls.foldl (fun (acc : List Nat × Nat) x =>
    if s.quadOf x = q then (acc.1 ++ [x], acc.2) else if 0 < acc.2 then (acc.1 ++ [x], acc.2 - 1) else acc) ([], quota - standing)
  let gangs := (s.ctl.slices.filter (fun e => e.2.here && !e.2.gone && (s.packOf e.1).here && decide (s.quadOf e.1 = q) && !take.1.contains e.1)).map (fun e => s.gangKey e.1)
  if s.freeEntries q = [] ∨ 16 ≤ gangs.eraseDups.length then [] else take.1

/-- The lowest GANG number no slice of the pack holds (R59). (DESIGN CHOICE, assumption log 17) -/
def State.freeGang (s : State) (p : Nat) : Nat :=
  ((List.range 128).find? (fun g => (s.slicesOf p).all (fun x => (s.slice x).gone || decide ((s.slice x).gang ≠ g)))).getD 0

/-- One formation of a mode 1 meet: at most eight slices of one key (R59, R63). Answers the state and whether a gang formed. (DESIGN CHOICE, assumption log 17) -/
def State.form1 (s : State) (p : Nat) (k : Nat × Nat) (partialGang : Bool) : State × Bool :=
  let ws := s.at1 p k
  let old := ws.any (fun x => match (s.slice x).meet? with
    | some (_, _, _, since) => decide (since + 256 ≤ s.run.ac)
    | none => false)
  if ws.length < 8 && !(partialGang && old) then (s, false)
  else
    let set := ws.take 8
    let core := (s.pack p).core
    let best := (List.range 4).foldl (fun (b : Nat × List Nat) i =>
      let q := core * 4 + i
      let f := s.fitOn p q set
      let on := fun (q : Nat) (l : List Nat) => (l.filter (fun x => decide (s.quadOf x = q))).length
      if b.2.length < f.length ∨ (b.2.length = f.length ∧ on b.1 b.2 < on q f) then (q, f) else b) (core * 4, [])
    match best.2 with
    | [] => (s, false)
    | x :: _ =>
      let g := s.freeGang p
      let age := (s.gang (s.gangKey x)).age
      let s1 := s.setGang (p * 128 + g) { quad := best.1, age := age, nsl := best.2.length }
      let s2 := (best.2.zip (List.range 8)).foldl (fun s e => s.updSlice e.1 (.place e.2 g)) s1
      (((s2.release best.2).enter best.2), true)

/-- All formations of a pack's mode 1 meets, one after another. -/
def State.form1All (s : State) (p : Nat) (partialGang : Bool) : Nat → State
  | 0 => s
  | n + 1 =>
    match (s.keys1 p).find? (fun k => (s.form1 p k partialGang).2) with
    | some k => State.form1All (s.form1 p k partialGang).1 p partialGang n
    | none => s

/-- Test every meet of a pack (R57, R58, R59). -/
def State.testMeets (s : State) (p : Nat) (partialGang : Bool) : State :=
  let s1 := s.form1All p partialGang 16
  let gs := ((s1.slicesOf p).map (fun x => (s1.slice x).gang)).eraseDups
  gs.foldl (fun s g => s.meet0 p g) s1

/-! ### Applying changes -/

/-- A pack leaves its core (R112): its slot, scratchpad and barrier registers are free, its slot's generation advances (R335), and parked messages and a redirect entry of it go (R336). -/
def State.endPack (s : State) (p : Nat) : State :=
  let k := s.pack p
  let g := k.core * 16 + k.slot
  { s with
    ctl := { s.ctl with packs := Sparse.set {} s.ctl.packs p { k with here := false } }
    fab := { s.fab with
      gens := Sparse.set 0 s.fab.gens g ((Sparse.get 0 s.fab.gens g + 1) % 2 ^ 24)
      inbox := Sparse.set [] s.fab.inbox k.core ((Sparse.get [] s.fab.inbox k.core).filter (fun m => decide (m.slice / 128 ≠ p)))
      redirect := s.fab.redirect.filter (fun x => decide (x ≠ p)) } }

/-- The step number of a queue (R91). -/
def State.stepOf (s : State) (q : Nat) : Nat := Sparse.get 0 s.ctl.steps q

/-- A raise by k (R258) of an arrival word's value. -/
def raiseWord (w k : Nat) : Nat :=
  let target := w / 2 ^ 40
  let count := w / 2 ^ 16 % 2 ^ 24
  let gen := w % 2 ^ 16
  if target = 0 then min (count + k) 0xFFFFFF * 2 ^ 16 + gen
  else target * 2 ^ 40 + (count + k) % target * 2 ^ 16 + (gen + (count + k) / target) % 2 ^ 16

/-- The phase of a launch's group (R255). -/
def State.groupPhase (s : State) (launch g : Nat) : Nat := Sparse.get 0 s.ctl.groupPh (launch * 256 + g)
/-- Tc behind a barrier register or arrival word (R233). -/
def State.tcOf (s : State) (k : Nat) : Nat := Sparse.get 0 s.ctl.tcs k

/-- The largest time of a list. -/
def maxOf (l : List Nat) : Nat := l.foldl max 0

/-- Put saved entries back in place of those whose keys meet a test. -/
def Sparse.restore {V : Type} [DecidableEq V] (d : V) (m : Sparse V) (mine : Nat → Bool) (saved : Sparse V) : Sparse V :=
  saved.foldl (fun m e => Sparse.set d m e.1 e.2) (m.filter (fun e => !mine e.1))

/-- The registers of some slices as a checkpoint saves them (R229). -/
def State.checkpoint (s : State) (w : SpWin) : SpWin :=
  let mine := fun (n k : Nat) => w.slices.contains (k / n)
  { w with
    regs := s.lanes.regs.filter (fun e => mine 1024 e.1)
    psn := s.lanes.psn.filter (fun e => mine 1024 e.1)
    pred := s.lanes.pred.filter (fun e => mine 4 e.1)
    idx := s.lanes.idx.filter (fun e => mine 32 e.1)
    untag := s.lanes.untag.filter (fun e => mine 256 e.1)
    wins := w.slices.map (fun x => (x, (s.slice x).w0, (s.slice x).w1, (s.slice x).w2, (s.slice x).w3)) }

/-- Registers, predicates, index and window registers and the PC come back from the checkpoint; FPCTL, ck and OBSV stay (R229, R230). -/
def State.rollBack (s : State) (w : SpWin) (again : Bool) : State :=
  let mine := fun (n k : Nat) => w.slices.contains (k / n)
  let s1 := { s with lanes := { s.lanes with
      regs := Sparse.restore 0 s.lanes.regs (mine 1024) w.regs
      psn := Sparse.restore false s.lanes.psn (mine 1024) w.psn
      pred := Sparse.restore 0 s.lanes.pred (mine 4) w.pred
      idx := Sparse.restore 0 s.lanes.idx (mine 32) w.idx
      untag := Sparse.restore false s.lanes.untag (mine 256) w.untag } }
  w.wins.foldl (fun s e => s.updSlice e.1 (.replace { s.slice e.1 with
    w0 := e.2.1, w1 := e.2.2.1, w2 := e.2.2.2.1, w3 := e.2.2.2.2, trans := [], span := {}, spanNext := {}, taken := false
    pc := if again then w.pkt else w.nextPkt
    word := if again then w.word else w.nextWord })) s1

/-- The entries of a range moved to another, in place of what the target range held. -/
def Sparse.shift {V : Type} [DecidableEq V] (d : V) (m : Sparse V) (src dst n : Nat) : Sparse V :=
  (m.filter (fun e => decide (src ≤ e.1) && decide (e.1 < src + n))).foldl (fun acc e => Sparse.set d acc (e.1 - src + dst) e.2)
    (m.filter (fun e => !(decide (dst ≤ e.1) && decide (e.1 < dst + n))))

/-- Every stored time in a range of lines goes up by one: what is read there from now on is a later write. -/
def Sparse.later (m : Sparse Nat) (line n : Nat) : Sparse Nat :=
  (m.filter (fun e => decide (line ≤ e.1) && decide (e.1 < line + n))).foldl (fun acc e => Sparse.set 0 acc e.1 (e.2 + 1)) m

/-- Copy n bytes from one key to another (n and both keys multiples of 64). (DEDUCED, assumption log 29) -/
def Mem.copyRange (m : Mem) (src dst n : Nat) : Mem :=
  let scm := decide (scmBase ≤ dst) && decide (dst < hostBase)
  let bytes := Sparse.shift 0 m.bytes src dst n
  let marks := Sparse.shift false m.marks (src / 64) (dst / 64) (n / 64)
  let rts := m.rts.later (dst / 64) (n / 64)
  { m with
    bytes := bytes
    marks := marks
    keys := Sparse.shift 0 m.keys src dst n
    undef := Sparse.shift false m.undef src dst n
    wmarks := Sparse.shift false m.wmarks (src / 4) (dst / 4) (n / 4)
    rts := rts
    wts := (rts.filter (fun e => decide (dst / 64 ≤ e.1) && decide (e.1 < dst / 64 + n / 64))).foldl (fun acc e => Sparse.set 0 acc e.1 e.2) m.wts
    nv := if scm then (bytes.filter (fun e => decide (dst ≤ e.1) && decide (e.1 < dst + n))).foldl (fun acc e => Sparse.set 0 acc e.1 e.2)
        (m.nv.filter (fun e => !(decide (dst ≤ e.1) && decide (e.1 < dst + n)))) else m.nv
    nvMarks := if scm then (marks.filter (fun e => decide (dst / 64 ≤ e.1) && decide (e.1 < dst / 64 + n / 64))).foldl (fun acc e => Sparse.set false acc e.1 e.2)
        (m.nvMarks.filter (fun e => !(decide (dst / 64 ≤ e.1) && decide (e.1 < dst / 64 + n / 64)))) else m.nvMarks }

/-! ### Copies (R292 to R308) -/

/-- Key of queue q of a core's engine. -/
def queueKey (core q : Nat) : Nat := core * 16 + q
/-- A copy queue. -/
def State.cqueue (s : State) (k : Nat) : CQueue := Sparse.get {} s.cpy.queues k
/-- A signed 32-bit number. -/
def signed32 (n : Nat) : Int := if n % 2 ^ 32 < 2 ^ 31 then Int.ofNat (n % 2 ^ 32) else Int.ofNat (n % 2 ^ 32) - 2 ^ 32
/-- The descriptor of eight words (R295, R296). -/
def mkDesc (ws : List Nat) (ss sd : Nat) : Desc :=
  let w := fun (k : Nat) => ws.getD k 0
  let addr := fun (k sp : Nat) => if sp = 0 then w k + w (k + 1) * 2 ^ 32 else w k
  let f := w 5 / 2 ^ 16
  { src := addr 0 ss, dst := addr 2 sd, len := w 4, rows := w 5 % 2 ^ 16, sstr := signed32 (w 6), dstr := signed32 (w 7)
    tgt := f / 2 ^ 8, kind := f / 2 ^ 4 % 16, low := f / 2 ^ 3 % 2 = 1, pord := f / 2 ^ 2 % 2 = 1, zero := f / 2 % 2 = 1, t32 := f % 2 = 1 }
/-- Bytes a copy writes. -/
def Desc.total (d : Desc) : Nat := d.len * d.rows
/-- Bytes of a destination row, and the rows (R297). -/
def Desc.rowLen (d : Desc) : Nat := if d.t32 then 4 * d.rows else d.len
/-- Destination rows. -/
def Desc.dstRows (d : Desc) : Nat := if d.t32 then d.len / 4 else d.rows
/-- Chunks of a copy (R293). -/
def Desc.chunks (d : Desc) : Nat := (d.total + 4095) / 4096
/-- An address in a space: 64 bits in g, 32 otherwise. -/
def wrapAddr (space : Nat) (x : Int) : Nat := if space = 0 then (x % 2 ^ 64).toNat else (x % 2 ^ 32).toNat
/-- Destination address of a position of the copy order. -/
def Desc.dstAt (d : Desc) (sd p : Nat) : Nat := wrapAddr sd (d.dst + (p / d.rowLen : Nat) * d.dstr + (p % d.rowLen : Nat))
/-- Source address of a position. -/
def Desc.srcAt (d : Desc) (ss p : Nat) : Nat :=
  let e := p / d.rowLen
  let o := p % d.rowLen
  if d.t32 then wrapAddr ss (d.src + (o / 4 : Nat) * d.sstr + (4 * e + o % 4 : Nat)) else wrapAddr ss (d.src + e * d.sstr + (o : Nat))
/-- Destination rows as (address, length). -/
def Desc.dstRanges (d : Desc) (sd : Nat) : List (Nat × Nat) :=
  if d.total = 0 then [] else (List.range d.dstRows).map (fun r => (d.dstAt sd (r * d.rowLen), d.rowLen))
/-- Source rows as (address, length). (DEDUCED, assumption log 34) -/
def Desc.srcRanges (d : Desc) (ss : Nat) : List (Nat × Nat) :=
  if d.total = 0 then [] else (List.range d.rows).map (fun r => (wrapAddr ss (d.src + (r : Nat) * d.sstr), d.len))

/-- Some range of one list meets one of another. -/
def rangesMeet (a b : List (Nat × Nat)) : Bool := a.any (fun x => b.any (fun y => decide (x.1 < y.1 + y.2) && decide (y.1 < x.1 + x.2)))

/-- The descriptor of a schedule entry for a pack (R306): SSTEP and DSTEP are added once for each pack before it. -/
def SchedEntry.descOf (e : SchedEntry) (index : Nat) : Desc :=
  let d := mkDesc e.desc e.ss e.sd
  { d with src := wrapAddr e.ss (d.src + signed32 e.sstep * index), dst := wrapAddr e.sd (d.dst + signed32 e.dstep * index) }

/-- A copy is accepted at the end of a queue; its token is the queue and the number of copies before it (R301). -/
def State.acceptCopy (s : State) (k : Nat) (j : CopyJob) : State :=
  let q := s.cqueue k
  { s with cpy := { s.cpy with
      queues := Sparse.set {} s.cpy.queues k { q with jobs := q.jobs ++ [{ j with seq := q.count % 2 ^ 28, uid := s.cpy.uid }], count := q.count + 1 }
      uid := s.cpy.uid + 1 } }

/-- A queue has space (R292). -/
def State.queueRoom (s : State) (k : Nat) : Bool := decide ((s.cqueue k).jobs.length < 32)

/-- A schedule entry becomes a copy; the MMAs a later refill of the same buffer covers are counted from here (R308). (DESIGN CHOICE, assumption log 36) -/
def State.takeEntry (s : State) (p i : Nat) : State :=
  let k := s.pack p
  match k.sched[i]? with
  | none => s
  | some e =>
    let d := e.descOf k.index
    let later := k.sched.zipIdx.filter (fun x => x.1.refill && decide (x.2 ≠ i) && !k.taken.contains x.2 && decide (x.1.sd = e.sd)
      && rangesMeet ((x.1.descOf k.index).dstRanges e.sd) (d.dstRanges e.sd))
    let s1 := s.acceptCopy (queueKey k.core e.queue)
      { pack := p, slice := p * 128, d := d, ss := e.ss, sd := e.sd, ck := (s.core k.core).ck, epoch := (s.slice (p * 128)).epoch, refill := e.refill }
    { s1 with
      ctl := { s1.ctl with packs := Sparse.set {} s1.ctl.packs p { k with taken := i :: k.taken } }
      cpy := { s1.cpy with covers := if e.refill then later.foldl (fun m x => Sparse.set {} m (p * 256 + x.2) {}) s1.cpy.covers else s1.cpy.covers } }

/-- A fired schedule entry that has not entered its queue. -/
def Pack.fresh (k : Pack) (i : Nat) : Bool := k.fired.contains i && !k.taken.contains i

/-- A fired refill may enter its queue: every MMA it covers has read its operands (R308). (DESIGN CHOICE, assumption log 37) -/
def State.consumed (s : State) (p i : Nat) : Bool :=
  let k := s.pack p
  match k.sched[i]? with
  | none => false
  | some e =>
    let c := Sparse.get {} s.cpy.covers (p * 256 + i)
    e.refill && k.fresh i && s.queueRoom (queueKey k.core e.queue) && decide (e.cons ≤ c.count) && c.mmas.all (fun id => Sparse.get none s.mat.mmas id = none)

/-- A fired entry may enter its queue: a refill when its MMAs have read, another one when the queue has space and no earlier entry that may enter waits for it (R307, R308). -/
def State.refillReady (s : State) (p i : Nat) : Bool :=
  let k := s.pack p
  match k.sched[i]? with
  | none => false
  | some e =>
    if e.refill then s.consumed p i
    else k.fresh i && s.queueRoom (queueKey k.core e.queue)
      && k.sched.zipIdx.all (fun x => !(decide (x.2 < i) && k.fresh x.2 && decide (x.1.queue = e.queue) && (!x.1.refill || s.consumed p x.2)))

/-- The entries of a pack whose stage is reached fire; those that may enter their queues do so in ascending order, as far as there is space (R307, R308). (DESIGN CHOICE, assumption log 36) -/
def State.fire (s : State) (p : Nat) : State :=
  let k := s.pack p
  let new := (k.sched.zipIdx.filter (fun x => decide (x.1.stage ≤ k.stage) && !k.fired.contains x.2)).map (fun x => x.2)
  let s1 := { s with ctl := { s.ctl with packs := Sparse.set {} s.ctl.packs p { k with fired := k.fired ++ new } } }
  new.foldl (fun s i => if s.refillReady p i then s.takeEntry p i else s) s1

/-- The stage counter rises to n, never falls, and entries fire (R313, R307). -/
def State.raiseStage (s : State) (p n : Nat) : State :=
  let k := s.pack p
  ({ s with ctl := { s.ctl with packs := Sparse.set {} s.ctl.packs p { k with stage := max k.stage n } } } : State).fire p

/-! ### Keys, snapshots and resets (15_recovery, 19_platform) -/

/-- The 2 MiB regions of HBM that a leaf entry's page lies in. -/
def leafRegions (leaf level : Nat) : List Nat :=
  let p : Page := ⟨leaf, level, 0⟩
  if p.res ∧ p.tier = 0 then (List.range (if level = 3 then 512 else 1)).map (fun i => p.frame / 32 + i) else []
/-- The bias of the regions of a page, as its leaf entry gives it (R202). -/
def Maps.biased (m : Maps) (leaf level : Nat) : Maps :=
  { m with hostBias := (leafRegions leaf level).foldl (fun x r => if m.flips.contains r then x else Sparse.set false x r (flagOf leaf 12)) m.hostBias }

/-- The tag under which bytes written through a KEYID are remembered: the KEYID and the number of the key its slot holds (R205, R421). (DESIGN CHOICE, assumption log 51) -/
def State.keyTag (s : State) (keyid : Nat) : Nat := 1 + keyid + 256 * Sparse.get 0 s.dev.keyver keyid

/-- A write at a 64 KiB frame dirties the snapshot page that stands there (R389). -/
def Sett.touch (x : Sett) (frame : Nat) : Sett :=
  match Sparse.get 0 x.frames frame with
  | 0 => x
  | p + 1 => { x with dirty := Sparse.set false x.dirty p true }

/-- A write of n bytes dirties the pages it lies in. -/
def Sett.written (x : Sett) (key n : Nat) : Sett := if x.frames = [] then x else (x.touch (key / 2 ^ 16)).touch ((key + n - 1) / 2 ^ 16)

/-- Memory after a reset (R241, R432): SCM holds its array, host memory is the host's own, HBM and the die scratchpads read as zero. -/
def Mem.cold (m : Mem) : Mem :=
  let scm := fun (k : Nat) => decide (scmBase ≤ k) && decide (k < hostBase)
  let host := fun (k : Nat) => decide (hostBase ≤ k) && decide (k < dspKey)
  { bytes := m.nv.filter (fun e => scm e.1) ++ m.bytes.filter (fun e => host e.1)
    nv := m.nv
    marks := m.nvMarks.filter (fun e => scm (e.1 * 64))
    nvMarks := m.nvMarks
    keys := m.keys.filter (fun e => scm e.1 || host e.1)
    undef := m.undef.filter (fun e => scm e.1 || host e.1) }

/-- The platform after a reset: fused configuration, firmware slots and the drain verdict stay (R432). -/
def Dev.cold (d : Dev) : Dev :=
  { fw := d.fw, images := d.images, staged := d.staged, pclamp := d.pclamp, plim := d.pclamp, holdup := d.holdup, cut := d.cut, keyver := d.keyver, seen := d.seen, out := d.out }

/-- Everything but the SCM, the fused configuration and the firmware slots is gone (R432). -/
def State.cold (s : State) : State :=
  { run := { s.run with ac := 0, cur := none }, log := s.log, mem := s.mem.cold, dev := s.dev.cold
    fab := { groups := s.fab.groups.filter (fun e => !s.fab.mine.contains e.1), out := s.fab.out } }

/-- KEYIDs that leaf entries of an address space carry enter the history of its jobs (R387). -/
def Sun.carry (x : Sun) (asid : Nat) (ids : List Nat) : Sun :=
  if x.jobs.all (fun e => decide (e.2.asid ≠ asid) || ids.all (fun i => e.2.keyids.contains i)) then x
  else { x with jobs := x.jobs.map (fun e => if e.2.asid = asid then (e.1, { e.2 with keyids := (e.2.keyids ++ ids).eraseDups }) else e) }

/-- A packet of a queue has run under an image (R387): the jobs the queue has named record it, at most eight. -/
def Sun.ran (x : Sun) (queue : Nat) (image : BitVec 384) : Sun :=
  { x with jobs := x.jobs.map (fun e =>
      if e.2.queues.contains queue && !(e.2.images.getLast? == some image) then
        (e.1, if e.2.images.length < 8 then { e.2 with images := e.2.images ++ [image] } else { e.2 with full := true })
      else e) }

/-- A core's clock rises (R219); a clock that reaches its die's base + 2^19 starts a sweep: the base advances by 2^18 and the phase flips (R225). -/
def State.setCk (s : State) (core : Nat) (c : Core) : State :=
  let d := dieOfCore core
  let x := s.die d
  { s with coh := { s.coh with
      cores := Sparse.set {} s.coh.cores core c
      dies := if x.sweep = none ∧ x.base + 2 ^ 19 ≤ c.ck then Sparse.set {} s.coh.dies d { x with base := x.base + 2 ^ 18, phase := !x.phase, sweep := some s.run.ac } else s.coh.dies } }

/-- A place is written while an MMA is outstanding (R273); `old` stands for a refill's write (R308). -/
def State.journaled (s : State) (key n : Nat) (old : Option (List Byte)) : Mat :=
  if s.mat.mmas = [] then s.mat else { s.mat with journal := { key := key, len := n, old := old } :: s.mat.journal }

/-- An MFENCE of a pack covers its earlier writes for the MMAs that issue from now on (R272, R286). -/
def Mat.fenced (x : Mat) (p : Nat) : Mat :=
  if x.mmas = [] then { x with stale := x.stale.filter (fun e => decide (e.slice / 128 ≠ p)) }
  else { x with stale := x.stale.map (fun e => if e.slice / 128 = p ∧ e.covered = none then { e with covered := some x.next } else e) }
/-- A slice acquires: the writes of its pack whose release has completed are always read by its MMAs from now on (R272). (DEDUCED, assumption log 65) -/
def Mat.observed (x : Mat) (sl : Nat) : Mat :=
  { x with stale := x.stale.map (fun e =>
      if e.slice / 128 = sl / 128 ∧ e.rel ≠ none ∧ !e.seen.any (fun y => decide (y.1 = sl)) then { e with seen := (sl, x.next) :: e.seen } else e) }

/-- A key of a frame that has moved. -/
def moved (src dst n k : Nat) : Nat := if src ≤ k ∧ k < src + n then k - src + dst else k

/-- A translation enters a TLB of n entries, the newest first (R200). (DESIGN CHOICE, assumption log 20) -/
def tlbInsert (l : List Tlb) (n : Nat) (v : Tlb) : List Tlb := (v :: l.filter (fun e => !(decide (e.asid = v.asid) && decide (e.page = v.page) && decide (e.level = v.level)))).take n
/-- Entries of an agent's TLB (R200): 32 of a quadrant, 256 of a core, 8,192 of a die. -/
def tlbSize (agent : Nat) : Nat := if agent < 1000 then 32 else if agent < 2000 then 256 else 8192

/-- One change of the state. -/
def Act.apply (s : State) : Act → State
  | .reg l r v p =>
    { s with lanes := { s.lanes with regs := Sparse.set 0 s.lanes.regs (regKey l r) v, psn := Sparse.set false s.lanes.psn (regKey l r) p, undef := Sparse.set false s.lanes.undef (regKey l r) false } }
  | .pred l k b =>
    if k = 0 then s else
    let old := Sparse.get 0 s.lanes.pred l
    let m : BitVec 8 := BitVec.ofNat 8 (2 ^ k)
    { s with lanes := { s.lanes with pred := Sparse.set 0 s.lanes.pred l (if b then old ||| m else old &&& ~~~m), undef := Sparse.set false s.lanes.undef (2 ^ 40 + l * 8 + k) false } }
  | .idx l k v => { s with lanes := { s.lanes with idx := Sparse.set 0 s.lanes.idx (l * 8 + k) (v &&& 0xC0FF#16), undef := Sparse.set false s.lanes.undef (2 ^ 41 + l * 8 + k) false } }
  | .undef sl d => s.blurDst sl d
  | .undefMem k n => { s with mem := s.mem.blur k n }
  | .undefEl k => { s with mat := { s.mat with undef := Sparse.set false s.mat.undef k true } }
  | .untag sl r b => { s with lanes := { s.lanes with untag := Sparse.set false s.lanes.untag (sl * 256 + r) b } }
  | .slice sl u => s.updSlice sl u
  | .trap sl t => (s.noteEntry sl t).takeTrap sl t
  | .gang g v => s.setGang g v
  | .rstatus g keep v => s.setGang g { s.gang g with rstatus := ((s.gang g).rstatus &&& keep) ||| v }
  | .pack p v => { s with ctl := { s.ctl with packs := Sparse.set {} s.ctl.packs p v } }
  | .bar k v => { s with ctl := { s.ctl with bars := Sparse.set {} s.ctl.bars k v } }
  | .raise key n => { s with mem := s.mem.write key 0 (leBytes 8 (raiseWord (s.dword key) n)), mat := s.journaled key 8 none }
  | .groupPhase l g n => { s with ctl := { s.ctl with groupPh := Sparse.set 0 s.ctl.groupPh (l * 256 + g) n } }
  | .tc k t => { s with ctl := { s.ctl with tcs := Sparse.set 0 s.ctl.tcs k (max t (s.tcOf k)) } }
  | .split e v => s.setSplit e v
  | .uniform q n => { s with ctl := { s.ctl with uniform := Sparse.set 0 s.ctl.uniform q (Sparse.get 0 s.ctl.uniform q + n) } }
  | .settle =>
    match s.run.cur with
    | some c => s.divideAll c.entry (some (c.nextPkt, c.nextWord)) 9
    | none => s
  | .enter ls => s.enter ls
  | .resplit sl =>
    match s.ctl.splits.find? (fun e => e.2.slices.contains sl) with
    | none => s
    | some e =>
      let other := (e.2.slices.find? (fun x => decide (x ≠ sl))).map (fun x => ((s.slice x).pc, (s.slice x).word))
      s.divideAll e.1 other 9
  | .meets p f => s.testMeets p f
  | .packEnd p =>
    if (s.slicesOf p).all (fun x => (s.slice x).gone) && !(s.slicesOf p).isEmpty then s.endPack p else s
  | .window k w => { s with ctl := { s.ctl with windows := Sparse.set none s.ctl.windows k w } }
  | .rollback w again => s.rollBack w again
  | .addPersist w => { s with opq := { s.opq with transit := Sparse.set none s.opq.transit s.opq.next (some w), next := s.opq.next + 1 } }
  | .opq v => { s with opq := v }
  | .accept q j => s.acceptCopy q j
  | .cqueue k v => { s with cpy := { s.cpy with queues := Sparse.set {} s.cpy.queues k v } }
  | .slots k a b => { s with cpy := { s.cpy with slots := Sparse.set 0 s.cpy.slots k (min (Sparse.get 0 s.cpy.slots k + a) 15 - b) } }
  | .cover k v => { s with cpy := { s.cpy with covers := Sparse.set {} s.cpy.covers k v } }
  | .fab v => { s with fab := v }
  | .cap k v => { s with fab := { s.fab with caps := Sparse.set {} s.fab.caps k v } }
  | .fresh k v => { s with fab := { s.fab with fresh := Sparse.set none s.fab.fresh k v } }
  | .bulkOp b => { s with fab := { s.fab with bulk := s.fab.bulk ++ [{ b with id := s.fab.nextBulk }], nextBulk := s.fab.nextBulk + 1 } }
  | .message m => { s with fab := { s.fab with msgs := s.fab.msgs ++ [m] } }
  | .unpark c sl r =>
    let l := Sparse.get [] s.fab.inbox c
    { s with fab := { s.fab with inbox := Sparse.set [] s.fab.inbox c (l.eraseIdx (l.findIdx (fun e => decide (e.slice = sl) && decide (e.reg = r)))) } }
  | .turn c q => { s with cpy := { s.cpy with turn := Sparse.set 0 s.cpy.turn c q } }
  | .stage p n => s.raiseStage p n
  | .take p i => s.takeEntry p i
  | .refill k bs id =>
    { s with
      mem := s.mem.write k (s.keyTag id) bs
      sett := s.sett.written k bs.length
      mat := s.journaled k bs.length (some (s.bytes k bs.length)) }
  | .store k bs id =>
    { s with
      mem := s.mem.write k (s.keyTag id) bs
      sett := s.sett.written k bs.length
      mat := s.journaled k bs.length none }
  | .el k v b => { s with mat := { s.mat with els := Sparse.set (0, 0) s.mat.els k v, marks := Sparse.set false s.mat.marks k b, undef := Sparse.set false s.mat.undef k false } }
  | .tile k v => { s with mat := { s.mat with tiles := Sparse.set {} s.mat.tiles k v } }
  | .addMma v => { s with mat := { s.mat with mmas := Sparse.set none s.mat.mmas s.mat.next (some v), next := s.mat.next + 1 } }
  | .setMma id v =>
    let ms := Sparse.set none s.mat.mmas id v
    { s with mat := { s.mat with mmas := ms, journal := if ms = [] then [] else s.mat.journal, stale := if ms = [] then s.mat.stale.filter (fun e => decide (e.covered = none)) else s.mat.stale } }
  | .engine q v => { s with mat := { s.mat with engines := Sparse.set {} s.mat.engines q v } }
  | .stale v => { s with mat := { s.mat with stale := v :: s.mat.stale } }
  | .freshSlice sl => { s with mat := { s.mat with stale := s.mat.stale.map (fun e => if e.slice = sl ∧ e.rel = none then { e with rel := some s.run.ac } else e) } }
  | .freshPack p => { s with mat := s.mat.fenced p }
  | .observe sl => { s with mat := s.mat.observed sl }
  | .drains v n => { s with mat := { s.mat with drains := v, nextDrain := n } }
  | .badEntry a va => s.noteWalk a va
  | .regroup ls =>
    let s1 := s.leave ls
    (s1.refill.enter ls)
  | .mark l b => { s with mem := { s.mem with marks := Sparse.set false s.mem.marks l b } }
  | .wmark w b => { s with mem := { s.mem with wmarks := Sparse.set false s.mem.wmarks w b } }
  | .full w b => { s with mem := { s.mem with full := Sparse.set false s.mem.full w b } }
  | .times l w r => { s with mem := { s.mem with wts := Sparse.set 0 s.mem.wts l w, rts := Sparse.set 0 s.mem.rts l r } }
  | .dirty l b => { s with mem := { s.mem with dirty := Sparse.set false s.mem.dirty l b } }
  | .persistLine l => { s with mem := s.mem.toArray l (s.bytes (l * 64) 64) (s.marked l) }
  | .array k bs => { s with mem := { s.mem with nv := nvWrite s.mem.nv k bs } }
  | .arrayMark l b => { s with mem := { s.mem with nvMarks := Sparse.set false s.mem.nvMarks l b } }
  | .addReq r => { s with coh := { s.coh with reqs := Sparse.set none s.coh.reqs s.coh.nextReq (some r), nextReq := s.coh.nextReq + 1 } }
  | .setReq id r => if id < s.coh.nextReq then { s with coh := { s.coh with reqs := Sparse.set none s.coh.reqs id r } } else s
  | .raiseCk c t => s.setCk c { s.core c with ck := max (s.core c).ck t }
  | .raiseObsv c t => { s with coh := { s.coh with cores := Sparse.set {} s.coh.cores c { s.core c with obsv := max (s.core c).obsv t } } }
  | .core c v => s.setCk c v
  | .die d v => { s with coh := { s.coh with dies := Sparse.set {} s.coh.dies d v } }
  | .copy k v => { s with coh := { s.coh with copies := Sparse.set none s.coh.copies k v } }
  | .tlb ags v => { s with
      maps := ({ s.maps with tlb := ags.foldl (fun m a => Sparse.set [] m a (tlbInsert (Sparse.get [] m a) (tlbSize a) v)) s.maps.tlb } : Maps).biased v.leaf v.level
      sun := s.sun.carry v.asid [bitsOf v.leaf 59 52] }
  | .icache k v => { s with coh := { s.coh with icache := Sparse.set [] s.coh.icache k v } }
  | .icacheDrop c => { s with coh := { s.coh with icache := s.coh.icache.filter (fun e => decide (e.1 / 2 ^ 73 ≠ c)) } }
  | .agentClock k t =>
    match k with
    | 0 => { s with coh := { s.coh with sck := max s.coh.sck t } }
    | 1 => { s with coh := { s.coh with hck := max s.coh.hck t } }
    | _ => { s with coh := { s.coh with fck := max s.coh.fck t } }
  | .copyRange src dst n =>
    { s with
      mem := s.mem.copyRange src dst n
      mat := { s.mat with
        journal := s.mat.journal.map (fun j => { j with key := moved src dst n j.key })
        stale := s.mat.stale.map (fun j => { j with key := moved src dst n j.key }) }
      maps := { s.maps with hostBias := if dst < scmBase then (List.range ((n + 2 ^ 21 - 1) / 2 ^ 21)).foldl (fun m i =>
          Sparse.set false m (dst / 2 ^ 21 + i) (Sparse.get false s.maps.hostBias (src / 2 ^ 21 + i) || Sparse.get false m (dst / 2 ^ 21 + i))) s.maps.hostBias else s.maps.hostBias }
      coh := { s.coh with copies := s.coh.copies.filter (fun e => !(decide (dst / 64 ≤ e.1 % 2 ^ 128) && decide (e.1 % 2 ^ 128 < (dst + n) / 64))) }
      sett := { s.sett with frames := (Sparse.shift 0 s.sett.frames (src / 2 ^ 16) (dst / 2 ^ 16) (n / 2 ^ 16)).filter (fun e => !(decide (src / 2 ^ 16 ≤ e.1) && decide (e.1 < (src + n) / 2 ^ 16))) } }
  | .maps v => { s with maps := v }
  | .sun v => { s with sun := v }
  | .queue k v => { s with sun := { s.sun with queues := Sparse.set {} s.sun.queues k v } }
  | .active v => { s with sun := { s.sun with active := s.sun.active ++ [v] } }
  | .dropActive q i => { s with sun := { s.sun with active := s.sun.active.filter (fun a => !(decide (a.queue = q) && decide (a.index = i))) } }
  | .launch no v => { s with sun := { s.sun with launches := Sparse.set {} s.sun.launches no v } }
  | .bin k v => { s with sun := { s.sun with bins := Sparse.set {} s.sun.bins k v } }
  | .sett v => { s with sett := v }
  | .carry a ids => { s with sun := s.sun.carry a ids }
  | .ran q m => { s with sun := s.sun.ran q m }
  | .record e => { s with dev := s.dev.record e }
  | .suspect l k => { s with dev := { s.dev with suspects := if s.dev.suspects.any (fun x => decide (x.1 = l)) then s.dev.suspects else s.dev.suspects ++ [(l, k, s.run.time)] } }
  | .steps q n => { s with ctl := { s.ctl with steps := Sparse.set 0 s.ctl.steps q (n % 2 ^ 32) } }
  | .dev v => { s with dev := v }
  | .send m => { s with dev := { s.dev with out := m :: s.dev.out } }
  | .newPack => { s with ctl := { s.ctl with nextPack := s.ctl.nextPack + 1, nextAge := s.ctl.nextAge + 1 } }
  | .vacate p => (s.leave (s.slicesOf p)).refill
  | .endPack p => s.endPack p
  | .coldStart => s.cold
  | .draw n => { s with run := { s.run with draws := s.run.draws + n, choices := s.run.choices.drop n } }
  | .cur c => { s with run := { s.run with cur := c } }
  | .countIssue => { s with run := { s.run with count := s.run.count + 1 } }

/-- Apply effects in order. -/
def applyAll (s : State) (es : List Eff) : State := es.foldl (fun s e => e.2.apply s) s

/-- The state after an instruction's effects; they are kept as the log by which the words of a chained group write together (R25, DESIGN CHOICE, assumption log 2). -/
def commit (s : State) (es : List Eff) : State := { applyAll s es with log := es }

/-- A choice of the hardware among n outcomes (R5), the k-th of this step: the next entry of run.choices, or an opaque one. -/
def State.pick (s : State) (k n : Nat) : Nat :=
  (match s.run.choices.drop k with
    | c :: _ => c
    | [] => Config.choice (s.run.draws + k)) % n

/-- The state after some acts. -/
def State.actAll (s : State) (as : List Act) : State := as.foldl (fun s a => a.apply s) s

/-- Acts computed one after another, each from the state that those before it leave. -/
def State.chain (s : State) : List (State → List Act) → List Act
  | [] => []
  | f :: fs => f s ++ State.chain (s.actAll (f s)) fs

/-- Effects without a slice. -/
def plain (as : List Act) : List Eff := as.map (fun a => (none, a))

end Sys2Proof.Machine
end

