-- ==== Sys2Proof/Machine/Real.lean ====
section
/-! DEFINITION. Exact arithmetic and rounding (06_arithmetic R141 to R158): numbers as exact fractions, formats by their field widths, one rounding routine for every format, and the accumulator step of the matrix engine. -/
namespace Sys2Proof.Machine

/-- An exact value: NaN, a signed infinity, or a signed fraction n/d with d > 0 (n = 0 is a signed zero). -/
inductive Num where
  | nan
  | inf (neg : Bool)
  | fin (neg : Bool) (n d : Nat)
  deriving DecidableEq, Repr

/-- A binary format (R141, R149): exponent bits, mantissa bits, bias, sign bit, and SPECIALS (0 none, 1 IEEE-like, 2 one NaN). -/
structure Fmt where
  e : Nat
  m : Nat
  bias : Int
  s : Bool
  sp : Nat
  deriving DecidableEq, Repr

/-- FP32 (R141). -/
def f32 : Fmt := ⟨8, 23, 127, true, 1⟩
/-- BF16 (R141). -/
def bf16 : Fmt := ⟨8, 7, 127, true, 1⟩
/-- F16 (R141). -/
def f16 : Fmt := ⟨5, 10, 15, true, 1⟩
/-- FP64 (R141). -/
def f64 : Fmt := ⟨11, 52, 1023, true, 1⟩

/-- n × 2^q with a sign. -/
def scaled (neg : Bool) (n : Nat) (q : Int) : Num :=
  if q ≥ 0 then .fin neg (n * 2 ^ q.toNat) 1 else .fin neg n (2 ^ (-q).toNat)

/-- The magnitude bits of a code. -/
def Fmt.mag (f : Fmt) (c : Nat) : Nat := c % 2 ^ (f.e + f.m)
/-- The sign of a code. -/
def Fmt.sign (f : Fmt) (c : Nat) : Bool := f.s && decide (c / 2 ^ (f.e + f.m) % 2 = 1)
/-- The sign bit as a number. -/
def Fmt.signBit (f : Fmt) (neg : Bool) : Nat := if f.s && neg then 2 ^ (f.e + f.m) else 0
/-- The exponent of the least grid step: of the subnormals, or of the one grid when E = 0 (R149). -/
def Fmt.qmin (f : Fmt) : Int := if f.e = 0 then -f.bias else 1 - f.bias - f.m
/-- The magnitude code of MaxF (R150): the largest finite code. -/
def Fmt.maxCode (f : Fmt) : Nat :=
  match f.sp with
  | 0 => 2 ^ (f.e + f.m) - 1
  | 1 => (2 ^ f.e - 1) * 2 ^ f.m - 1
  | _ => 2 ^ (f.e + f.m) - 2
/-- The code of infinity (SPECIALS = 1). -/
def Fmt.infCode (f : Fmt) : Nat := (2 ^ f.e - 1) * 2 ^ f.m
/-- The code a NaN converts to (R151 case 1); for the IEEE formats the canonical NaN. -/
def Fmt.nanCode (f : Fmt) : Nat :=
  match f.sp with
  | 0 => 0
  | 1 => (2 ^ f.e - 1) * 2 ^ f.m + 2 ^ (f.m - 1)
  | _ => 2 ^ (f.e + f.m) - 1

/-- The value of a code (R149). -/
def Fmt.dec (f : Fmt) (c : Nat) : Num :=
  let mag := f.mag c
  let neg := f.sign c
  let ex := mag / 2 ^ f.m
  let man := mag % 2 ^ f.m
  if f.sp = 1 ∧ ex = 2 ^ f.e - 1 then (if man = 0 then .inf neg else .nan)
  else if f.sp = 2 ∧ mag = 2 ^ (f.e + f.m) - 1 then .nan
  else if f.e = 0 then scaled neg mag (-f.bias)
  else if ex = 0 then scaled neg man (1 - f.bias - f.m)
  else scaled neg (2 ^ f.m + man) (Int.ofNat ex - f.bias - f.m)

/-- A NaN code of an IEEE-like format. -/
def Fmt.isNan (f : Fmt) (c : Nat) : Bool := f.dec c = .nan
/-- A signalling NaN (R141): the quiet bit is 0. -/
def Fmt.isSnan (f : Fmt) (c : Nat) : Bool := f.sp = 1 && f.isNan c && decide (f.mag c / 2 ^ (f.m - 1) % 2 = 0)
/-- A subnormal code. -/
def Fmt.isSub (f : Fmt) (c : Nat) : Bool := decide (f.mag c ≠ 0) && decide (f.mag c / 2 ^ f.m = 0)
/-- The bits an operand is read as: with FTZ a subnormal is a zero of its sign (R143). -/
def Fmt.flush (f : Fmt) (ftz : Bool) (c : Nat) : Nat := if ftz && f.isSub c then f.signBit (f.sign c) else c
/-- The value an operand is read as (R143). -/
def Fmt.rd (f : Fmt) (ftz : Bool) (c : Nat) : Num := f.dec (f.flush ftz c)

/-- floor(log2 (n/d)) for n, d > 0. -/
def ilog (n d : Nat) : Int :=
  let e := Int.ofNat n.log2 - Int.ofNat d.log2
  if (if e ≥ 0 then decide (n < d * 2 ^ e.toNat) else decide (n * 2 ^ (-e).toNat < d)) then e - 1 else e

/-- A magnitude set against a grid: the code of the grid value at or below it, whether it is that value, and the rest against half a step. -/
structure Grid where
  code : Int
  exact : Bool
  half : Ordering
  deriving DecidableEq, Repr

/-- x = n/d against the step 2^q: floor, exactness and the rest against one half. -/
def gridStep (n d : Nat) (q : Int) : Nat × Bool × Ordering :=
  let n' := if q ≥ 0 then n else n * 2 ^ (-q).toNat
  let d' := if q ≥ 0 then d * 2 ^ q.toNat else d
  (n' / d', decide (n' % d' = 0), compare (2 * (n' % d')) d')

/-- The grid of a format at n/d > 0 (R151 case 4); unbounded below when `low` is false (tininess, R152). -/
def Fmt.grid (f : Fmt) (low : Bool) (n d : Nat) : Grid :=
  if f.e = 0 then
    let (k, x, h) := gridStep n d (-f.bias)
    ⟨k, x, h⟩
  else
    let q0 := ilog n d - f.m
    let q := if low then max q0 f.qmin else q0
    let (k, x, h) := gridStep n d q
    ⟨(q - f.qmin) * 2 ^ f.m + k, x, h⟩

/-- The integer square root of n, by its bits from bit k-1 downwards, above the root r found so far. -/
def isqrtFrom (n : Nat) : Nat → Nat → Nat
  | 0, r => r
  | k + 1, r => if (r + 2 ^ k) * (r + 2 ^ k) ≤ n then isqrtFrom n k (r + 2 ^ k) else isqrtFrom n k r
/-- The integer square root. -/
def isqrt (n : Nat) : Nat := isqrtFrom n (n.log2 / 2 + 1) 0

/-- The grid of a format at sqrt (n/d), n > 0. -/
def Fmt.gridSqrt (f : Fmt) (low : Bool) (n d : Nat) : Grid :=
  let q0 := ilog n d / 2 - f.m
  let q := if low then max q0 f.qmin else q0
  let n' := if q ≥ 0 then n else n * 4 ^ (-q).toNat
  let d' := if q ≥ 0 then d * 4 ^ q.toNat else d
  let k := isqrt (n' / d')
  ⟨(q - f.qmin) * 2 ^ f.m + k, decide (k * k * d' = n'), compare (4 * n') ((2 * k + 1) * (2 * k + 1) * d')⟩

/-- The code a mode takes (R142, R152): ties go to the even code; round-to-odd takes the next code above an even floor. -/
def Grid.round (g : Grid) (mode : Mode) (neg : Bool) : Int :=
  if g.exact then g.code else
  match mode with
  | .rne => match g.half with
    | .lt => g.code
    | .gt => g.code + 1
    | .eq => if g.code % 2 = 0 then g.code else g.code + 1
  | .rz => g.code
  | .ru => if neg then g.code else g.code + 1
  | .rd => if neg then g.code + 1 else g.code
  | .ro => if g.code % 2 = 0 then g.code + 1 else g.code

/-- Deliver an IEEE result from its bounded and unbounded grids: overflow (R142), tininess after rounding, FTZ (R143) and flags (R144). -/
def Fmt.deliver (f : Fmt) (mode : Mode) (ftz neg : Bool) (gb gu : Grid) : Nat × BitVec 8 :=
  let c := gb.round mode neg
  let tiny := decide (gu.round mode neg < 2 ^ f.m)
  if c > f.maxCode then
    let toInf := match mode with
      | .rne => true
      | .ru => !neg
      | .rd => neg
      | _ => false
    (f.signBit neg + (if toInf then f.infCode else f.maxCode), flagOF ||| flagNX)
  else if tiny && ftz then (f.signBit neg, flagUF ||| flagNX)
  else (f.signBit neg + c.toNat, flagIf (!gb.exact) flagNX ||| flagIf (tiny && !gb.exact) flagUF)

/-- Round a value to an IEEE format (R142 to R145). -/
def Fmt.ieee (f : Fmt) (mode : Mode) (ftz : Bool) : Num → Nat × BitVec 8
  | .nan => (f.nanCode, 0)
  | .inf neg => (f.signBit neg + f.infCode, 0)
  | .fin neg n d =>
    if n = 0 then (f.signBit neg, 0) else f.deliver mode ftz neg (f.grid true n d) (f.grid false n d)

/-- The negated value. -/
def Num.neg : Num → Num
  | .nan => .nan
  | .inf s => .inf (!s)
  | .fin s n d => .fin (!s) n d

/-- A fraction from a signed numerator; a zero takes the sign given. -/
def Num.ofInt (z : Bool) (n : Int) (d : Nat) : Num :=
  if n = 0 then .fin z 0 1 else .fin (decide (n < 0)) n.natAbs d

/-- The signed numerator. -/
def sgn (neg : Bool) (n : Nat) : Int := if neg then -(Int.ofNat n) else n

/-- The exact sum, and whether the operation is invalid; a zero sum of opposite signs is +0, or -0 under RD (R142). -/
def Num.add (mode : Mode) : Num → Num → Num × Bool
  | .nan, _ => (.nan, false)
  | _, .nan => (.nan, false)
  | .inf s, .inf t => if s = t then (.inf s, false) else (.nan, true)
  | .inf s, .fin _ _ _ => (.inf s, false)
  | .fin _ _ _, .inf t => (.inf t, false)
  | .fin s n d, .fin t k e =>
    if n = 0 ∧ k = 0 ∧ s = t then (.fin s 0 1, false)
    else (Num.ofInt (mode = .rd) (sgn s n * e + sgn t k * d) (d * e), false)

/-- The exact product, and whether it is the invalid infinity times zero (R167). -/
def Num.mul : Num → Num → Num × Bool
  | .nan, _ => (.nan, false)
  | _, .nan => (.nan, false)
  | .inf s, .inf t => (.inf (s != t), false)
  | .inf s, .fin t k _ => if k = 0 then (.nan, true) else (.inf (s != t), false)
  | .fin s n _, .inf t => if n = 0 then (.nan, true) else (.inf (s != t), false)
  | .fin s n d, .fin t k e => (.fin (s != t) (n * k) (d * e), false)

/-- The value divided by a positive fraction p/q. -/
def Num.divPos (p q : Nat) : Num → Num
  | .fin s n d => .fin s (n * q) (d * p)
  | x => x

/-- Round an operation's result; NV for an invalid operation or a signalling operand (R144). -/
def Fmt.result (f : Fmt) (mode : Mode) (ftz nv : Bool) (r : Num × Bool) : Nat × BitVec 8 :=
  let (c, fl) := f.ieee mode ftz r.1
  (c, fl ||| flagIf (nv || r.2) flagNV)

/-- A + B (R165). -/
def Fmt.addOp (f : Fmt) (mode : Mode) (ftz : Bool) (a b : Nat) : Nat × BitVec 8 :=
  f.result mode ftz (f.isSnan a || f.isSnan b) (Num.add mode (f.rd ftz a) (f.rd ftz b))
/-- A - B (R165). -/
def Fmt.subOp (f : Fmt) (mode : Mode) (ftz : Bool) (a b : Nat) : Nat × BitVec 8 :=
  f.result mode ftz (f.isSnan a || f.isSnan b) (Num.add mode (f.rd ftz a) (f.rd ftz b).neg)
/-- A × B (R165). -/
def Fmt.mulOp (f : Fmt) (mode : Mode) (ftz : Bool) (a b : Nat) : Nat × BitVec 8 :=
  f.result mode ftz (f.isSnan a || f.isSnan b) (Num.mul (f.rd ftz a) (f.rd ftz b))
/-- (±A × B) + (±D), one rounding (R167). -/
def Fmt.fmaOp (f : Fmt) (mode : Mode) (ftz negP negD : Bool) (a b d : Nat) : Nat × BitVec 8 :=
  let p := Num.mul (f.rd ftz a) (f.rd ftz b)
  let p' := if negP then p.1.neg else p.1
  let d' := if negD then (f.rd ftz d).neg else f.rd ftz d
  let r := Num.add mode p' d'
  f.result mode ftz (f.isSnan a || f.isSnan b || f.isSnan d || p.2) (if p.2 then (.nan, true) else r)

/-- The order of R130: +0 above -0. -/
def Fmt.key (f : Fmt) (c : Nat) : Int := if f.sign c then -(Int.ofNat (f.mag c)) - 1 else f.mag c
/-- The FMax rule of R130 over two operands, or with "greater" reversed (R166). -/
def Fmt.maxOp (f : Fmt) (ftz least : Bool) (a b : Nat) : Nat × BitVec 8 :=
  let x := f.flush ftz a
  let y := f.flush ftz b
  let r := if f.isNan a then (if f.isNan b then f.nanCode else y)
    else if f.isNan b then x
    else if (if least then decide (f.key x ≤ f.key y) else decide (f.key y ≤ f.key x)) then x else y
  (r, flagIf (f.isSnan a || f.isSnan b) flagNV)

/-- The comparison key of R170: -0 equals +0. -/
def Fmt.cmpKey (f : Fmt) (ftz : Bool) (c : Nat) : Int :=
  let x := f.flush ftz c
  sgn (f.sign x) (f.mag x)

/-- RoundF32 of an exact value by RNE, keeping subnormals (R156). -/
def roundF32 (x : Num) : Nat × BitVec 8 := f32.ieee .rne false x

/-- One step of a sum of products (R156): the running exact sum, with NaN and infinities absorbed. -/
structure GroupSum where
  nan : Bool := false
  pinf : Bool := false
  ninf : Bool := false
  num : Int := 0
  den : Nat := 1
  allNegZero : Bool := true
  deriving DecidableEq, Repr

/-- Add one product; `inval` marks infinity times zero. -/
def GroupSum.push (g : GroupSum) (p : Num × Bool) : GroupSum :=
  match p.1 with
  | .nan => { g with nan := true }
  | .inf neg => if neg then { g with ninf := true } else { g with pinf := true }
  | .fin s n d =>
    { g with num := g.num * d + sgn s n * g.den, den := g.den * d, allNegZero := g.allNegZero && s && decide (n = 0) }

/-- Flags without OF. -/
def noOF (f : BitVec 8) : BitVec 8 := f &&& ~~~flagOF

/-- AccumulateGroup (R156): (hi, lo) codes and the products of one group; answers the new pair and the flags FTSUM raises for it (R169): OF only where the new hi becomes infinite from finite operands. -/
def accumulateGroup (hi lo : Nat) (ps : List (Num × Bool)) : Nat × Nat × BitVec 8 :=
  let nan32 := f32.nanCode
  if f32.isNan hi then (hi, lo, 0) else
  let g := ps.foldl GroupSum.push {}
  if g.nan || (g.pinf && g.ninf) then (nan32, 0, flagNV) else
  let (p, fp) := if g.pinf then (f32.infCode, 0) else if g.ninf then (f32.signBit true + f32.infCode, 0)
    else roundF32 (Num.ofInt g.allNegZero g.num g.den)
  match f32.dec p with
  | .nan => (nan32, 0, 0)
  | .inf pn =>
    match f32.dec hi with
    | .inf hn => if hn = pn then (p, 0, noOF fp) else (nan32, 0, noOF fp ||| flagNV)
    | _ => (p, 0, fp)
  | .fin _ _ _ =>
    match f32.dec hi with
    | .inf _ => (hi, 0, fp)
    | _ =>
      let sum := (Num.add .rne (f32.dec hi) (f32.dec p)).1
      let (s, fs) := roundF32 sum
      match f32.dec s with
      | .inf _ => (s, 0, fp ||| fs)
      | _ =>
        let err := (Num.add .rne sum (f32.dec s).neg).1
        let (l, fl) := roundF32 (Num.add .rne (f32.dec lo) err).1
        (s, l, fp ||| fs ||| noOF fl)

/-- The value an element of a tile delivers (R158): hi + lo exactly, NaN when hi is NaN, hi when hi is infinite. -/
def tileValue (hi lo : Nat) : Num :=
  match f32.dec hi with
  | .nan => .nan
  | .inf s => .inf s
  | x => (Num.add .rne x (f32.dec lo)).1

/-! Format words (R146 to R153). -/

/-- WIDTH of a format word (R146). -/
def fwWidth (w : Word) : Nat := w.toNat % 16
/-- S of a format word. -/
def fwS (w : Word) : Nat := w.toNat / 2 ^ 4 % 2
/-- E of a format word. -/
def fwE (w : Word) : Nat := w.toNat / 2 ^ 5 % 8
/-- BIAS of a format word, signed. -/
def fwBias (w : Word) : Int := (w.extractLsb' 8 8).toInt
/-- SPECIALS of a format word. -/
def fwSpecials (w : Word) : Nat := w.toNat / 2 ^ 16 % 4
/-- OVF of a format word. -/
def fwOvf (w : Word) : Bool := w.toNat / 2 ^ 18 % 2 = 1
/-- SCALED of a format word. -/
def fwScaled (w : Word) : Bool := w.toNat / 2 ^ 19 % 2 = 1
/-- RND of a format word. -/
def fwRnd (w : Word) : Nat := w.toNat / 2 ^ 20 % 4
/-- The rounding mode RND names (R146). -/
def fwMode (w : Word) : Mode := match fwRnd w with
  | 0 => .rne
  | 1 => .rz
  | _ => .ro

/-- The first failed validity test of R147 in the order of R182, 0 when the word is valid. -/
def fwReason (w : Word) : Nat :=
  let wd := fwWidth w
  if wd = 3 ∨ wd ≥ 9 then 1
  else if w.toNat / 2 ^ 22 % 4 ≠ 0 then 2
  else if fwSpecials w = 3 then 3
  else if fwRnd w = 3 then 4
  else if wd ≤ 2 ∧ (fwS w ≠ 0 ∨ fwE w ≠ 0 ∨ fwBias w ≠ 0 ∨ fwSpecials w ≠ 0 ∨ fwScaled w) then 5
  else if wd ≥ 4 ∧ wd < fwS w + fwE w then 6
  else if wd ≥ 4 ∧ fwSpecials w = 1 ∧ (fwE w < 2 ∨ wd - fwS w - fwE w < 1) then 7
  else 0

/-- The format a valid word describes (R146, R149). -/
def fwFmt (w : Word) : Fmt :=
  match fwWidth w with
  | 0 => bf16
  | 1 => f16
  | 2 => f32
  | wd => ⟨fwE w, wd - fwS w - fwE w, fwBias w, decide (fwS w = 1), fwSpecials w⟩

/-- Bits of one element's code (R148, R149). -/
def fwBits (w : Word) : Nat :=
  match fwWidth w with
  | 0 => 16
  | 1 => 16
  | 2 => 32
  | wd => wd

/-- The multiplier m of a scale byte (R153) as a fraction, none for an all-zero segment. -/
def multiplier (s : Byte) : Option (Nat × Nat) :=
  let t := (s.extractLsb' 2 6).toInt
  let q := s.toNat % 4
  if t = -32 then none
  else if t ≥ 0 then some ((4 + q) * 2 ^ t.toNat, 4) else some (4 + q, 4 * 2 ^ (-t).toNat)

/-- RoundTo(F, x) (R151) with the flags of R152. -/
def roundTo (f : Fmt) (mode : Mode) (ovf : Bool) : Num → Nat × BitVec 8
  | .nan => (f.nanCode, flagIf (f.sp = 0) flagNV)
  | .inf neg =>
    if !f.s && neg then (0, flagNX)
    else if f.sp = 1 then (f.signBit neg + f.infCode, 0)
    else (f.signBit neg + f.maxCode, flagNX)
  | .fin neg n d =>
    let g := f.grid true n d
    let tiny := if f.e = 0 then decide (g.code < 1) else decide ((f.grid false n d).round mode neg < 2 ^ f.m)
    if !f.s && neg then (0, if n = 0 then 0 else flagNX ||| flagIf tiny flagUF)
    else if n = 0 then (f.signBit neg, 0)
    else
      let c := g.round mode neg
      if c > f.maxCode then
        (f.signBit neg + (if mode = .rne && ovf && f.sp = 1 then f.infCode else f.maxCode), flagOF ||| flagNX)
      else
        (f.signBit neg + c.toNat, flagIf (!g.exact) flagNX ||| flagIf (tiny && !g.exact) flagUF)

/-- RoundTo under a format word: BF16, F16 and FP32 overflow to infinity only with OVF (R146, R151). -/
def roundToWord (w : Word) (x : Num) : Nat × BitVec 8 := roundTo (fwFmt w) (fwMode w) (fwOvf w) x

/-- MaxF of a format as a fraction (R150). -/
def Fmt.maxF (f : Fmt) : Nat × Nat :=
  match f.dec f.maxCode with
  | .fin _ n d => (n, d)
  | _ => (0, 1)

/-- The scale bytes in rising order of their multipliers: t from -31 to 31, q from 0 to 3 (R154). -/
def scaleBytes : List Nat :=
  (List.range 63).flatMap (fun t => (List.range 4).map (fun q => ((t + 33) % 64) * 4 + q))

/-- The smallest multiplier m with amax/m ≤ MaxF, or byte 0x7F (R154). -/
def scaleFor (f : Fmt) (n d : Nat) : Nat :=
  let (mn, md) := f.maxF
  match scaleBytes.find? (fun s => match multiplier (BitVec.ofNat 8 s) with
      | some (p, q) => decide (n * q * md ≤ mn * (d * p))
      | none => false) with
  | some s => s
  | none => 0x7F

end Sys2Proof.Machine
end

