-- ==== Sys2Proof/Machine/Operands.lean ====
section
/-! DEFINITION. Operand forms and the frame every instruction word shares: EXT immediates (R32), register fields direct and indexed (R29, R119), the operand tests of R96 step 3, results in the file or in the bypass (R37, R38), uniform tags (R125), and the effects of issuing one word (R22, R25, R97). -/
namespace Sys2Proof.Machine

/-- imm32 of an R-format word with EXT (R32): payload, B, T. -/
def imm32 (x : BitVec 25) (v : View) : Word := BitVec.ofNat 32 (x.toNat * 2 ^ 7 + v.b % 64 * 2 + bit v.t)
/-- The byte offset EXT supplies (R33). -/
def extOffset (ext : Option (BitVec 25)) : Int := match ext with
  | some x => x.toInt
  | none => 0
/-- The EXT payload, 0 without one. -/
def extPay (ext : Option (BitVec 25)) : Nat := match ext with
  | some x => x.toNat
  | none => 0

/-- B as imm32, when an EXT stands before a word that takes one. -/
def View.imm (v : View) (ext : Option (BitVec 25)) : Option Dword :=
  match ext with
  | none => none
  | some x =>
    let w := imm32 x v
    match v.form.ext with
    | .imm => some (w.setWidth 64)
    | .sext => some (w.signExtend 64)
    | .f64 => some (BitVec.ofNat 64 (f64.ieee .rne false (f32.dec w.toNat)).1)
    | _ => none

/-- A word whose window reads go through the bypass: an ALU-pipe instruction, LD, LD.nt or PF (R38). -/
def View.bypass (v : View) : Bool :=
  decide (v.form.pipe = .alu) || decide (v.form.pipe = .alu0) || decide (v.op = 0x20) || decide (v.op = 0x22) || decide (v.op = 0x26)
/-- A transient producer (R37). -/
def View.transient (v : View) (ext : Option (BitVec 25)) : Bool := v.t && decide (ext = none)

/-- The register a field names in a lane (R29, R119), or the index that fails its bounds. (DEDUCED, assumption log 66) -/
def State.resolve (s : State) (sl ln field n : Nat) : Except Nat Nat :=
  if field < 56 then .ok field
  else
    let x := s.idxOf (laneKey sl ln) (field - 56)
    let w := (s.slice sl).window (x.toNat / 2 ^ 14)
    let i := x.toNat % 256
    if w.len ≤ i then .error i else if w.len < i + n ∨ 256 < w.base + i + n then .error w.len else .ok (w.base + i)

/-- The register a field names, where it is known to resolve. -/
def State.regOf (s : State) (sl ln field n : Nat) : Nat := match s.resolve sl ln field n with
  | .ok r => r
  | .error _ => 0

/-- Number of registers an operand names. -/
def Opnd.regs : Opnd → Nat
  | .v n _ _ _ => n
  | _ => 0
/-- The operand reads its registers. -/
def Opnd.reads : Opnd → Bool
  | .v _ _ rd _ => rd
  | _ => false
/-- The operand writes its registers. -/
def Opnd.writes : Opnd → Bool
  | .v _ _ _ wr => wr
  | _ => false

/-- The index-bounds test of one field over some lanes (R119). (DEDUCED, assumption log 66) -/
def State.boundsTrap (s : State) (sl : Nat) (o : Opnd) (field : Nat) (ls : List Nat) : Option Trap :=
  if o.regs = 0 then none
  else
    let bad := ls.filterMap (fun l => match s.resolve sl l field o.regs with
      | .error i => some (l, i)
      | .ok _ => none)
    match bad with
    | [] => none
    | (_, i) :: _ => some { code := 0x03, info := field, addr := BitVec.ofNat 64 i, lanes := laneMask (bad.map (fun x => x.1)), operand := true }

/-- The lanes in which some register of a field is poisoned (R101, R121). -/
def State.psnLanes (s : State) (byp : Bool) (sl : Nat) (o : Opnd) (field : Nat) (ls : List Nat) : List Nat :=
  if !o.reads then [] else
  ls.filter (fun l => (List.range o.regs).any (fun k => s.readPsn byp sl l (s.regOf sl l field o.regs + k)))

/-- The poison trap of a field. -/
def State.psnTrap (s : State) (sl field : Nat) (bad : List Nat) : Option Trap :=
  if bad = [] then none
  else some { code := 0x10, info := field, addr := (s.slice sl).origin.getD 0, lanes := laneMask bad, operand := true }

/-- The operand tests of R96 step 3: index bounds of D, A, B in the lanes `ls` whose guard is true (R119), then poison of D, A, B in the lanes `rd` of them that the instruction reads (R101). -/
def State.operandTrapIn (s : State) (v : View) (ext : Option (BitVec 25)) (sl : Nat) (ls rd : List Nat) : Option Trap :=
  let b := if (v.imm ext).isSome then Opnd.non else v.form.b
  let byp := v.bypass
  (s.boundsTrap sl v.form.d v.d ls) <|> (s.boundsTrap sl v.form.a v.a ls) <|> (s.boundsTrap sl b v.b ls)
    <|> s.psnTrap sl v.d (s.psnLanes byp sl v.form.d v.d rd)
    <|> s.psnTrap sl v.a (s.psnLanes byp sl v.form.a v.a rd)
    <|> s.psnTrap sl v.b (s.psnLanes byp sl b v.b rd)

/-- The operand tests of an instruction that reads every active lane. -/
def State.operandTrap (s : State) (v : View) (ext : Option (BitVec 25)) (sl : Nat) (ls : List Nat) : Option Trap := s.operandTrapIn v ext sl ls ls

/-- The value of a register field in one lane: one register, or a pair with the first register low (R132). -/
def State.fieldVal (s : State) (byp : Bool) (sl ln : Nat) (o : Opnd) (field : Nat) : Dword :=
  match o with
  | .v n _ _ _ =>
    let r := s.regOf sl ln field n
    if n = 1 then (s.readReg byp sl ln r).setWidth 64 else s.readReg byp sl ln (r + 1) ++ s.readReg byp sl ln r
  | _ => 0

/-- A in one lane. -/
def State.valA (s : State) (v : View) (sl ln : Nat) : Dword := s.fieldVal v.bypass sl ln v.form.a v.a
/-- D in one lane, as a source. -/
def State.valD (s : State) (v : View) (sl ln : Nat) : Dword := s.fieldVal v.bypass sl ln v.form.d v.d
/-- B in one lane: the immediate, or the register. -/
def State.valB (s : State) (v : View) (ext : Option (BitVec 25)) (sl ln : Nat) : Dword :=
  match v.imm ext with
  | some i => i
  | none => s.fieldVal v.bypass sl ln v.form.b v.b

/-! ### Results -/

/-- The uniform tags after an ALU-pipe instruction's register writes (lane, register, value) in one slice (R125): set where all live lanes hold one value. -/
def State.tagActs (s : State) (sl : Nat) (ws : List (Nat × Nat × Word)) : List Act :=
  let rs := (ws.map (fun w => w.2.1)).eraseDups
  rs.flatMap (fun r =>
    let vals : List Word := (maskLanes (s.slice sl).live).map (fun l =>
      match ws.find? (fun w => decide (w.1 = l) && decide (w.2.1 = r)) with
      | some w => w.2.2
      | none => s.file (laneKey sl l) r)
    let same := vals.all (fun x => decide ((some x : Option Word) = vals.head?))
    .untag sl r (!same) :: (if same then [.uniform (s.quadOf sl) 1] else []))

/-- Register writes of an ALU-pipe instruction in one slice: into the bypass when transient (R38), else into the file with their poison bits cleared (R100). (DEDUCED, assumption log 16) -/
def State.writeActs (s : State) (v : View) (ext : Option (BitVec 25)) (sl : Nat) (ws : List (Nat × Nat × Word)) : List Act :=
  if v.transient ext then
    match s.run.cur with
    | none => []
    | some c => [.slice sl (.trans (ws.map (fun w => { lane := w.1, reg := w.2.1, val := w.2.2, left := 3, pkt := c.pkt, word := c.word, dist := 1 })))]
  else
    ws.map (fun w => .reg (laneKey sl w.1) w.2.1 w.2.2 false) ++ s.tagActs sl ws

/-- The register writes of a lane's result in D: one register, or a pair (R132). -/
def State.destWrites (s : State) (v : View) (sl ln : Nat) (x : Dword) : List (Nat × Nat × Word) :=
  match v.form.d with
  | .v n _ _ _ =>
    let r := s.regOf sl ln v.d n
    if n = 1 then [(ln, r, x.setWidth 32)] else [(ln, r, x.setWidth 32), (ln, r + 1, x.extractLsb' 32 32)]
  | _ => []

/-- Register writes (lane, register, value) of an instruction of another pipe than the ALUs: into the file, poison bits cleared, and the uniform tags not set (R100, R125). -/
def fileWrites (sl : Nat) (ws : List (Nat × Nat × Word)) : List Act :=
  ws.map (fun w => .reg (laneKey sl w.1) w.2.1 w.2.2 false) ++ ((ws.map (fun w => w.2.1)).eraseDups).map (fun r => .untag sl r true)

/-- Write one word to vD of some lanes (SRD, BARA, BARQ, CPYQ, …). -/
def State.putD (s : State) (v : View) (sl : Nat) (ls : List Nat) (x : Nat → Word) : List Act :=
  fileWrites sl (ls.map (fun l => (l, s.regOf sl l v.d v.form.d.regs, x l)))

/-! ### Issuing one word -/

/-- The effects of one slice: a trap (R97) or its acts. -/
abbrev Res := Except Trap (List Act)

/-- The EXT payload of the issuing word. (DEDUCED, assumption log 33) -/
def State.ext (s : State) : Option (BitVec 25) := (s.run.cur.bind (fun c => c.ext))

/-- An illegal-instruction trap of all live lanes of a slice (R95). (DEDUCED, assumption log 33) -/
def State.illegal (s : State) (sl op : Nat) : Trap := { code := 0x01, info := op, lanes := (s.slice sl).live }

/-- What every issued word does to each slice of its split besides its own acts: it enters the windows and goes on after the word (R22, R35, R38). -/
def advance (c : Cur) (v : View) (sl : Nat) : List Act :=
  [.slice sl (.tick v.bypass), .slice sl (.goto c.nextPkt c.nextWord)]

/-- Tag acts with their slice. -/
def tagged (sl : Nat) (as : List Act) : List Eff := as.map (fun a => (some sl, a))

/-- The effects of a word whose slices act one by one. -/
def sliceEffs (c : Cur) (v : View) (body : Nat → Res) : List Eff :=
  c.slices.flatMap (fun sl =>
    match body sl with
    | .error t => [(some sl, .trap sl t)]
    | .ok as => tagged sl (advance c v sl ++ as))

/-- INFO of an illegal word (R95): the major opcode of the offending word, which is the EXT where the word takes none (R34). -/
def View.illOp (v : View) (ext : Option (BitVec 25)) : Nat := if ext ≠ none ∧ v.form.ext = .no then 0x07 else v.op

/-- Issue a word: an EXT, T or B combination its entry refuses traps every slice (R34, R37); otherwise `body` gives the effects, and the split is settled at the end (R53). -/
def issueEffs (i : Instr) (s : State) (body : Cur → View → List Eff) : List Eff :=
  match s.run.cur, view i with
  | some c, .word v =>
    (if v.ill = none ∧ v.extOk c.ext then body c v
      else c.slices.map (fun sl => (some sl, .trap sl (s.illegal sl (v.illOp c.ext))))) ++ [(none, .cur (some { c with ext := none })), (none, .settle)]
  | _, _ => []

/-- Issue a word whose slices act one by one. (DESIGN CHOICE, assumption log 2) -/
def issue (i : Instr) (s : State) (body : Cur → View → Nat → Res) : Host.Outcome State Fault Refusal :=
  .next (commit s (issueEffs i s (fun c v => sliceEffs c v (body c v))))

/-- Issue a word that acts on its split as a whole. -/
def issueAll (i : Instr) (s : State) (body : Cur → View → List Eff) : Host.Outcome State Fault Refusal :=
  .next (commit s (issueEffs i s body))

/-- A step of another agent. (DESIGN CHOICE, assumption log 67) -/
def event (s : State) (as : List Act) : Host.Outcome State Fault Refusal := .next (commit s (plain as))

/-- A slice's acts after the operand tests over its active lanes (R96 step 3). -/
def State.tested (s : State) (v : View) (sl : Nat) (ls : List Nat) (body : Unit → Res) : Res :=
  match s.operandTrap v s.ext sl ls with
  | some t => .error t
  | none => body ()

/-- The same for an instruction that reads its operands in lane l alone: its index bounds hold in every active lane (R119). -/
def State.testedOne (s : State) (v : View) (sl l : Nat) (ls : List Nat) (body : Unit → Res) : Res :=
  match s.operandTrapIn v s.ext sl ls [l] with
  | some t => .error t
  | none => body ()

/-! ### Lane-wise instructions -/

/-- What a lane-wise function reads in a lane. -/
def State.laneIn (s : State) (v : View) (sl ln : Nat) : LaneIn :=
  { a := s.valA v sl ln, b := s.valB v s.ext sl ln, d := s.valD v sl ln, g := s.predOf (laneKey sl ln) v.pg, fp := (s.slice sl).fpctl }

/-- Ac from issue until a floating-point, conversion or quantising instruction completes (R161). -/
def View.latency (v : View) : Nat :=
  match v.op with
  | 0x11 => if v.fn < 3 then 4 else 6
  | 0x13 => if v.fn < 5 then 8 else 12
  | 0x15 => if v.fn < 4 then 8 else 4
  | 0x16 => if v.fn = 4 ∨ v.fn = 5 then 6 else 4
  | 0x17 => if v.fn = 2 ∨ v.fn = 3 then 6 else 4
  | 0x18 => if v.fn = 2 ∨ v.fn = 3 ∨ v.fn = 5 then 2 else 6
  | _ => 4

/-- Flags an instruction raises (R144) when it completes (R164). -/
def State.flagActs (s : State) (v : View) (sl : Nat) (flags : BitVec 8) : List Act :=
  if flags = 0 then [] else [.slice sl (.flags flags), .slice sl (.flight (s.run.ac + v.latency) s.run.ac flags)]

/-- The acts of a lane-wise instruction over some lanes: an invalid format word traps the lanes that hold it (R147); otherwise results into D and flags into FPCTL. -/
def State.lanesRes (s : State) (v : View) (sl : Nat) (ls : List Nat) (f : LaneIn → LaneOut) : Res :=
  let outs := ls.map (fun l => (l, f (s.laneIn v sl l)))
  let bad := outs.filterMap (fun o => o.2.bad.map (fun w => (o.1, w)))
  match bad with
  | (_, w) :: _ => .error { code := 0x15, info := v.op, addr := w.setWidth 64, lanes := laneMask (bad.map (fun x => x.1)) }
  | [] =>
    let flags := outs.foldl (fun acc o => acc ||| o.2.flags) 0
    let fl := s.flagActs v sl flags
    match v.form.d with
    | .p => .ok (outs.map (fun o => .pred (laneKey sl o.1) (v.d % 8) (o.2.v.getLsbD 0)) ++ fl)
    | .x => .ok (outs.map (fun o => .idx (laneKey sl o.1) (v.d % 8) (o.2.v.setWidth 16)) ++ fl)
    | _ => .ok (s.writeActs v s.ext sl (outs.flatMap (fun o => s.destWrites v sl o.1 o.2.v)) ++ fl)

/-- A lane-wise instruction (R122): in every active lane D becomes the function's value of the operands read at issue. -/
def lanewise (i : Instr) (f : LaneIn → LaneOut) (s : State) : Host.Outcome State Fault Refusal :=
  issue i s (fun _ v sl =>
    let ls := s.activeLanes sl v.pg
    s.tested v sl ls (fun _ => s.lanesRes v sl ls f))

end Sys2Proof.Machine
end

