-- ==== Sys2Proof/Machine/Memory.lean ====
section
/-! DEFINITION. What an access touches (08_memory R183 to R206): addresses and their checks, the page-table walk, the page's type, tier and permissions, and the classification of each lane's access by the tests of R208. -/
namespace Sys2Proof.Machine

/-! ### Walks (R191, R421) -/

/-- A key slot holds a key (R421): slot 0 always does. -/
def State.hasKey (s : State) (keyid : Nat) : Bool := decide (keyid = 0) || Sparse.get false s.dev.keys keyid

/-- The walk of an ASID (R191); an ASID without a root has no mapping, and a leaf whose key slot is empty gives INFO 1 (R421). -/
def State.walk (s : State) (asid va : Nat) : Except Nat Page :=
  match Sparse.get none s.maps.roots asid with
  | none => .error 0
  | some root =>
    match s.walkFrom va walkLevels root with
    | .error i => .error i
    | .ok p => if s.hasKey p.keyid then .ok p else .error 1

/-- The TLBs that serve an access (R200): of the quadrant and core of a slice; of a core, for its Marten engine and matrix operand pipes; and of the die. (DESIGN CHOICE, assumption log 20) -/
def tlbsOfCore (core : Nat) : List Nat := [1000 + core, 2000 + dieOfCore core]
/-- The TLBs of a slice's own accesses. -/
def State.tlbsOf (s : State) (sl : Nat) : List Nat := s.quadOf sl :: tlbsOfCore (s.coreOf sl)
/-- The TLB of the fabric port, through which accesses of other devices translate. -/
def fabricTlbs : List Nat := [2000]
/-- An entry without its A, D and WPW bits, which the hardware keeps (R193, R199). -/
def tlbBits (e : Nat) : Nat := e - bitsOf e 11 9 * 2 ^ 9
/-- An entry covers an address (R200): one page of any size. -/
def Tlb.covers (t : Tlb) (asid va : Nat) : Bool := decide (t.asid = asid) && decide (t.page = va / 2 ^ pageBits t.level)
/-- The translation some TLBs hold for an address. -/
def State.cached (s : State) (tlbs : List Nat) (asid va : Nat) : Option Tlb :=
  tlbs.findSome? (fun a => (Sparse.get [] s.maps.tlb a).find? (fun t => t.covers asid va))

/-- A cached translation that differs from the table's: software has edited the entry and no packet has removed the old one (R236). (DESIGN CHOICE, assumption log 20) -/
def State.staleTlb (s : State) (tlbs : List Nat) (asid va : Nat) : Option Page :=
  match s.cached tlbs asid va with
  | none => none
  | some t =>
    match s.walk asid va with
    | .ok p => if tlbBits p.e = tlbBits t.leaf then none else some ⟨t.leaf, t.level, t.at_⟩
    | .error _ => some ⟨t.leaf, t.level, t.at_⟩

/-- The translation an access uses: the table's, or an old one still cached, chosen by the hardware (R236); an old one with D = 0 does not serve a write (R193). k numbers the choice within the step. (DESIGN CHOICE, assumption log 20) -/
def State.pageOf (s : State) (tlbs : List Nat) (k asid va : Nat) (write : Bool := false) : Except Nat Page :=
  match s.staleTlb tlbs asid va with
  | none => s.walk asid va
  | some old => if (!write || flagOf old.e 10) ∧ s.pick k 2 = 1 then .ok old else s.walk asid va

/-- Physical key of a byte of a resident page (R438, assumption log 3). -/
def Page.key (p : Page) (va : Nat) : Nat :=
  let off := p.frame * 2 ^ 16 + va % 2 ^ pageBits p.level
  match p.tier with
  | 0 => off
  | 1 => scmBase + off
  | 2 => hostBase + off
  | _ => farBase + (p.frame % 2 ^ 20) * 2 ^ 60 + va

/-! ### The die scratchpad window (R187) -/

/-- DSPBASE. -/
def dspBase : Nat := 0x01FFFFF000000000
/-- An address of the window. -/
def inDsp (va : Nat) : Bool := decide (dspBase ≤ va) && decide (va < dspBase + 4 * 0x2000000)

/-! ### Homes (R7, R232, R438) -/

/-- The home die of a memory key: the stack's die, or the die host bits 13:12 select. -/
def homeDie (key : Nat) : Nat :=
  if key < scmBase then key / (48 * 2 ^ 30) / 3 % 4
  else if key < hostBase then (key - scmBase) / 2 ^ 40 % 4
  else if key < dspKey then key / 2 ^ 12 % 4
  else (key - dspKey) / 2 ^ 25 % 4

/-- The die in whose L2 a line's coherence is kept: its home, and for a region in host bias the die that bits 13:12 of its address select (R202, R232). -/
def State.homeOf (s : State) (key : Nat) : Nat :=
  if key < scmBase ∧ Sparse.get false s.maps.hostBias (key / 2 ^ 21) then key / 2 ^ 12 % 4 else homeDie key

/-- A physical location the device has: HBM and SCM within their sizes (R7, R438). -/
def keyExists (key : Nat) : Bool :=
  if key < scmBase then decide (key < 576 * 2 ^ 30) else if key < hostBase then decide (key < scmBase + 4 * 2 ^ 40) else true

/-! ### Classifying one lane's access (R183, R184, R208) -/

/-- Why a lane's access fails: trap code, INFO and address. -/
structure Cause where
  code : Nat
  info : Nat
  addr : Nat
  deriving DecidableEq, Repr

/-- A malformed entry met in an access that no slice makes leaves its error record (R192). -/
def Cause.note (c : Cause) (asid : Nat) : List Act := if c.code = 0x0D ∧ c.info = 0 then [.badEntry asid c.addr] else []

/-- Where a lane's access goes. -/
inductive Target where
  /-- scratchpad, at once -/
  | scratch (key : Nat)
  /-- lane-private window, at once -/
  | window (p : Page) (va : Nat)
  /-- the die scratchpad window, at its die -/
  | dsp (key : Nat)
  /-- a global page -/
  | page (p : Page) (va : Nat)
  /-- the page is not resident, or writes to it are held: the lane parks (R198, R199) -/
  | park (va : Nat)
  deriving DecidableEq, Repr

/-- AddressOf (R183): a 57-bit g address, or a 32-bit offset. -/
def addressOf (space : Nat) (a : Dword) (off : Int) : Nat :=
  if space = 0 then ((Int.ofNat a.toNat + off) % 2 ^ 64).toNat else ((Int.ofNat (a.toNat % 2 ^ 32) + off) % 2 ^ 32).toNat

/-- The pack of a cluster set on cluster position k (R185). -/
def State.clusterPack (s : State) (p k : Nat) : Option Nat :=
  let me := s.pack p
  match me.cluster with
  | none => none
  | some first =>
    (s.ctl.packs.find? (fun e => decide (e.2.launch = me.launch) && decide (e.2.cluster = some first) && decide (e.2.core % 8 = k)
      && decide (e.2.core / 8 = me.core / 8))).map (fun e => e.1)

/-- A migration handle that can be resolved: registered, a frame is free, and the page is not 1 GiB (R198). -/
def State.migratable (s : State) (p : Page) : Bool :=
  (Sparse.get none s.maps.handles p.frame).isSome && decide (p.level ≤ 2) &&
    (List.range (if p.tier = 0 then 12 else if p.tier = 1 then 4 else 0)).any (fun st =>
      let fr := Sparse.get [] s.maps.frames (p.tier * 16 + st)
      if p.level = 1 then !fr.isEmpty
      else fr.any (fun f => decide (f % 32 = 0) && (List.range 32).all (fun i => fr.contains (f + i))))

/-- A region that a BIAS packet is flipping: device accesses to it park (R203). -/
def State.flipping (s : State) (pg : Page) (va : Nat) : Bool := decide (pg.tier = 0) && s.maps.flips.contains (pg.key va / 2 ^ 21)

/-- Translate a global address for one access (R183, R187, R191 to R198) through some TLBs: a target or a cause. -/
def State.translateVia (s : State) (tlbs : List Nat) (k : Nat) (sl va : Nat) (write : Bool := false) : Except Cause Target :=
  let p := s.packOf sl
  if 2 ^ 57 ≤ va then .error ⟨0x0D, 2, va⟩
  else if inDsp va then
    let off := va - dspBase
    if Sparse.get 0 s.maps.blocks (off / 2 ^ 16) = p.launch + 2 then .ok (.dsp (dspKey + off)) else .error ⟨0x0D, 0, va⟩
  else
    match s.pageOf tlbs k p.asid va write with
    | .error i => .error ⟨0x0D, i, va⟩
    | .ok pg =>
      if pg.tier = 3 then
        if !pg.res || decide (pg.frame / 2 ^ 12 % 2 ^ 8 ≠ s.maps.devid / 2 ^ 12) then .error ⟨0x0D, 1, va⟩ else .ok (.page pg va)
      else if pg.res then (if s.flipping pg va then .ok (.park va) else .ok (.page pg va))
      else if s.migratable pg then .ok (.park va)
      else .error ⟨0x0D, 1, va⟩

/-- Translation for an access of a slice itself. -/
def State.translate (s : State) (k : Nat) (sl va : Nat) (write : Bool := false) : Except Cause Target := s.translateVia (s.tlbsOf sl) k sl va write

/-- An address of a tenant lies in the backing of a resident pack's lane-private windows, which the g space must not reach (R186). -/
def State.lpBacked (s : State) (asid va : Nat) : Bool :=
  s.ctl.packs.any (fun e => e.2.here && decide (e.2.asid = asid) && decide (e.2.lpbase ≤ va) && decide (va < e.2.lpbase + 4 * (e.2.ngang * e.2.nsl) * e.2.lpsize))

/-- Space 0 is g, 1 s, 2 c, 3 l (R28). VA of offset o of a lane's private window (R186). -/
def State.lpVa (s : State) (sl ln o : Nat) : Nat :=
  let p := s.packOf sl
  p.lpbase + (4 * (s.slice sl).sid + ln) * p.lpsize + o

/-- The first loop of R208 for one lane: bounds, alignment, translation. `winfo` is the INFO of a misaligned trap; size 0 asks for no alignment. -/
def State.accessAt (s : State) (k sl ln space addr size winfo : Nat) (write : Bool := false) : Except Cause Target :=
  let pk := packKey sl
  let p := s.pack pk
  let mis := decide (size ≠ 0) && decide (addr % size ≠ 0)
  match space with
  | 0 =>
    if 2 ^ 57 ≤ addr then .error ⟨0x0D, 2, addr⟩
    else if mis then .error ⟨0x0F, winfo, addr⟩
    else s.translate k sl addr write
  | 1 =>
    if p.scratch < addr + size then .error ⟨0x16, 1, addr⟩
    else if mis then .error ⟨0x0F, winfo, addr⟩
    else .ok (.scratch (scratchKey pk addr))
  | 2 =>
    let off := addr % 2 ^ 20
    match (if 2 ^ 23 ≤ addr then none else s.clusterPack pk (addr / 2 ^ 20)) with
    | none => .error ⟨0x16, 2, addr⟩
    | some t =>
      if (s.pack t).scratch < off + size then .error ⟨0x16, 2, addr⟩
      else if mis then .error ⟨0x0F, winfo, addr⟩
      else .ok (.scratch (scratchKey t off))
  | _ =>
    if p.lpsize < addr + size then .error ⟨0x16, 3, addr⟩
    else if mis then .error ⟨0x0F, winfo, addr⟩
    else
      match s.translate k sl (s.lpVa sl ln addr) write with
      | .error c => .error c
      | .ok (.page pg va) => .ok (.window pg va)
      | .ok t => .ok t

/-- The key of n bytes of the s or c space, when they lie within the allocation (R183); no alignment is asked for. -/
def State.localAt (s : State) (sl space addr n : Nat) : Except Cause Nat :=
  let pk := packKey sl
  if space = 1 then
    if (s.pack pk).scratch < addr + n then .error ⟨0x16, 1, addr⟩ else .ok (scratchKey pk addr)
  else
    match (if 2 ^ 23 ≤ addr then none else s.clusterPack pk (addr / 2 ^ 20)) with
    | none => .error ⟨0x16, 2, addr⟩
    | some t => if (s.pack t).scratch < addr % 2 ^ 20 + n then .error ⟨0x16, 2, addr⟩ else .ok (scratchKey t (addr % 2 ^ 20))

/-- Key of a snapshot page. -/
def pageKey (asid va : Nat) : Nat := asid * 2 ^ 41 + va / 2 ^ 16
/-- A page of a snapshot region whose contents of the last step Sett has not yet copied: writes wait (R394). -/
def State.snapHeld (s : State) (asid va : Nat) : Bool := decide (Sparse.get 0 s.sett.pending (pageKey asid va) ≠ 0)
/-- The same, of the page that stands at a memory key. -/
def State.snapKey (s : State) (key : Nat) : Bool :=
  match Sparse.get 0 s.sett.frames (key / 2 ^ 16) with
  | 0 => false
  | p + 1 => decide (Sparse.get 0 s.sett.pending p ≠ 0)

/-- A STEP of the address space is between its freezes. -/
def State.freezing (s : State) (asid : Nat) : Bool := s.sun.active.any (fun a => decide (a.asid = asid) && (match a.work with
  | .step _ _ (some _) => true
  | _ => false))

/-- Sett is copying a page of a range of n bytes, or is about to (R394): the fault unit does not move it. -/
def State.snapBusy (s : State) (asid va n : Nat) : Bool :=
  s.freezing asid || (List.range (n / 65536)).any (fun i => s.snapHeld asid (va + 65536 * i))

/-- The second loop of R208 for a write to one lane's target: permission, lasting error, write-protect window. `field` is the INFO of the poison trap. -/
def State.writeTest (s : State) (sl field : Nat) (t : Target) : Except Cause Target :=
  let test := fun (pg : Page) (va : Nat) =>
    if !pg.w then Except.error (Cause.mk 0x0E 0 va)
    else if pg.poison then .error ⟨0x10, field, va⟩
    else if pg.wpw || s.snapHeld (s.packOf sl).asid va then .ok (.park va)
    else .ok t
  match t with
  | .page pg va => test pg va
  | .window pg va => test pg va
  | _ => .ok t

/-- The trap of a slice from the causes its lanes met: the cause of the lowest lane, and every lane that met that cause (R96, R208; DEDUCED, assumption log 12). -/
def causeTrap (cs : List (Nat × Cause)) : Option Trap :=
  match cs with
  | [] => none
  | (_, c) :: _ => some { code := c.code, info := c.info, addr := BitVec.ofNat 64 c.addr, lanes := laneMask ((cs.filter (fun x => decide (x.2.code = c.code))).map (fun x => x.1)) }

/-- A watchpoint a lane's access meets (R105): watchpoint number; kind 1 read, 2 write, 3 both. The match `quiet` is suppressed. -/
def Debug.watch (d : Debug) (quiet : Option (Nat × Nat)) (addr size kind : Nat) : Option Nat :=
  (List.range d.wps.length).find? (fun k =>
    let (base, len, m) := d.wps.getD k (0, 0, 0)
    decide (quiet ≠ some (0x0B, k)) && decide (m &&& kind ≠ 0) && decide (addr < base + len) && decide (base < addr + size))

/-- The watchpoint test of a slice over its lanes' accesses (R105, R208): lane and address, both in the access's own space. A watched address is compared with the offset of an s, c or l access as it stands (DESIGN CHOICE, assumption log 76). -/
def State.watchTrapAs (s : State) (quiet : Option (Nat × Nat)) (sl kind size : Nat) (addrs : List (Nat × Nat)) : Option Trap :=
  match (s.packOf sl).debug with
  | none => none
  | some d =>
    let hits := addrs.filterMap (fun a => (d.watch quiet a.2 size kind).map (fun k => (a.1, k, a.2)))
    match hits with
    | [] => none
    | (_, k, a) :: _ => some { code := 0x0B, info := k, addr := BitVec.ofNat 64 a, lanes := laneMask ((hits.filter (fun h => decide (h.2.1 = k))).map (fun h => h.1)) }

/-- The same for the issuing group: the match that stopped the slice is suppressed for the first group it executes (R105). -/
def State.watchTrap (s : State) (sl kind size : Nat) (addrs : List (Nat × Nat)) : Option Trap := s.watchTrapAs (s.slice sl).suppress sl kind size addrs

/-- The lane is performed now: it has not parked. -/
def Target.here (t : Target) : Bool := match t with
  | .park _ => false
  | _ => true

/-- Separate the lanes that fail from those that go on. -/
def splitCauses {α : Type} : List (Nat × Except Cause α) → List (Nat × Cause) × List (Nat × α)
  | [] => ([], [])
  | (l, .error c) :: r => ((l, c) :: (splitCauses r).1, (splitCauses r).2)
  | (l, .ok t) :: r => ((splitCauses r).1, (l, t) :: (splitCauses r).2)

/-- All tests of R208 for one slice: `lanes` are its active lanes with their addresses; a lane that parks meets its watchpoint test when it replays. Answers each lane's target, or the trap. -/
def State.testAccess (s : State) (sl space size winfo field kind : Nat) (write : Bool) (lanes : List (Nat × Nat)) : Except Trap (List (Nat × Nat × Target)) :=
  let r1 := splitCauses (lanes.map (fun a => (a.1, (s.accessAt a.1 sl a.1 space a.2 size winfo write).map (fun t => (a.2, t)))))
  match causeTrap r1.1 with
  | some t => .error t
  | none =>
    let r2 := splitCauses (r1.2.map (fun a => (a.1, (if write then s.writeTest sl field a.2.2 else .ok a.2.2).map (fun t => (a.2.1, t)))))
    match causeTrap r2.1 with
    | some t => .error t
    | none =>
      match s.watchTrap sl kind (max size 1) ((r2.2.filter (fun a => a.2.2.here)).map (fun a => (a.1, a.2.1))) with
      | some t => .error t
      | none => .ok r2.2

/-- The A and D updates of an access of a tenant through a page (R193), the translation that some TLBs now hold, and a used-up choice where they held another (R236). -/
def State.pageActsAs (s : State) (tlbs : List Nat) (asid : Nat) (write : Bool) (pg : Page) (va : Nat) : List Act :=
  let e := s.dword pg.at_
  let e1 := if flagOf e 11 then e else e + 2 ^ 11
  let e2 := if write && !flagOf e1 10 then e1 + 2 ^ 10 else e1
  (if e2 = e then [] else [.store pg.at_ (leBytes 8 e2) 0])
    ++ (if (s.staleTlb tlbs asid va).isSome then [.draw 4] else [.tlb tlbs ⟨asid, va / 2 ^ pageBits pg.level, pg.e, pg.level, pg.at_⟩])
/-- As pageActsAs, for a slice's tenant. -/
def State.pageActs (s : State) (sl : Nat) (write : Bool) (pg : Page) (va : Nat) : List Act := s.pageActsAs (s.tlbsOf sl) (s.packOf sl).asid write pg va

end Sys2Proof.Machine
end

