-- ==== Sys2Proof/Machine/Access.lean ====
section
/-! DEFINITION. Performing accesses: the bytes and registers of a load (R207), the coherence state of a line (R219 to R223), the core's store queue (R218), atomics (R246, R247), and the requests the memory instructions make. -/
namespace Sys2Proof.Machine

/-! ### Load data -/

/-- The words a load of width code w writes (R207). -/
def loadWords (w : Nat) (data : List Byte) : List Word :=
  match w with
  | 3 => [BitVec.ofNat 32 (leNat (data.take 4)), BitVec.ofNat 32 (leNat (data.drop 4))]
  | 4 => (List.range 4).map (fun k => BitVec.ofNat 32 (leNat ((data.drop (4 * k)).take 4)))
  | 5 => [(BitVec.ofNat 8 (leNat data)).signExtend 32]
  | 6 => [(BitVec.ofNat 16 (leNat data)).signExtend 32]
  | _ => [BitVec.ofNat 32 (leNat data)]

/-- The bytes a store of width code w takes from its registers (R207). -/
def storeBytes (w : Nat) (regs : List Word) : List Byte := (regs.flatMap (fun x => leBytes 4 x.toNat)).take (widthBytes w)

/-- A byte with this KEYID tag, read through a mapping, is undefined: it was written under another key (R205, R421). (DESIGN CHOICE, assumption log 51) -/
def State.otherKey (s : State) (tag keyid : Nat) : Bool := decide (tag ≠ 0) && decide (tag ≠ s.keyTag keyid)
/-- Bytes with their tags, as a mapping reads them from a key on (R205, R6). -/
def State.decrypt (s : State) (keyid key : Nat) (bs : List Byte) (tags : List Nat) : List Byte :=
  bs.zipIdx.map (fun b => if s.otherKey (tags.getD b.2 0) keyid then Config.undefByte (s.run.draws * 2 ^ 64 + s.run.ac) (key + b.2) else b.1)
/-- The tags of n bytes. -/
def State.tagsAt (s : State) (key n : Nat) : List Nat := (List.range n).map (fun i => Sparse.get 0 s.mem.keys (key + i))
/-- Bytes read through a mapping: a byte written under another KEYID is an undefined value (R205, R6). (DESIGN CHOICE, assumption log 51) -/
def State.bytesAs (s : State) (key n keyid : Nat) : List Byte := s.decrypt keyid key (s.bytes key n) (s.tagsAt key n)

/-- KEYID under which a line was written. (DESIGN CHOICE, assumption log 62) -/
def State.lineKeyid (s : State) (line : Nat) : Nat := (Sparse.get 0 s.mem.keys (line * 64) - 1) % 256

/-- Some byte of a range was written under another KEYID. (DESIGN CHOICE, assumption log 51) -/
def State.foreign (s : State) (key n keyid : Nat) : Bool := (s.tagsAt key n).any (fun t => s.otherKey t keyid)

/-- The uniform tag after a load's last write of some registers of a slice (R125): free when the live lanes are equal, else clear. -/
def State.loadTag (s : State) (sl : Nat) (last : Bool) (ws : List (Nat × Nat × Word)) : List Act :=
  let rs := (ws.map (fun w => w.2.1)).eraseDups
  let acts := rs.map (fun r =>
    let vals : List Word := (maskLanes (s.slice sl).live).map (fun l =>
      match ws.find? (fun w => decide (w.1 = l) && decide (w.2.1 = r)) with
      | some w => w.2.2
      | none => s.file (laneKey sl l) r)
    let same := vals.all (fun x => decide ((some x : Option Word) = vals.head?))
    (same, Act.untag sl r (!(same && last && decide (s.pick 0 2 = 1)))))
  acts.map (fun a => a.2) ++ (if last && acts.any (fun a => a.1) then [.draw 1] else [])

/-- Write loaded words (lane, first register, words, poison, address) of one slice into registers (R100). -/
def State.deliver (s : State) (sl : Nat) (last : Bool) (xs : List (Nat × List Nat × List Word × Bool × Nat)) : List Act :=
  let ws := xs.flatMap (fun x => (x.2.1.zip x.2.2.1).map (fun e => (x.1, e.1, e.2)))
  xs.flatMap (fun x => (x.2.1.zip x.2.2.1).map (fun e => .reg (laneKey sl x.1) e.1 e.2 x.2.2.2.1))
    ++ (match xs.find? (fun x => x.2.2.2.1) with
      | some x => [.slice sl (.origin (some (BitVec.ofNat 64 x.2.2.2.2)))]
      | none => [])
    ++ s.loadTag sl last ws

/-! ### Lease coherence (R219 to R221) -/

/-- The least time a home line of a die reads as (R225): its base, or the base before a sweep that is still running. -/
def State.timeFloor (s : State) (d : Nat) : Nat :=
  let x := s.die d
  if x.sweep = none then x.base else x.base - 2 ^ 18
/-- wts of a home line. -/
def State.wtsOf (s : State) (line : Nat) : Nat := max (Sparse.get 0 s.mem.wts line) (s.timeFloor (s.homeOf (line * 64)))
/-- rts of a home line. -/
def State.rtsOf (s : State) (line : Nat) : Nat := max (Sparse.get 0 s.mem.rts line) (s.timeFloor (s.homeOf (line * 64)))
/-- Key of a lease copy: agents 0 to 159 are L1s, 160 to 163 L2s. -/
def copyKey (agent line : Nat) : Nat := agent * 2 ^ 128 + line
/-- A lease copy. -/
def State.copy? (s : State) (agent line : Nat) : Option Copy := Sparse.get none s.coh.copies (copyKey agent line)
/-- A copy still serves loads of a core (R220): ck ≤ rts, and ck has ticked of its own accord, once for every 64 ac, at most Lease times since the copy was filled or renewed. (DESIGN CHOICE, assumption log 19) -/
def Copy.usable (c : Copy) (x : Core) : Bool := decide (c.wts ≤ c.rts) && decide (x.ck ≤ c.rts) && decide (x.tick / 64 ≤ c.fill / 64 + x.lease)
/-- ws of a write at a home (R221). -/
def State.wsFor (s : State) (line ck : Nat) : Nat := max ck (s.rtsOf line + 1)
/-- A timestamp the die of the line can store (R225). -/
def State.wsFits (s : State) (line ws : Nat) : Bool := decide (ws ≤ (s.die (s.homeOf (line * 64))).base + 2 ^ 20 - 1)

/-- Two byte ranges meet. -/
def overlaps (k1 n1 k2 n2 : Nat) : Bool := decide (k1 < k2 + n2) && decide (k2 < k1 + n1)

/-- A request that writes. -/
def Req.writes (r : Req) : Bool :=
  match r.kind with
  | .store => true
  | .atom _ _ _ => true
  | _ => false

/-- Requests of a core not yet performed that meet a byte range, oldest first. -/
def State.queuedAt (s : State) (core key n : Nat) : List (Nat × Req) :=
  s.reqs.filter (fun e => decide (e.2.core = core) && decide (e.2.state = .queued) && overlaps e.2.key e.2.size key n)

/-- The lease copy that serves a load of a core (R220): its L1's, else that of its die's L2 when the die is not the line's home. -/
def State.leaseCopy (s : State) (core line : Nat) : Option Copy :=
  let of := fun (agent : Nat) => (s.copy? agent line).filter (fun x => x.usable (s.core core))
  match of core with
  | some x => some x
  | none => if s.homeOf (line * 64) = dieOfCore core then none else of (160 + dieOfCore core)

/-- How a load issued by a core starts (R218, R220). The youngest queued write that meets it supplies the value when it is a store that covers it, and holds the load back otherwise; else a usable lease copy serves it; else it goes to the home. Stores a FENCE.SP window of another gang holds are not yet accepted (R229); device and strongly-ordered loads are performed at the home (R195). The second part is the request whose value was taken. -/
def State.startLoad (s : State) (sl core key n ty keyid : Nat) : ReqState × Option Nat :=
  if farBase ≤ key ∨ 2 ≤ ty then (.queued, none) else
  match ((s.queuedAt core key n).filter (fun e => !e.2.window || decide (s.gangKey e.2.slice = s.gangKey sl))).getLast? with
  | some (id, r) =>
    if r.kind = .store ∧ r.key ≤ key ∧ key + n ≤ r.key + r.size then
      (.served (s.decrypt keyid key ((r.data.drop (key - r.key)).take n) (List.replicate n (s.keyTag r.keyid))) 0 r.poison, some id)
    else (.queued, none)
  | none =>
    if ty ≠ 0 ∨ dspKey ≤ key then (.queued, none)
    else
      match s.leaseCopy core (lineOf key) with
      | some x => (.served (s.decrypt keyid key ((x.data.drop (key % 64)).take n) (x.tags.drop (key % 64))) x.wts x.psn, none)
      | none => (.queued, none)

/-- Fill the copies a served line leaves (R220): the L1's and, off its home die, the L2's; `psn` is the mark of its page (R206). -/
def State.fillActs (s : State) (core line ck wts : Nat) (l1 psn : Bool) : List Act :=
  let lease := (s.core core).lease
  let c : Copy := { data := s.bytes (line * 64) 64, wts := wts, rts := max ck wts + lease, fill := s.run.ac, snt := (s.die (s.homeOf (line * 64))).snt, psn := psn || s.marked line, tags := s.tagsAt (line * 64) 64 }
  (if l1 then [.copy (copyKey core line) (some c)] else [])
    ++ (if s.homeOf (line * 64) = dieOfCore core then [] else [.copy (copyKey (160 + dieOfCore core) line) (some c)])

/-- Bytes written over a line's, at the key they go to. -/
def overLine {α : Type} (line : Nat) (l : List α) (w : Nat × List α) : List α :=
  l.take (w.1 - line * 64) ++ w.2 ++ l.drop (w.1 - line * 64 + w.2.length)

/-- After a core's writes to a line with ws, each a key, a KEYID and bytes, its L1 copy holds the line as it now stands at the home, and its die's L2 no older copy of it (R216, R218, R221, R223). -/
def State.refreshCopy (s : State) (core line ws : Nat) (xs : List (Nat × Nat × List Byte)) : List Act :=
  (match s.copy? core line with
    | none => []
    | some c => [.copy (copyKey core line) (some { c with
        data := xs.foldl (fun l x => overLine line l (x.1, x.2.2)) (s.bytes (line * 64) 64)
        tags := xs.foldl (fun l x => overLine line l (x.1, List.replicate x.2.2.length (s.keyTag x.2.1))) (s.tagsAt (line * 64) 64)
        wts := ws, rts := ws })])
    ++ (if s.homeOf (line * 64) = dieOfCore core then [] else [.copy (copyKey (160 + dieOfCore core) line) none])

/-! ### Atomics (R246, R247) -/

/-- The 16-bit and 32-bit additions of R159: one RNE rounding, subnormals kept, canonical NaN. -/
def fpAdd (f : Fmt) (a b : Nat) : Nat := (f.addOp .rne false a b).1
/-- fmin and fmax of R247. -/
def fpPick (f : Fmt) (least : Bool) (a b : Nat) : Nat := (f.maxOp false least a b).1

/-- The value an atomic writes (R246): old, op and op2 as numbers of n bits. -/
def atomNew (aop aw n old op op2 : Nat) : Nat :=
  let m := 2 ^ n
  let si := fun (x : Nat) => if x < m / 2 then Int.ofNat x else Int.ofNat x - m
  let two := fun (f : Nat → Nat → Nat) => f (old % 2 ^ 16) (op % 2 ^ 16) + f (old / 2 ^ 16) (op / 2 ^ 16) * 2 ^ 16
  match aop with
  | 0 => if aw = 2 then fpAdd f32 old op else if aw = 3 then two (fpAdd bf16) else (old + op) % m
  | 1 => (old + m - op) % m
  | 2 => if si old ≤ si op then old else op
  | 3 => min old op
  | 4 => if si old ≥ si op then old else op
  | 5 => max old op
  | 6 => old &&& op
  | 7 => old ||| op
  | 8 => old ^^^ op
  | 9 => op
  | 10 => if old = op then op2 else old
  | 11 => if op ≤ old then 0 else old + 1
  | 12 => if old = 0 ∨ op < old then op else old - 1
  | 13 => if aw = 3 then two (fpPick bf16 true) else fpPick f32 true old op
  | _ => if aw = 3 then two (fpPick bf16 false) else fpPick f32 false old op

/-- The bytes an atomic writes over the old bytes. -/
def atomBytes (aop aw : Nat) (old op op2 : List Byte) : List Byte :=
  leBytes (awBytes aw) (atomNew aop aw (8 * awBytes aw) (leNat old) (leNat op) (leNat op2))

/-! ### Writes that the operand pipes may miss (R272, R286) -/

/-- A write that an MMA or MTLD of a slice may miss: no MFENCE before it covers it, and the slice had observed no release of it; `n` is the number of the next MMA when the instruction issued. -/
def Stale.visible (x : Stale) (sl n : Nat) : Bool :=
  decide (x.slice / 128 = sl / 128) && x.covered.all (fun c => decide (n < c)) && x.seen.all (fun y => decide (y.1 ≠ sl) || decide (n < y.2))
/-- The writes that meet a range which it may miss, newest first. -/
def State.missable (s : State) (sl n key len : Nat) : List Stale := s.mat.stale.filter (fun x => x.visible sl n && overlaps x.key x.old.length key len)
/-- One byte as it stands without the writes that the choice leaves out: bit i of `choice` leaves out the i-th, newest first. -/
def without (key : Nat) : List Stale → Nat → Byte → Byte
  | [], _, b => b
  | x :: xs, choice, b =>
    if x.key ≤ key ∧ key < x.key + x.old.length then
      (if choice % 2 = 1 then without key xs (choice / 2) (x.old.getD (key - x.key) 0) else b)
    else without key xs (choice / 2) b
/-- Bytes of one element: for each write that changed it and may be missed, the hardware reads it or not (R272). -/
def lacking (key : Nat) (xs : List Stale) (choice : Nat) (bs : List Byte) : List Byte := bs.zipIdx.map (fun b => without (key + b.2) xs choice b.1)

/-! ### Requests -/

/-- A request of one lane; fields of the instruction's point and of the page are filled in. -/
def State.mkReq (s : State) (c : Cur) (sl ln va key size : Nat) (kind : ReqKind) (st : ReqState) : Req :=
  { slice := sl, lane := ln, iid := c.iid, core := s.coreOf sl, kind := kind, state := st, va := va, key := key, size := size,
    ck := (s.core (s.coreOf sl)).ck, epoch := (s.slice sl).epoch, pkt := c.pkt, word := c.word, asid := (s.packOf sl).asid }

/-- The page's part of a request. -/
def Req.onPage (r : Req) (p : Page) : Req :=
  { r with ty := p.ty, tier := p.tier, keyid := p.keyid, persist := decide (p.tier = 1) && p.p, poison := p.poison, dev := p.frame % 2 ^ 20, hb := p.hb }

/-- The time at which a remote access issued now times out: T_F later on the wall clock (R3, R318). -/
def State.remoteDue (s : State) : Nat := s.run.time + s.fab.tf * usec

/-- Marked lines among n bytes that a consumer has met (R426). (DEDUCED, assumption log 65) -/
def State.suspectActs (s : State) (key n keyid : Nat) : List Act :=
  ((if s.marked (lineOf key) then [lineOf key] else []) ++ (if lineOf (key + n - 1) ≠ lineOf key ∧ s.marked (lineOf (key + n - 1)) then [lineOf (key + n - 1)] else [])).map (fun l => .suspect l keyid)

/-- A load served at its issue from a page marked POISON arrives marked (R100, R206). -/
def ReqState.marked (x : ReqState) (b : Bool) : ReqState :=
  match x with
  | .served data wts psn => .served data wts (psn || b)
  | y => y

/-- A g-space access to the backing of a resident pack's lane-private window leaves undefined values there (R186). (DESIGN CHOICE, assumption log 82) -/
def State.backingActs (s : State) (sl va key n : Nat) : List Act := if s.lpBacked (s.packOf sl).asid va then [.undefMem key n] else []

/-- A load of one lane through a global page (R208, R220). -/
def State.pageLoad (s : State) (c : Cur) (sl ln : Nat) (p : Page) (va size : Nat) (kind : ReqKind) (nt : Bool) : List Act :=
  let key := p.key va
  let (st, seen) := if s.lpBacked (s.packOf sl).asid va then (.queued, none) else s.startLoad sl (s.coreOf sl) key size p.ty p.keyid
  let r := { (s.mkReq c sl ln va key size kind (st.marked p.poison)).onPage p with nt := nt, due := if p.tier = 3 then some s.remoteDue else none }
  s.pageActs sl false p va ++ [.addReq r] ++ s.backingActs sl va key size
    ++ (match seen with
      | some id => (match s.req id with
        | some q => [.setReq id (some { q with seen := true })]
        | none => [])
      | none => [])

/-- A store of one lane through a global page: accepted by MEM, to be performed at its home (R209, R221); a write-combining store gathers in the core's buffer (R195). -/
def State.pageStore (s : State) (c : Cur) (sl ln : Nat) (p : Page) (va : Nat) (bs : List Byte) (nt : Bool) : List Act :=
  let r := { (s.mkReq c sl ln va (p.key va) bs.length .store .queued).onPage p with
    data := bs, nt := nt, held := if p.ty = 1 && p.tier ≤ 2 then some s.run.ac else none,
    window := s.ctl.windows.any (fun e => match e.2 with
      | some w => w.slices.contains sl
      | none => false),
    poison := false, due := if p.tier = 3 then some s.remoteDue else none }
  s.pageActs sl true p va ++ [.addReq r] ++ s.backingActs sl va (p.key va) bs.length

/-- A lane that parks keeps its operands (R211). -/
def State.parkReq (s : State) (c : Cur) (sl ln va size : Nat) (kind : ReqKind) (data op2 : List Byte) (field : Nat) (nt : Bool) : List Act :=
  [.addReq { s.mkReq c sl ln va 0 size kind .parked with data := data, op2 := op2, field := field, nt := nt, quiet := (s.slice sl).suppress }]

/-- The lookahead window an instruction opens (R35). (DESIGN CHOICE, assumption log 21) -/
def lookActs (c : Cur) (v : View) (sl : Nat) : List Act := if v.la < 15 then [.slice sl (.look c.iid (v.la + 1))] else []

/-- Poison of bytes of a scratchpad or lane-private word (R100, R101). -/
def State.localPsn (s : State) (key n : Nat) : Bool :=
  s.markedAt key n || (List.range ((n + 3) / 4)).any (fun i => Sparse.get false s.mem.wmarks (key / 4 + i))

/-- A store to scratchpad or to a lane-private window: at once, and a poison bit SPILL left there goes. -/
def localStore (key keyid : Nat) (bs : List Byte) : List Act :=
  .store key bs keyid :: (List.range ((bs.length + 3) / 4)).map (fun i => .wmark (key / 4 + i) false)

/-- A store through a lane-private window (R186): at once, in its tier an ordinary write of its line or a persist-write of the slice (R197, R237). -/
def State.windowStore (s : State) (sl : Nat) (p : Page) (va : Nat) (bs : List Byte) : List Act :=
  let key := p.key va
  localStore key p.keyid bs ++ (if (List.range bs.length).any (fun i => Sparse.get false s.mem.undef (key + i)) then [.undefMem key bs.length] else [])
    ++ (if p.tier = 1 && p.p then
        [.addPersist { slices := [(sl, (s.slice sl).epoch)], line := lineOf key, cells := bs.zipIdx.map (fun b => (key % 64 + b.2, b.1)), mark := s.marked (lineOf key), die := dieOfCore (s.coreOf sl) }]
      else if !p.hb && decide (key < hostBase) then [.dirty (lineOf key) true] else [])

/-! ### Instructions that park as a whole (R27, R83, R84, R89, R90) -/

/-- BranchTargetOK: a multiple of 12 within 57 bits. -/
def targetOk (t : Nat) : Bool := decide (t % 12 = 0) && decide (t < 2 ^ 57)
/-- The branch-target trap (R82). The spec does not name the lanes of TRAPLANES: here they are those given (DESIGN CHOICE, assumption log 77). -/
def targetTrap (t : Nat) (ls : List Nat) : Trap := { code := 0x05, addr := BitVec.ofNat 64 t, lanes := laneMask ls }

/-- Bytes of one access of such an instruction (R83, R84, R89). -/
def Whole.unit : Whole → Nat
  | .push _ _ => 8
  | .pop _ _ => 8
  | _ => 4
/-- It writes its window. -/
def Whole.writes : Whole → Bool
  | .spill _ _ => true
  | .push _ _ => true
  | _ => false
/-- SPTOP after it. -/
def Whole.top : Whole → Nat
  | .spill t _ => t
  | .fill t _ => t
  | .push t _ => t
  | .pop t _ => t

/-- The pages of n accesses of a lane's window from offset o upwards: the first failing one's cause, none when one of them parks. -/
def State.blockPages (s : State) (sl ln unit : Nat) (write : Bool) (field : Nat) : Nat → Nat → Except Cause (Option (List (Page × Nat)))
  | 0, _ => .ok (some [])
  | n + 1, o =>
    match s.accessAt ln sl ln 3 o unit 0 write with
    | .error e => .error e
    | .ok t =>
      match (if write then s.writeTest sl field t else .ok t) with
      | .error e => .error e
      | .ok t =>
        match State.blockPages s sl ln unit write field n (o + unit) with
        | .error e => .error e
        | .ok rest =>
          match t, rest with
          | .window p va, some l => .ok (some ((p, va) :: l))
          | _, _ => .ok none

/-- The offset of a request in its lane's window. -/
def State.offsetOf (s : State) (r : Req) : Nat := r.va - s.lpVa r.slice r.lane 0
/-- What a request that parks as a whole does. -/
def Req.whole (r : Req) : Whole := match r.kind with
  | .again w => w
  | _ => .fill 0 []

/-- The tests of a slice's lanes of such an instruction (R89, R105, R208): each lane's pages, none when the instruction parks, or the trap. The doubleword of CALL, CALLR and RET counts as an access of a guarded lane (DEDUCED, assumption log 89). -/
def State.wholeTest (s : State) (rs : List Req) : Except Trap (Option (List (Req × List (Page × Nat)))) :=
  let ts := splitCauses (rs.map (fun r => (r.lane, (s.blockPages r.slice r.lane r.whole.unit r.whole.writes r.field (r.size / r.whole.unit) (s.offsetOf r)).map (fun ps => (r, ps)))))
  match causeTrap ts.1 with
  | some t => .error t
  | none =>
    if ts.2.any (fun x => decide (x.2.2 = none)) then .ok none
    else
      match rs with
      | [] => .ok (some [])
      | r :: _ =>
        match s.watchTrapAs r.quiet r.slice (if r.whole.writes then 2 else 1) r.size (rs.map (fun q => (q.lane, s.offsetOf q))) with
        | some t => .error t
        | none => .ok (some (ts.2.map (fun x => (x.2.1, x.2.2.getD []))))

/-- What one lane of it writes: its window for SPILL, CALL and CALLR. -/
def State.wholeStores (s : State) (sl : Nat) (x : Req × List (Page × Nat)) : List Act :=
  match x.1.whole with
  | .spill _ psn => x.2.zipIdx.flatMap (fun p =>
      s.windowStore sl p.1.1 p.1.2 ((x.1.data.drop (4 * p.2)).take 4) ++ [.wmark (p.1.1.key p.1.2 / 4) (psn.getD p.2 false)])
  | .push _ _ => x.2.flatMap (fun p => s.windowStore sl p.1 p.2 x.1.data)
  | _ => []

/-- The words one lane of a FILL loads: register, page and address. -/
def wholeWords (x : Req × List (Page × Nat)) : List (Nat × Nat × Page × Nat) :=
  match x.1.whole with
  | .fill _ regs => (regs.zip x.2).map (fun p => (x.1.lane, p.1, p.2))
  | _ => []

/-- What such an instruction does in a slice whose lanes' pages are there. A return doubleword in a line marked poisoned is jumped to as it was read (DESIGN CHOICE, assumption log 78). -/
def State.wholeRun (s : State) (sl : Nat) (xs : List (Req × List (Page × Nat))) : Res :=
  match xs with
  | [] => .ok []
  | (r, ps) :: _ =>
    let pages := xs.flatMap (fun x => x.2.flatMap (fun p => s.pageActs sl r.whole.writes p.1 p.2))
    let words := xs.flatMap wholeWords
    let cell := fun (p : Page) (va : Nat) => s.bytesAs (p.key va) r.whole.unit p.keyid
    let acts := pages ++ xs.flatMap (s.wholeStores sl)
      ++ (if words = [] then [] else s.deliver sl true (words.map (fun y =>
        (y.1, [y.2.1], [BitVec.ofNat 32 (leNat (cell y.2.2.1 y.2.2.2))], y.2.2.1.poison || s.localPsn (y.2.2.1.key y.2.2.2) 4, y.2.2.2))))
      ++ words.flatMap (fun y => s.suspectActs (y.2.2.1.key y.2.2.2) 4 y.2.2.1.keyid)
      ++ [.slice sl (.sptop r.whole.top)]
    match r.whole, ps with
    | .push _ target, _ => .ok (acts ++ [.slice sl (.jump target)])
    | .pop _ lanes, p :: _ =>
      let t := leNat (cell p.1 p.2)
      if targetOk t then .ok (acts ++ [.slice sl (.jump t)]) else .error (targetTrap t (maskLanes lanes))
    | _, _ => .ok acts

/-- An instruction that parks as a whole, in one slice of its split: `plan` gives each slice's trap or lanes. When some slice's page is not there, the split's slices park and the instruction replays as a whole, with the values it read at issue (R27, R90). -/
def State.wholeIssue (s : State) (c : Cur) (plan : Nat → Except Trap (List Req)) (sl : Nat) : Res :=
  let test := fun (x : Nat) => match plan x with
    | .error t => Except.error t
    | .ok rs => s.wholeTest rs
  match plan sl, test sl with
  | .error t, _ => .error t
  | _, .error t => .error t
  | .ok rs, .ok r =>
    if c.slices.any (fun x => match test x with
      | .ok none => true
      | _ => false) then .ok (rs.map .addReq)
    else s.wholeRun sl (r.getD [])

/-- The registers operand D names in a lane. -/
def State.dRegs (s : State) (v : View) (sl ln : Nat) : List Nat :=
  let r := s.regOf sl ln v.d v.form.d.regs
  (List.range v.form.d.regs).map (fun k => r + k)

/-- The values of operand D's registers in a lane. -/
def State.dVals (s : State) (v : View) (sl ln : Nat) : List Word := (s.dRegs v sl ln).map (fun r => s.readReg v.bypass sl ln r)

/-- The addresses of a slice's active lanes (R183). -/
def State.addrs (s : State) (v : View) (sl space : Nat) (ls : List Nat) : List (Nat × Nat) :=
  ls.map (fun l => (l, addressOf space (s.valA v sl l) (extOffset s.ext)))

end Sys2Proof.Machine
end

