-- ==== Sys2Proof/Machine/Barrier.lean ====
section
/-! DEFINITION. Barrier registers, group barriers and arrival words (10_sync R250 to R259). -/
namespace Sys2Proof.Machine

/-- Key of a barrier register. -/
def barKey (p b : Nat) : Nat := p * 16 + b

/-- One arrival (R251): CNT counts up, and the phase completes when it reaches EXP. -/
def Bar.arrive (b : Bar) : Bar :=
  if b.cnt + 1 ≥ b.exp then { b with cnt := 0, phase := (b.phase + 1) % 256 } else { b with cnt := b.cnt + 1 }
/-- The whole register (R250). -/
def Bar.word (b : Bar) : Word := BitVec.ofNat 32 (b.phase * 2 ^ 24 + b.cnt * 2 ^ 12 + b.exp)

/-- A barrier index at or above the kernel's count takes the illegal-instruction trap (R250). -/
def State.barTest (s : State) (v : View) (sl : Nat) (body : Unit → Res) : Res :=
  if (s.packOf sl).barriers ≤ v.b then .error (s.illegal sl v.op) else body ()

/-- The actions of a release at a scope (R215, R227) when its waits are over: the clock, and from pk on the slice's earlier writes count as seen by the operand pipes (R272, assumption log 14). -/
def State.releaseActs (s : State) (sl scope : Nat) : List Act :=
  (if 2 ≤ scope then [.raiseCk (s.coreOf sl) (s.slice sl).maxws, .slice sl .clearMaxws] else []) ++ (if 1 ≤ scope then [.freshSlice sl] else [])
    ++ (if 5 ≤ scope then [.slice sl (.podRel true)] else [])

/-- n factorial. -/
def orders : Nat → Nat
  | 0 => 1
  | n + 1 => (n + 1) * orders n
/-- The k-th order of the first n of some things. -/
def permute {α : Type} : Nat → Nat → List α → List α
  | 0, _, _ => []
  | n + 1, k, l =>
    match l[k % l.length]? with
    | none => []
    | some x => x :: permute n (k / l.length) (l.eraseIdx (k % l.length))

/-- The slices of the split that arrive, in an order the hardware chooses (R251): a slice that a test of R96 traps does not arrive. (DESIGN CHOICE, assumption log 1) -/
def State.arriving (s : State) (c : Cur) (v : View) : List Nat :=
  let ls := c.slices.filter (fun sl => !(decide (s.activeLanes sl v.pg = []) || decide ((s.packOf sl).barriers ≤ v.b) || (s.operandTrap v s.ext sl (s.activeLanes sl v.pg)).isSome))
  permute ls.length (s.pick 4 (orders ls.length)) ls

/-- The arrivals of the split, with the barrier as each finds it, and the register after all of them (R251: they are counted one at a time). -/
def State.arrivals (s : State) (c : Cur) (v : View) : List (Nat × Bar) × Bar :=
  (s.arriving c v).foldl (fun (acc : List (Nat × Bar) × Bar) sl => (acc.1 ++ [(sl, acc.2)], acc.2.arrive)) ([], s.bar (barKey (packKey (c.slices.headD 0)) v.b))

/-- The phase a slice's arrival found. -/
def phaseAt (xs : List (Nat × Bar)) (sl : Nat) : Nat := ((xs.find? (fun e => decide (e.1 = sl))).map (fun e => e.2.phase)).getD 0

/-- The barrier register after the arrivals of an instruction, and the choice of their order used up. -/
def arriveEffs (c : Cur) (v : View) (xs : List (Nat × Bar)) (b : Bar) : List Eff :=
  if xs = [] then [] else (none, .bar (barKey (packKey (c.slices.headD 0)) v.b) b) :: (if xs.length < 2 then [] else [(none, .draw 5)])

/-- BARA (R253). Arrives once for each slice with an active lane; each active lane receives the phase of the arrival. -/
def execBara (f : RF) (s : State) : Host.Outcome State Fault Refusal :=
  issueAll (.bara f) s (fun c v =>
    let r := s.arrivals c v
    sliceEffs c v (fun sl => s.barTest v sl (fun _ =>
      let ls := s.activeLanes sl v.pg
      s.tested v sl ls (fun _ => .ok ((if ls = [] then [] else s.releaseActs sl 1) ++ s.putD v sl ls (fun _ => BitVec.ofNat 32 (phaseAt r.1 sl))))))
      ++ arriveEffs c v r.1 r.2)

/-- What a slice does that a barrier's phase lets go on (R252): it acquires at pk, and a wait that a copy's arrival ended raises ck to its Tc (R233). -/
def State.barGo (s : State) (sl b : Nat) : List Act := [.raiseCk (s.coreOf sl) (s.tcOf (packKey sl * 16 + b)), .observe sl]

/-- BARW (R254). Waits while PHASE equals A[7:0] of the lowest active lane, then acquires at pk. -/
def execBarw (f : RF) (s : State) : Host.Outcome State Fault Refusal :=
  issue (.barw f) s (fun _ v sl => s.barTest v sl (fun _ =>
    match s.activeLanes sl v.pg with
    | [] => .ok []
    | l :: ls => s.testedOne v sl l (l :: ls) (fun _ =>
      let ph := (s.valA v sl l).toNat % 256
      if (s.bar (barKey (packKey sl) v.b)).phase = ph then .ok [.slice sl (.status (.barrier v.b ph))] else .ok (s.barGo sl v.b))))

/-- BARAW (R253). Arrives, then waits while PHASE equals the phase at the arrival. -/
def execBaraw (f : RF) (s : State) : Host.Outcome State Fault Refusal :=
  issueAll (.baraw f) s (fun c v =>
    let r := s.arrivals c v
    sliceEffs c v (fun sl => s.barTest v sl (fun _ =>
      if s.activeLanes sl v.pg = [] then .ok []
      else .ok (s.releaseActs sl 1 ++ (if r.2.phase = phaseAt r.1 sl then [.slice sl (.status (.barrier v.b (phaseAt r.1 sl)))] else s.barGo sl v.b))))
      ++ arriveEffs c v r.1 r.2)

/-- BARINIT (R254). Sets EXP from the lowest active lane; a count of 0 or above 4,095 takes the illegal-instruction trap, and CNT at or above the new EXP completes the phase. -/
def execBarinit (f : RF) (s : State) : Host.Outcome State Fault Refusal :=
  issueAll (.barinit f) s (fun c v =>
    let val := fun (sl : Nat) => ((s.activeLanes sl v.pg).head?.filter (fun l => (s.operandTrapIn v s.ext sl (s.activeLanes sl v.pg) [l]).isNone)).map (fun l => (s.valA v sl l).toNat % 2 ^ 32)
    let okVal := fun (n : Nat) => decide (1 ≤ n) && decide (n < 2 ^ 12)
    let b := c.slices.foldl (fun (b : Bar) sl =>
      match val sl with
      | some n => if okVal n && decide (v.b < (s.packOf sl).barriers) then
          let b' := { b with exp := n }
          if n ≤ b'.cnt then { b' with cnt := 0, phase := (b'.phase + 1) % 256 } else b'
        else b
      | none => b) (s.bar (barKey (packKey (c.slices.headD 0)) v.b))
    sliceEffs c v (fun sl => s.barTest v sl (fun _ =>
      match s.activeLanes sl v.pg with
      | [] => .ok []
      | l :: ls => s.testedOne v sl l (l :: ls) (fun _ =>
        if okVal ((val sl).getD 0) then .ok [] else .error { s.illegal sl v.op with lanes := laneMask (l :: ls) })))
      ++ [(none, .bar (barKey (packKey (c.slices.headD 0)) v.b) b)])

/-- BARQ (R253). Reads the barrier register. -/
def execBarq (f : RF) (s : State) : Host.Outcome State Fault Refusal :=
  issue (.barq f) s (fun _ v sl => s.barTest v sl (fun _ =>
    let ls := s.activeLanes sl v.pg
    s.tested v sl ls (fun _ => .ok (s.putD v sl ls (fun _ => (s.bar (barKey (packKey sl) v.b)).word)))))

/-- The clock action of an acquire at a scope (R215, R227), and the stale host copies a sys-scope one drops (R232). -/
def State.acquireActs (s : State) (sl scope : Nat) : List Act :=
  let core := s.coreOf sl
  (if 2 ≤ scope then [.raiseCk core (s.core core).obsv] else []) ++ (if 1 ≤ scope then [.observe sl] else [])
    ++ (if scope = 6 then
      (s.coh.copies.filter (fun e => decide (e.1 / 2 ^ 128 = core) && (match e.2 with
        | some c =>
          let key := e.1 % 2 ^ 128 * 64
          ((decide (hostBase ≤ key) && decide (key < dspKey)) || Sparse.get false s.maps.hostBias (key / 2 ^ 21)) && decide (c.snt < (s.die (s.homeOf key)).snt)
        | none => false))).map (fun e => .copy e.1 none) else [])

/-- GBAR (R257). Releases at dev, arrives at a group of the pack and waits for the group's phase; an illegal group number takes the illegal-instruction trap (R256). -/
def execGbar (f : RF) (s : State) : Host.Outcome State Fault Refusal :=
  issue (.gbar f) s (fun _ v sl =>
    match s.activeLanes sl v.pg with
    | [] => .ok []
    | l :: ls => s.testedOne v sl l (l :: ls) (fun _ =>
      let g := (s.valA v sl l).toNat % 2 ^ 32
      let p := s.packOf sl
      if p.groupEntries ≤ g ∨ !p.groups.contains g then .error { s.illegal sl 0x2C with lanes := laneMask (l :: ls) }
      else .ok (s.releaseActs sl 4 ++ [.slice sl (.status (.group g (s.groupPhase p.launch g)))])))

/-- The arrival word of index i (R258): its key, when it lies in the pack's allocation. -/
def State.arrvKey (s : State) (p i : Nat) : Option Nat :=
  let k := s.pack p
  if k.scratch < k.arrvBase + 8 * i + 8 then none else some (scratchKey p (k.arrvBase + 8 * i))

/-- The indices of some lanes that lie outside the allocation take the scratchpad-bounds trap (R258). -/
def State.arrvTest (s : State) (v : View) (sl : Nat) (ls : List Nat) (body : Unit → Res) : Res :=
  let idx := fun (l : Nat) => (s.valA v sl l).toNat % 2 ^ 16
  let bad := ls.filter (fun l => s.arrvKey (packKey sl) (idx l) = none)
  match bad with
  | [] => body ()
  | l :: _ => .error { code := 0x16, info := 1, addr := BitVec.ofNat 64 ((s.packOf sl).arrvBase + 8 * idx l), lanes := laneMask bad }

/-- The key of the arrival word a lane names. -/
def State.laneWord (s : State) (v : View) (sl l : Nat) : Nat := (s.arrvKey (packKey sl) ((s.valA v sl l).toNat % 2 ^ 16)).getD 0

/-- INIT and ADD refuse a nonzero B[31:24] (R259). -/
def State.amountTest (s : State) (v : View) (sl : Nat) (ls : List Nat) (body : Unit → Res) : Res :=
  let bad := ls.filter (fun l => decide (2 ^ 24 ≤ (s.valB v s.ext sl l).toNat % 2 ^ 32))
  if bad = [] then body () else .error { s.illegal sl v.op with lanes := laneMask bad }

/-- ARRV.INIT (R259). TARGET := B[23:0], COUNT := 0, GEN kept. -/
def execArrvInit (f : RF) (s : State) : Host.Outcome State Fault Refusal :=
  issue (.arrvInit f) s (fun _ v sl =>
    let ls := s.activeLanes sl v.pg
    s.tested v sl ls (fun _ => s.amountTest v sl ls (fun _ => s.arrvTest v sl ls (fun _ =>
      .ok (ls.map (fun l => .store (s.laneWord v sl l) (leBytes 8 ((s.valB v s.ext sl l).toNat % 2 ^ 24 * 2 ^ 40 + s.dword (s.laneWord v sl l) % 2 ^ 16)) 0))))))

/-- ARRV.ADD (R259). Releases at pk, then raises the word once for each active lane, lanes ascending. -/
def execArrvAdd (f : RF) (s : State) : Host.Outcome State Fault Refusal :=
  issue (.arrvAdd f) s (fun _ v sl =>
    let ls := s.activeLanes sl v.pg
    s.tested v sl ls (fun _ => s.amountTest v sl ls (fun _ => s.arrvTest v sl ls (fun _ =>
      .ok (s.releaseActs sl 1 ++ ls.map (fun l => .raise (s.laneWord v sl l) ((s.valB v s.ext sl l).toNat % 2 ^ 24)))))))

/-- A lane's wait condition of AWAIT: lane, word key, generation (R259). -/
def State.awaitLanes (s : State) (v : View) (sl : Nat) (ls : List Nat) : List (Nat × Nat × Nat) :=
  ls.map (fun l => (l, s.laneWord v sl l, (s.valB v s.ext sl l).toNat % 2 ^ 16))

/-- Some lane's word still holds its generation. -/
def State.awaitHeld (s : State) (xs : List (Nat × Nat × Nat)) : Bool := xs.any (fun x => decide (s.dword x.2.1 % 2 ^ 16 = x.2.2))

/-- What a slice does whose words have all moved on (R258, R259): it acquires at pk and raises ck to the Tc of the copies and fabric data behind the raises (R233). -/
def State.awaitGo (s : State) (sl : Nat) (xs : List (Nat × Nat × Nat)) : List Act := [.raiseCk (s.coreOf sl) (maxOf (xs.map (fun x => s.tcOf (2 ^ 60 + x.2.1)))), .observe sl]

/-- AWAIT (R259). Waits while the generation of some active lane's word equals B[15:0], then acquires at pk. -/
def execAwait (f : RF) (s : State) : Host.Outcome State Fault Refusal :=
  issue (.await f) s (fun _ v sl =>
    let ls := s.activeLanes sl v.pg
    s.tested v sl ls (fun _ => s.arrvTest v sl ls (fun _ =>
      let xs := s.awaitLanes v sl ls
      if s.awaitHeld xs then .ok [.slice sl (.status (.await xs none []))] else .ok (s.awaitGo sl xs))))

/-- AWAIT.T (R259). As AWAIT with a timeout in ac from vD of the lowest active lane; a release before the timeout writes 1 in every active lane. -/
def execAwaitT (f : RF) (s : State) : Host.Outcome State Fault Refusal :=
  issue (.awaitT f) s (fun _ v sl =>
    let ls := s.activeLanes sl v.pg
    s.tested v sl ls (fun _ => s.arrvTest v sl ls (fun _ =>
      let xs := s.awaitLanes v sl ls
      let dst := ls.map (fun l => (l, s.regOf sl l v.d 1))
      match ls with
      | [] => .ok []
      | l :: _ =>
        if s.awaitHeld xs then .ok [.slice sl (.status (.await xs (some (s.run.ac + (s.valD v sl l).toNat % 2 ^ 32)) dst))]
        else .ok (s.awaitGo sl xs ++ s.putD v sl ls (fun _ => 1)))))

/-- ARRV.RD (R259). Writes the arrival word into a register pair. -/
def execArrvRd (f : RF) (s : State) : Host.Outcome State Fault Refusal :=
  issue (.arrvRd f) s (fun _ v sl =>
    let ls := s.activeLanes sl v.pg
    s.tested v sl ls (fun _ => s.arrvTest v sl ls (fun _ =>
      .ok (fileWrites sl (ls.flatMap (fun l =>
        let w := s.dword (s.laneWord v sl l)
        let r := s.regOf sl l v.d 2
        [(l, r, BitVec.ofNat 32 w), (l, r + 1, BitVec.ofNat 32 (w / 2 ^ 32))]))))))

/-- BARRIER_WAKE (R254). A slice whose awaited phase has moved on becomes ready and acquires at pk; a wait that a copy's arrival released raises ck to its Tc (R233, R252). -/
def execBarrierWake (sl : Nat) (s : State) : Host.Outcome State Fault Refusal :=
  match (s.slice sl).status with
  | .barrier b ph =>
    if (s.bar (barKey (packKey sl) b)).phase = ph then event s []
    else event s (.slice sl (.status .run) :: s.barGo sl b)
  | _ => event s []

/-- Every live, not exited slice of a pack waits at group g in phase ph (R255). -/
def State.packAt (s : State) (p g ph : Nat) : Bool :=
  let ls := (s.slicesOf p).filter (fun x => !(s.slice x).gone)
  ls.all (fun x => decide ((s.slice x).status = .group g ph))

/-- The packs of a launch that belong to group g and have not ended. -/
def State.members (s : State) (launch g : Nat) : List Nat :=
  (s.ctl.packs.filter (fun e => decide (e.2.launch = launch) && e.2.groups.contains g
    && (s.slicesOf e.1).any (fun x => !(s.slice x).gone))).map (fun e => e.1)

/-- GROUP_PHASE_COMPLETE (R255). When every member pack that has not exited has arrived, every waiting slice is released and acquires at dev. -/
def execGroupPhaseComplete (launch g : Nat) (s : State) : Host.Outcome State Fault Refusal :=
  let ph := s.groupPhase launch g
  let ps := s.members launch g
  if ps ≠ [] ∧ ps.all (fun p => s.packAt p g ph) then
    event s (.groupPhase launch g (ph + 1) :: ps.flatMap (fun p => ((s.slicesOf p).filter (fun x => decide ((s.slice x).status = .group g ph))).flatMap
      (fun x => .slice x (.status .run) :: s.acquireActs x 4)))
  else event s []

/-- AWAIT_WAKE (R259). No lane's word holds its generation any longer: the slice acquires at pk and goes on; AWAIT.T writes 1. -/
def execAwaitWake (sl : Nat) (s : State) : Host.Outcome State Fault Refusal :=
  match (s.slice sl).status with
  | .await xs _ dst =>
    if s.awaitHeld xs then event s []
    else event s (.slice sl (.status .run) :: s.awaitGo sl xs ++ fileWrites sl (dst.map (fun d => (d.1, d.2, 1))))
  | _ => event s []

/-- AWAIT_TIMEOUT (R259). The timeout lapses: the slice goes on without the acquire; each lane receives 0 when its own word still holds its generation, else 1. -/
def execAwaitTimeout (sl : Nat) (s : State) : Host.Outcome State Fault Refusal :=
  match (s.slice sl).status with
  | .await xs (some t) dst =>
    if s.run.ac < t ∨ !s.awaitHeld xs then event s []
    else
      let val := fun (l : Nat) => if xs.any (fun x => decide (x.1 = l) && decide (s.dword x.2.1 % 2 ^ 16 = x.2.2)) then (0 : Word) else 1
      event s (.slice sl (.status .run) :: fileWrites sl (dst.map (fun d => (d.1, d.2, val d.1))))
  | _ => event s []

end Sys2Proof.Machine
end

