-- ==== Sys2Proof/Machine/Atomic.lean ====
section
/-! DEFINITION. ATOM.g, ATOM.s, ATOM.c, RED.g (10_sync R243 to R249) and LDFE, STFE (R260, R261). -/
namespace Sys2Proof.Machine

/-- The operand bytes of an atomic in a lane: op (or cmp), and op2 of cas (R248). -/
def State.atomOps (s : State) (v : View) (sl ln : Nat) : List Byte × List Byte :=
  let bs := (s.dVals v sl ln).flatMap (fun w => leBytes 4 w.toNat)
  let n := awBytes (v.b % 4)
  (bs.take n, (bs.drop n).take n)

/-- On a TYPE 1 page the combining buffer first drains the slice's stores to the line of an atomic (R243). -/
def State.drainLine (s : State) (sl : Nat) (p : Page) (va : Nat) : List Act :=
  if p.ty = 1 then
    (s.reqs.filter (fun e => decide (e.2.slice = sl) && decide (e.2.held ≠ none) && !e.2.window && decide (lineOf e.2.key = lineOf (p.key va)))).map (fun e => .setReq e.1 (some { e.2 with held := none }))
  else []

/-- An atomic or reduction of one slice (R248): the tests of R208 and R248, then one request for each lane; a run of one instruction's lanes is performed together at the performing point (R245). -/
def State.atomSlice (s : State) (c : Cur) (v : View) (space : Nat) (red : Bool) (sl : Nat) : Res :=
  let ls := s.activeLanes sl v.pg
  let aop := v.b / 4
  let aw := v.b % 4
  let size := awBytes aw
  s.tested v sl ls (fun _ =>
    match s.testAccess sl space size (if size = 8 then 3 else 2) v.d 3 true (s.addrs v sl space ls) with
    | .error t => .error t
    | .ok ts =>
      .ok (ts.flatMap (fun t =>
        let ops := s.atomOps v sl t.1
        let dst := if red then [] else (s.dRegs v sl t.1).take (awRegs aw)
        let kind := ReqKind.atom aop aw dst
        let mk := fun (va key tier : Nat) => { s.mkReq c sl t.1 va key size kind .queued with data := ops.1, op2 := ops.2, tier := tier, field := v.d }
        match t.2.2 with
        | .scratch key => [.addReq (mk t.2.1 key 5)]
        | .dsp key => [.addReq (mk t.2.1 key 4)]
        | .page p va =>
          s.pageActs sl true p va ++ s.drainLine sl p va ++ [.addReq { (mk va (p.key va) 0).onPage p with due := if p.tier = 3 then some s.remoteDue else none }]
            ++ s.backingActs sl va (p.key va) size
        | .park va => s.parkReq c sl t.1 va size kind ops.1 ops.2 v.d false
        | .window _ _ => []) ++ lookActs c v sl))

/-- ATOM.g (R248). Atomic on global memory: each active lane receives the old value in D. -/
def execAtomG (f : XF) (s : State) : Host.Outcome State Fault Refusal := issue (.atomG f) s (fun c v => s.atomSlice c v 0 false)
/-- ATOM.s (R248). Atomic on the pack's scratchpad. -/
def execAtomS (f : XF) (s : State) : Host.Outcome State Fault Refusal := issue (.atomS f) s (fun c v => s.atomSlice c v 1 false)
/-- ATOM.c (R248). Atomic on a scratchpad of the cluster set. -/
def execAtomC (f : XF) (s : State) : Host.Outcome State Fault Refusal := issue (.atomC f) s (fun c v => s.atomSlice c v 2 false)
/-- RED.g (R248). Reduction on global memory, without a returned value. -/
def execRedG (f : XF) (s : State) : Host.Outcome State Fault Refusal := issue (.redG f) s (fun c v => s.atomSlice c v 0 true)

/-- LDFE (R261). Waits in each active lane until the word is full, loads it and leaves it empty; the lanes queue at the scratchpad in gang lane order. -/
def execLdfe (f : XF) (s : State) : Host.Outcome State Fault Refusal :=
  issue (.ldfe f) s (fun c v sl =>
    let ls := s.activeLanes sl v.pg
    let w := v.b / 8
    let size := widthBytes w
    s.tested v sl ls (fun _ =>
      match s.testAccess sl (v.b % 8) size w v.d 1 false (s.addrs v sl (v.b % 8) ls) with
      | .error t => .error t
      | .ok ts =>
        .ok (ts.flatMap (fun t => match t.2.2 with
          | .scratch key => [.addReq { s.mkReq c sl t.1 t.2.1 key size (.ldfe (s.dRegs v sl t.1)) .queued with tier := 5, nt := decide (v.b % 8 = 2) }]
          | _ => []) ++ lookActs c v sl)))

/-- STFE (R261). Releases at pk (cl in the c space), stores the word and leaves it full; it never waits for the word. -/
def execStfe (f : XF) (s : State) : Host.Outcome State Fault Refusal :=
  issue (.stfe f) s (fun c v sl =>
    let ls := s.activeLanes sl v.pg
    let w := v.b / 8
    let size := widthBytes w
    s.tested v sl ls (fun _ =>
      match s.testAccess sl (v.b % 8) size w v.d 2 true (s.addrs v sl (v.b % 8) ls) with
      | .error t => .error t
      | .ok ts =>
        .ok ((if ls = [] then [] else s.releaseActs sl (if v.b % 8 = 2 then 2 else 1))
          ++ ts.flatMap (fun t => match t.2.2 with
            | .scratch key => .stale { slice := sl, key := key, old := s.bytes key size } :: localStore key 0 (storeBytes w (s.dVals v sl t.1)) ++ (List.range (size / 4)).map (fun i => .full (key / 4 + i) true)
            | _ => []) ++ lookActs c v sl)))

end Sys2Proof.Machine
end

