-- ==== Sys2Proof/Machine/Control.lean ====
section
/-! DEFINITION. Branches, calls, register jumps and REGANG (03_control R81 to R87). -/
namespace Sys2Proof.Machine

/-- The target of a B-format word (R28): packet address plus 12 × OFF22, modulo 2^64. -/
def branchTarget (pkt : Nat) (off : BitVec 22) : Nat := ((Int.ofNat pkt + 12 * off.toInt) % 2 ^ 64).toNat

/-- BR.ANY and BR.ALL (R81) for one slice; the branch-target trap names its live lanes (DESIGN CHOICE, assumption log 77). -/
def branchSlice (c : Cur) (v : View) (taken : Bool) (live : List Nat) (sl : Nat) : Res :=
  if !taken then .ok []
  else
    let t := branchTarget c.pkt v.off
    if targetOk t then .ok [.slice sl (.jump t)] else .error (targetTrap t live)

/-- BR_ANY (R81). Branches each slice whose guard holds in any live lane, dividing the split when slices disagree. -/
def execBrAny (f : BF) (s : State) : Host.Outcome State Fault Refusal :=
  issue (.brAny f) s (fun c v sl => branchSlice c v (!(s.activeLanes sl v.pg).isEmpty) (s.liveLanes sl) sl)
/-- BR_ALL (R81). Branches each slice whose guard holds in all live lanes, dividing the split when slices disagree. -/
def execBrAll (f : BF) (s : State) : Host.Outcome State Fault Refusal :=
  issue (.brAll f) s (fun c v sl => branchSlice c v ((s.liveLanes sl).all (fun l => s.predOf (laneKey sl l) v.pg)) (s.liveLanes sl) sl)

/-- The spill-overflow trap (R74) with the SPTOP value refused, modulo 2^32. -/
def overflowTrap (fn : Nat) (top : Int) (ls : List Nat) : Trap :=
  { code := 0x04, info := fn, addr := BitVec.ofNat 64 (top % 2 ^ 32).toNat, lanes := laneMask ls }

/-- The access of lane 0's window by CALL, CALLR and RET (R73, R83, R84), with offset o and what it does. -/
def State.stackReq (s : State) (c : Cur) (sl o : Nat) (w : Whole) : Req :=
  { s.mkReq c sl 0 (s.lpVa sl 0 o) 0 8 (.again w) .parked with data := if w.writes then leBytes 8 (c.pkt + 12) else [], quiet := (s.slice sl).suppress }

/-- The shared part of CALL and CALLR (R83, R84, R85): target, spill area, the return address, the jump. INFO of CALL's spill-overflow trap, whose word has no FN, is 0 (DESIGN CHOICE, assumption log 79). -/
def State.callTo (s : State) (c : Cur) (v : View) (t : Nat) (ls : List Nat) (sl : Nat) : Except Trap (List Req) :=
  let x := s.slice sl
  if !targetOk t then .error (targetTrap t ls)
  else if x.sptop < x.splim + 8 then .error (overflowTrap v.fn (Int.ofNat x.sptop - 8) ls)
  else .ok [s.stackReq c sl (x.sptop - 8) (.push (x.sptop - 8) t)]

/-- CALL (R83). Pushes the return packet address onto lane 0's lane-private stack, lowers SPTOP by 8 and jumps to the target. -/
def execCall (f : BF) (s : State) : Host.Outcome State Fault Refusal :=
  issue (.call f) s (fun c v => s.wholeIssue c (fun sl =>
    match s.activeLanes sl v.pg with
    | [] => .ok []
    | ls => s.callTo c v (branchTarget c.pkt v.off) ls sl))

/-- JMPR (R84). Jumps to the packet address held in a register pair of the lowest guarded lane. -/
def execJmpr (f : RF) (s : State) : Host.Outcome State Fault Refusal :=
  issue (.jmpr f) s (fun _ v sl =>
    match s.activeLanes sl v.pg with
    | [] => .ok []
    | l :: ls => s.testedOne v sl l (l :: ls) (fun _ =>
      let t := (s.valA v sl l).toNat
      if targetOk t then .ok [.slice sl (.jump t)] else .error (targetTrap t (l :: ls))))

/-- CALLR (R84). Calls the packet address held in a register pair, pushing the return address onto lane 0's stack. -/
def execCallr (f : RF) (s : State) : Host.Outcome State Fault Refusal :=
  issue (.callr f) s (fun c v => s.wholeIssue c (fun sl =>
    match s.activeLanes sl v.pg with
    | [] => .ok []
    | l :: ls => match s.operandTrapIn v s.ext sl (l :: ls) [l] with
      | some t => .error t
      | none => s.callTo c v (s.valA v sl l).toNat (l :: ls) sl))

/-- RET (R84). Pops the return address from lane 0's lane-private stack, raises SPTOP by 8 and jumps there. -/
def execRet (f : RF) (s : State) : Host.Outcome State Fault Refusal :=
  issue (.ret f) s (fun c v => s.wholeIssue c (fun sl =>
    match s.activeLanes sl v.pg with
    | [] => .ok []
    | ls =>
      let x := s.slice sl
      if (s.packOf sl).lpsize < x.sptop + 8 then .error (overflowTrap v.fn (x.sptop + 8) ls)
      else .ok [s.stackReq c sl x.sptop (.pop (x.sptop + 8) (laneMask ls))]))

/-- REGANG (R86). Makes the slice arrive and wait at a meet that rejoins its gang (mode 0) or regroups the pack's slices into new gangs (mode 1); mode 1 in a pack with tiles takes the regroup-denied trap (R61). -/
def execRegang (f : RF) (s : State) : Host.Outcome State Fault Refusal :=
  issueAll (.regang f) s (fun c v =>
    let mode := v.a % 2
    sliceEffs c v (fun sl =>
      if mode = 1 ∧ (s.packOf sl).tiles ≠ 0 then .error { code := 0x07, info := v.b, lanes := (s.slice sl).live }
      else .ok [.slice sl (.goto c.pkt c.word), .slice sl (.status (.meet mode v.b c.pkt s.run.ac))])
      ++ [(none, .settle)] ++ ((c.slices.map packKey).eraseDups.map (fun p => (none, Act.meets p false))))

end Sys2Proof.Machine
end

