-- ==== Sys2Proof/Machine/Transc.lean ====
section
/-! DEFINITION. The transcendental forms of group 0x13 (07_float R172, R173). The spec bounds the error of FRSQ, FEXP2, FLOG2, FSIN, FCOS and FTANH and does not give the bits: the delivered bits are an opaque function of the operand (Config), kept inside the bound, which is tested against a 192-bit fixed-point value of the function (assumption log 11). -/
namespace Sys2Proof.Machine

/-- One in the fixed-point scale of this file, 2^320. -/
def fxOne : Int := 2 ^ 320
/-- pi in the fixed-point scale. -/
def fxPi : Int := 0x3243f6a8885a308d313198a2e03707344a4093822299f31d0082efa98ec4e6c89452821e638d01377
/-- ln 2 in the fixed-point scale (160 bits of it). -/
def fxLn2 : Int := 0xb17217f7d1cf79abc9e3b39803f2f6af40f34326 * 2 ^ 160

/-- The product in the fixed-point scale. -/
def fxMul (a b : Int) : Int := a * b / fxOne

/-- exp x for 0 ≤ x < 1 by Horner's scheme: 1 + x/k (1 + x/(k+1) (...)). -/
def fxExp (x : Int) : Nat → Nat → Int
  | 0, _ => fxOne
  | n + 1, k => fxOne + fxMul x (fxExp x n (k + 1)) / k

/-- The tail 1 - x²/(k (k+1)) (1 - ...) shared by sine (k = 2) and cosine (k = 1). -/
def fxTrig (x2 : Int) : Nat → Nat → Int
  | 0, _ => fxOne
  | n + 1, k => fxOne - fxMul x2 (fxTrig x2 n (k + 2)) / (k * (k + 1))

/-- t/k + t z²/(k+2) + ..., the series of atanh. -/
def fxAtanh (z2 : Int) : Nat → Int → Nat → Int
  | 0, _, _ => 0
  | n + 1, t, k => t / k + fxAtanh z2 n (fxMul t z2) (k + 2)

/-- A value of the fixed-point scale as an exact number. -/
def fxNum (x : Int) : Num := Num.ofInt false x (2 ^ 320)

/-- sin (a quarter turns shifted by k) of the angle x in the fixed-point scale: k = 0 sine, k = 1 cosine. -/
def fxSin (x : Int) (k : Int) : Int :=
  let q := x * 2 / fxPi
  let r := x - q * fxPi / 2
  let s := fxMul r (fxTrig (fxMul r r) 40 2)
  let c := fxTrig (fxMul r r) 40 1
  match (q + k) % 4 with
  | 0 => s
  | 1 => c
  | 2 => -s
  | _ => -c

/-- tanh (n/d) for 0 < n/d < 9. -/
def tanhNum (n d : Nat) : Num :=
  if n * 2 ^ 20 < d then .fin false (3 * n * d * d - n * n * n) (3 * d * d * d)
  else
    let x : Int := Int.ofNat (n * 2 ^ 320 / d)
    let e1 := fxExp (x / 16) 60 1
    let e2 := fxMul e1 e1
    let e4 := fxMul e2 e2
    let e8 := fxMul e4 e4
    let e16 := fxMul e8 e8
    let e := fxMul e16 e16
    .fin false (e - fxOne).toNat (e + fxOne).toNat

/-- 2^(±n/d) for a magnitude below 400. -/
def exp2Num (neg : Bool) (n d : Nat) : Num :=
  let x : Int := sgn neg (n * 2 ^ 320) / d
  let i := x / fxOne
  let r := x - i * fxOne
  scaled false (fxExp (fxMul r fxLn2) 60 1).toNat (i - 320)

/-- log2 (n/d), n > 0. -/
def log2Num (n d : Nat) : Num :=
  let e := ilog n d
  let n' := if e ≥ 0 then n else n * 2 ^ (-e).toNat
  let d' := if e ≥ 0 then d * 2 ^ e.toNat else d
  let z : Int := Int.ofNat ((n' - d') * 2 ^ 320 / (n' + d'))
  fxNum (e * fxOne + 2 * fxAtanh (fxMul z z) 60 z 1 * fxOne / fxLn2)

/-- |x - y| ≤ p/q. -/
def Num.within (x y : Num) (p q : Nat) : Bool :=
  match x, y with
  | .fin s n d, .fin t k e => decide ((sgn s n * e - sgn t k * d).natAbs * q ≤ p * (d * e))
  | _, _ => false

/-- Two ulp of FP32 at a value (R172), as a fraction. -/
def twoUlp : Num → Nat × Nat
  | .fin _ n d =>
    let q : Int := if n = 0 then -149 else max (ilog n d - 23) (-149)
    if q + 1 ≥ 0 then (2 ^ (q + 1).toNat, 1) else (1, 2 ^ (-(q + 1)).toNat)
  | _ => (0, 1)

/-- The free value y of the hardware when it lies within the bound of the exact value t, else t rounded: every code within the bound is possible, no other is. -/
def bounded (y : Word) (t : Num) (tol : Nat × Nat) : Nat :=
  if (f32.dec y.toNat).within t tol.1 tol.2 then y.toNat else (roundF32 t).1

/-- Deliver an inexact result of group 0x13 (R143, R144, R173): NX, and UF for a result below the smallest normal number, which FTZ flushes. (DEDUCED, assumption log 86) -/
def transcOut (ftz : Bool) (c : Nat) : Nat × BitVec 8 :=
  if f32.isSub c ∨ c % 2 ^ 31 = 0 then (if ftz then f32.signBit (f32.sign c) else c, flagUF ||| flagNX) else (c, flagNX)

/-- The canonical NaN with NV. -/
def nanNV : Nat × BitVec 8 := (f32.nanCode, flagNV)

/-- The NaN case common to every unary form (R172). -/
def unaryNan (c : Nat) : Nat × BitVec 8 := (f32.nanCode, flagIf (f32.isSnan c) flagNV)

/-- FRCP (R172). -/
def frcp (mode : Mode) (ftz : Bool) (c : Nat) : Nat × BitVec 8 :=
  match f32.rd ftz c with
  | .nan => unaryNan c
  | .inf s => (f32.signBit s, 0)
  | .fin s n d => if n = 0 then (f32.signBit s + f32.infCode, flagDZ) else f32.ieee mode ftz (.fin s d n)

/-- FSQRT (R172). -/
def fsqrt (mode : Mode) (ftz : Bool) (c : Nat) : Nat × BitVec 8 :=
  match f32.rd ftz c with
  | .nan => unaryNan c
  | .inf s => if s then nanNV else (f32.infCode, 0)
  | .fin s n d =>
    if n = 0 then (f32.signBit s, 0) else if s then nanNV
    else f32.deliver mode ftz false (f32.gridSqrt true n d) (f32.gridSqrt false n d)

/-- FRSQ (R172): one of the two neighbours of the exact value, the same one for the same operand. -/
def frsq (ftz : Bool) (c : Nat) : Nat × BitVec 8 :=
  match f32.rd ftz c with
  | .nan => unaryNan c
  | .inf s => if s then nanNV else (0, 0)
  | .fin s n d =>
    if n = 0 then (f32.signBit s + f32.infCode, flagDZ) else if s then nanNV
    else
      let m : Mode := if Config.frsqUp (BitVec.ofNat 32 c) then .ru else .rz
      f32.deliver m ftz false (f32.gridSqrt true d n) (f32.gridSqrt false d n)

/-- FEXP2 (R172, R173). -/
def fexp2 (ftz : Bool) (c : Nat) : Nat × BitVec 8 :=
  match f32.rd ftz c with
  | .nan => unaryNan c
  | .inf s => if s then (0, 0) else (f32.infCode, 0)
  | .fin s n d =>
    if n % d = 0 ∧ (if s then n / d ≤ 149 else n / d ≤ 127) then f32.ieee .rne ftz (scaled false 1 (sgn s (n / d)))
    else if !s && decide (128 * d ≤ n) then (f32.infCode, flagOF ||| flagNX)
    else
      let t := if s ∧ 400 * d ≤ n then .fin false 0 1 else exp2Num s n d
      transcOut ftz (bounded (Config.fexp2 (BitVec.ofNat 32 c)) t (twoUlp t))

/-- FLOG2 (R172). -/
def flog2 (ftz : Bool) (c : Nat) : Nat × BitVec 8 :=
  match f32.rd ftz c with
  | .nan => unaryNan c
  | .inf s => if s then nanNV else (f32.infCode, 0)
  | .fin s n d =>
    if n = 0 then (f32.signBit true + f32.infCode, flagDZ) else if s then nanNV
    else
      let e := ilog n d
      if (if e ≥ 0 then decide (n = d * 2 ^ e.toNat) else decide (n * 2 ^ (-e).toNat = d)) then
        f32.ieee .rne ftz (Num.ofInt false e 1)
      else
        let t := log2Num n d
        transcOut ftz (bounded (Config.flog2 (BitVec.ofNat 32 c)) t (if d ≤ 2 * n ∧ n ≤ 2 * d then (1, 2 ^ 22) else twoUlp t))

/-- FSIN (k = 0) and FCOS (k = 1) of a finite nonzero operand (R172). -/
def fsincos (k : Int) (y : Word) (ftz : Bool) (c : Nat) : Nat × BitVec 8 :=
  match f32.rd ftz c with
  | .nan => unaryNan c
  | .inf _ => nanNV
  | .fin s n d =>
    if n = 0 then (if k = 0 then f32.signBit s else 0x3F800000, 0)
    else transcOut ftz (bounded y (fxNum (fxSin (sgn s (n * 2 ^ 320) / d) k)) (1, 2 ^ 22))

/-- FTANH (R172, R173). -/
def ftanh (ftz : Bool) (c : Nat) : Nat × BitVec 8 :=
  match f32.rd ftz c with
  | .nan => unaryNan c
  | .inf s => (f32.signBit s + 0x3F800000, 0)
  | .fin s n d =>
    if n = 0 then (f32.signBit s, 0)
    else if 9 * d ≤ n then (f32.signBit s + 0x3F800000, flagNX)
    else
      let t := match tanhNum n d with
        | .fin _ p q => Num.fin s p q
        | x => x
      transcOut ftz (bounded (Config.ftanh (BitVec.ofNat 32 c)) t (twoUlp t))

end Sys2Proof.Machine
end

