-- ==== Sys2Proof/Machine/FloatFns.lean ====
section
/-! DEFINITION. The lane-wise floating-point, conversion and quantising functions (07_float R164 to R182): one pure function of the operand values and FPCTL per instruction. -/
namespace Sys2Proof.Machine

/-- A 32-bit result with flags. -/
def outF (r : Nat × BitVec 8) : LaneOut := { v := BitVec.ofNat 64 r.1, flags := r.2 }
/-- A pair result with flags. -/
def outFF (lo hi : Nat) (fl : BitVec 8) : LaneOut := { v := BitVec.ofNat 32 hi ++ BitVec.ofNat 32 lo, flags := fl }
/-- The rounding mode at issue. -/
def LaneIn.mode (q : LaneIn) : Mode := modeOf q.fp
/-- FTZ at issue. -/
def LaneIn.ftz (q : LaneIn) : Bool := ftzOf q.fp
/-- Operand A as FP32 bits. -/
def LaneIn.af (q : LaneIn) : Nat := q.aw.toNat
/-- Operand B as FP32 bits. -/
def LaneIn.bf (q : LaneIn) : Nat := q.bw.toNat
/-- Operand D as FP32 bits. -/
def LaneIn.df (q : LaneIn) : Nat := q.dw.toNat

/-- FADD (R165). -/
def fnFadd (q : LaneIn) : LaneOut := outF (f32.addOp q.mode q.ftz q.af q.bf)
/-- FSUB (R165). -/
def fnFsub (q : LaneIn) : LaneOut := outF (f32.subOp q.mode q.ftz q.af q.bf)
/-- FMUL (R165). -/
def fnFmul (q : LaneIn) : LaneOut := outF (f32.mulOp q.mode q.ftz q.af q.bf)
/-- FMIN (R166). -/
def fnFmin (q : LaneIn) : LaneOut := outF (f32.maxOp q.ftz true q.af q.bf)
/-- FMAX (R166). -/
def fnFmax (q : LaneIn) : LaneOut := outF (f32.maxOp q.ftz false q.af q.bf)
/-- The sign forms of R166: a NaN gives the canonical NaN, a signalling one NV; A is flushed under FTZ. -/
def signForm (q : LaneIn) (f : Nat → Nat) : LaneOut :=
  if f32.isNan q.af then outF (f32.nanCode, flagIf (f32.isSnan q.af) flagNV) else outF (f (f32.flush q.ftz q.af), 0)
/-- FABS (R166). -/
def fnFabs (q : LaneIn) : LaneOut := signForm q (fun a => f32.mag a)
/-- FNEG (R166). -/
def fnFneg (q : LaneIn) : LaneOut := signForm q (fun a => f32.mag a + f32.signBit (!f32.sign a))
/-- FCPYS (R166). -/
def fnFcpys (q : LaneIn) : LaneOut := signForm q (fun a => f32.mag a + f32.signBit (f32.sign q.bf))

/-- FFMA (R167). -/
def fnFfma (q : LaneIn) : LaneOut := outF (f32.fmaOp q.mode q.ftz false false q.af q.bf q.df)
/-- FFMS (R167). -/
def fnFfms (q : LaneIn) : LaneOut := outF (f32.fmaOp q.mode q.ftz false true q.af q.bf q.df)
/-- FNMA (R167). -/
def fnFnma (q : LaneIn) : LaneOut := outF (f32.fmaOp q.mode q.ftz true false q.af q.bf q.df)
/-- TWOSUM and TWOPROD (R168) from the exact result. -/
def errorFree (snan : Bool) (x : Num × Bool) : LaneOut :=
  let (s, fl) := f32.result .rne false snan x
  match f32.dec s with
  | .fin sn n d =>
    let e := (roundF32 (Num.add .rne x.1 (Num.fin (!sn) n d)).1).1
    outFF s e (fl ||| flagIf (f32.mag e ≠ 0) flagNX)
  | _ => outFF s 0 fl
/-- TWOSUM (R168). -/
def fnTwosum (q : LaneIn) : LaneOut :=
  errorFree (f32.isSnan q.af || f32.isSnan q.bf) (Num.add .rne (f32.dec q.af) (f32.dec q.bf))
/-- TWOPROD (R168). -/
def fnTwoprod (q : LaneIn) : LaneOut :=
  errorFree (f32.isSnan q.af || f32.isSnan q.bf) (Num.mul (f32.dec q.af) (f32.dec q.bf))
/-- FTSUM (R169): the accumulator step with the products A and B; D is hi, D+1 is lo. -/
def fnFtsum (q : LaneIn) : LaneOut :=
  let hi := q.df
  let lo := (q.d.extractLsb' 32 32).toNat
  let sn := f32.isSnan q.af || f32.isSnan q.bf || f32.isSnan hi || f32.isSnan lo
  if f32.isNan hi then outFF f32.nanCode lo (flagIf sn flagNV)
  else
    let anyNan := f32.isNan q.af || f32.isNan q.bf || f32.isNan lo
    let (h, l, fl) := accumulateGroup hi lo [(f32.dec q.af, false), (f32.dec q.bf, false)]
    outFF h l ((fl &&& (flagOF ||| flagUF ||| flagNX)) ||| flagIf (sn || (f32.isNan h && !anyNan)) flagNV)

/-- FSET with a condition on the comparison keys (R170); `quiet` forms raise NV for signalling NaNs only. -/
def fset (f : Fmt) (q : LaneIn) (a b : Nat) (quiet onNan : Bool) (p : Int → Int → Bool) : LaneOut :=
  let nan := f.isNan a || f.isNan b
  let nv := if quiet then f.isSnan a || f.isSnan b else nan
  { v := if (if nan then onNan else p (f.cmpKey q.ftz a) (f.cmpKey q.ftz b)) then 1 else 0, flags := flagIf nv flagNV }
/-- FSET.EQ (R170). -/
def fnFsetEq (q : LaneIn) : LaneOut := fset f32 q q.af q.bf true false (fun x y => decide (x = y))
/-- FSET.NE. -/
def fnFsetNe (q : LaneIn) : LaneOut := fset f32 q q.af q.bf true true (fun x y => decide (x ≠ y))
/-- FSET.LT. -/
def fnFsetLt (q : LaneIn) : LaneOut := fset f32 q q.af q.bf false false (fun x y => decide (x < y))
/-- FSET.LE. -/
def fnFsetLe (q : LaneIn) : LaneOut := fset f32 q q.af q.bf false false (fun x y => decide (x ≤ y))
/-- FSET.UNORD. -/
def fnFsetUnord (q : LaneIn) : LaneOut := fset f32 q q.af q.bf true true (fun _ _ => false)
/-- FSET.ORD. -/
def fnFsetOrd (q : LaneIn) : LaneOut := fset f32 q q.af q.bf true false (fun _ _ => true)
/-- The class of an FP32 value (R171). -/
def fclass (c : Nat) : Nat :=
  if f32.isSnan c then 0 else
  let s := f32.sign c
  match f32.dec c with
  | .nan => 1
  | .inf _ => if s then 2 else 9
  | .fin _ n _ => if n = 0 then (if s then 5 else 6) else if f32.isSub c then (if s then 4 else 7) else (if s then 3 else 8)
/-- FSET.CLASS (R171): A is read as its bits, without flushing. -/
def fnFsetClass (q : LaneIn) : LaneOut := outP (q.bw.getLsbD (fclass q.af))

/-- FRCP (R172). -/
def fnFrcp (q : LaneIn) : LaneOut := outF (frcp q.mode q.ftz q.af)
/-- FRSQ. -/
def fnFrsq (q : LaneIn) : LaneOut := outF (frsq q.ftz q.af)
/-- FSQRT. -/
def fnFsqrt (q : LaneIn) : LaneOut := outF (fsqrt q.mode q.ftz q.af)
/-- FEXP2. -/
def fnFexp2 (q : LaneIn) : LaneOut := outF (fexp2 q.ftz q.af)
/-- FLOG2. -/
def fnFlog2 (q : LaneIn) : LaneOut := outF (flog2 q.ftz q.af)
/-- FSIN. -/
def fnFsin (q : LaneIn) : LaneOut := outF (fsincos 0 (Config.fsin q.aw) q.ftz q.af)
/-- FCOS. -/
def fnFcos (q : LaneIn) : LaneOut := outF (fsincos 1 (Config.fcos q.aw) q.ftz q.af)
/-- FTANH. -/
def fnFtanh (q : LaneIn) : LaneOut := outF (ftanh q.ftz q.af)

/-- A packed 16-bit form, element by element (R174); a lane raises a flag when either element raises it. -/
def packed (q : LaneIn) (f : Nat → Nat → Nat → Nat × BitVec 8) : LaneOut :=
  let r0 := f (halfOf q.aw 0).toNat (halfOf q.bw 0).toNat (halfOf q.dw 0).toNat
  let r1 := f (halfOf q.aw 1).toNat (halfOf q.bw 1).toNat (halfOf q.dw 1).toNat
  outF (r0.1 + r1.1 * 2 ^ 16, r0.2 ||| r1.2)
/-- HADD2.bf16 (R174). -/
def fnHadd2Bf16 (q : LaneIn) : LaneOut := packed q (fun a b _ => bf16.addOp q.mode q.ftz a b)
/-- HMUL2.bf16. -/
def fnHmul2Bf16 (q : LaneIn) : LaneOut := packed q (fun a b _ => bf16.mulOp q.mode q.ftz a b)
/-- HFMA2.bf16. -/
def fnHfma2Bf16 (q : LaneIn) : LaneOut := packed q (fun a b d => bf16.fmaOp q.mode q.ftz false false a b d)
/-- HADD2.f16. -/
def fnHadd2F16 (q : LaneIn) : LaneOut := packed q (fun a b _ => f16.addOp q.mode q.ftz a b)
/-- HMUL2.f16. -/
def fnHmul2F16 (q : LaneIn) : LaneOut := packed q (fun a b _ => f16.mulOp q.mode q.ftz a b)
/-- HFMA2.f16. -/
def fnHfma2F16 (q : LaneIn) : LaneOut := packed q (fun a b d => f16.fmaOp q.mode q.ftz false false a b d)
/-- HMAX2.bf16. -/
def fnHmax2Bf16 (q : LaneIn) : LaneOut := packed q (fun a b _ => bf16.maxOp q.ftz false a b)
/-- HMIN2.bf16. -/
def fnHmin2Bf16 (q : LaneIn) : LaneOut := packed q (fun a b _ => bf16.maxOp q.ftz true a b)

/-- DADD (R175). -/
def fnDadd (q : LaneIn) : LaneOut := outF (f64.addOp q.mode q.ftz q.a.toNat q.b.toNat)
/-- DSUB. -/
def fnDsub (q : LaneIn) : LaneOut := outF (f64.subOp q.mode q.ftz q.a.toNat q.b.toNat)
/-- DMUL. -/
def fnDmul (q : LaneIn) : LaneOut := outF (f64.mulOp q.mode q.ftz q.a.toNat q.b.toNat)
/-- DFMA. -/
def fnDfma (q : LaneIn) : LaneOut := outF (f64.fmaOp q.mode q.ftz false false q.a.toNat q.b.toNat q.d.toNat)
/-- DMIN. -/
def fnDmin (q : LaneIn) : LaneOut := outF (f64.maxOp q.ftz true q.a.toNat q.b.toNat)
/-- DMAX. -/
def fnDmax (q : LaneIn) : LaneOut := outF (f64.maxOp q.ftz false q.a.toNat q.b.toNat)
/-- DSET.LT. -/
def fnDsetLt (q : LaneIn) : LaneOut := fset f64 q q.a.toNat q.b.toNat false false (fun x y => decide (x < y))
/-- DSET.EQ. -/
def fnDsetEq (q : LaneIn) : LaneOut := fset f64 q q.a.toNat q.b.toNat true false (fun x y => decide (x = y))

/-- The rounding a selector RSEL in B[2:0] names (R176). -/
def rselMode (fp : Word) (b : BitVec 6) : Mode :=
  match b.toNat % 8 with
  | 0 => modeOf fp
  | 1 => .rne
  | 2 => .rz
  | 3 => .ru
  | _ => .rd

/-- Convert between two IEEE formats (R176). -/
def cvtFF (f g : Fmt) (mode : Mode) (ftz : Bool) (c : Nat) : Nat × BitVec 8 :=
  g.result mode ftz (f.isSnan c) (f.rd ftz c, false)
/-- ToInt(x, lo, hi) (R177): the integer and the flags. -/
def toIntRange (f : Fmt) (mode : Mode) (ftz : Bool) (lo hi : Int) (c : Nat) : Int × BitVec 8 :=
  match f.rd ftz c with
  | .nan => (0, flagNV)
  | .inf s => (if s then lo else hi, flagNV)
  | .fin s n d =>
    let (k, ex, h) := gridStep n d 0
    let r := sgn s ((Grid.mk k ex h).round mode s).toNat
    if r < lo then (lo, flagNV) else if r > hi then (hi, flagNV) else (r, flagIf (!ex) flagNX)

/-- CVT.f32.i32 (R176). -/
def fnCvtF32I32 (b : BitVec 6) (q : LaneIn) : LaneOut := outF (f32.ieee (rselMode q.fp b) q.ftz (Num.ofInt false q.aw.toInt 1))
/-- CVT.f32.n32. -/
def fnCvtF32N32 (b : BitVec 6) (q : LaneIn) : LaneOut := outF (f32.ieee (rselMode q.fp b) q.ftz (.fin false q.aw.toNat 1))
/-- CVT.i32.f32 (R177). -/
def fnCvtI32F32 (b : BitVec 6) (q : LaneIn) : LaneOut :=
  let r := toIntRange f32 (rselMode q.fp b) q.ftz (-(2 ^ 31)) (2 ^ 31 - 1) q.af
  { v := (BitVec.ofInt 32 r.1).setWidth 64, flags := r.2 }
/-- CVT.n32.f32 (R177). -/
def fnCvtN32F32 (b : BitVec 6) (q : LaneIn) : LaneOut :=
  let r := toIntRange f32 (rselMode q.fp b) q.ftz 0 (2 ^ 32 - 1) q.af
  { v := (BitVec.ofInt 32 r.1).setWidth 64, flags := r.2 }
/-- CVT.f32.f64. -/
def fnCvtF32F64 (b : BitVec 6) (q : LaneIn) : LaneOut := outF (cvtFF f64 f32 (rselMode q.fp b) q.ftz q.a.toNat)
/-- CVT.f64.f32, exact. -/
def fnCvtF64F32 (q : LaneIn) : LaneOut := outF (cvtFF f32 f64 .rne q.ftz q.af)
/-- Two conversions into the halves of a word. -/
def cvtX2 (g : Fmt) (q : LaneIn) : LaneOut :=
  let ra := cvtFF f32 g q.mode q.ftz q.af
  let rb := cvtFF f32 g q.mode q.ftz q.bf
  outF (ra.1 + rb.1 * 2 ^ 16, ra.2 ||| rb.2)
/-- CVT.bf16x2.f32. -/
def fnCvtBf16x2F32 (q : LaneIn) : LaneOut := cvtX2 bf16 q
/-- CVT.f16x2.f32. -/
def fnCvtF16x2F32 (q : LaneIn) : LaneOut := cvtX2 f16 q
/-- The two halves of a word widened into a pair. -/
def unpkX2 (g : Fmt) (q : LaneIn) : LaneOut :=
  let r0 := cvtFF g f32 .rne q.ftz (halfOf q.aw 0).toNat
  let r1 := cvtFF g f32 .rne q.ftz (halfOf q.aw 1).toNat
  outFF r0.1 r1.1 (r0.2 ||| r1.2)
/-- UNPK.bf16x2. -/
def fnUnpkBf16x2 (q : LaneIn) : LaneOut := unpkX2 bf16 q
/-- UNPK.f16x2. -/
def fnUnpkF16x2 (q : LaneIn) : LaneOut := unpkX2 f16 q
/-- CVT.f64.i32, exact. -/
def fnCvtF64I32 (q : LaneIn) : LaneOut := outF (f64.ieee .rne q.ftz (Num.ofInt false q.aw.toInt 1))
/-- CVT.i32.f64 (R177). -/
def fnCvtI32F64 (b : BitVec 6) (q : LaneIn) : LaneOut :=
  let r := toIntRange f64 (rselMode q.fp b) q.ftz (-(2 ^ 31)) (2 ^ 31 - 1) q.a.toNat
  { v := (BitVec.ofInt 32 r.1).setWidth 64, flags := r.2 }
/-- y clamped to lo..hi, as a byte. -/
def clampByte (lo hi : Int) (y : Word) : Byte := BitVec.ofInt 8 (max lo (min hi y.toInt))
/-- The byte packs (R178). -/
def packBytes (lo hi : Int) (q : LaneIn) : LaneOut :=
  outW (clampByte lo hi (q.b.extractLsb' 32 32) ++ clampByte lo hi q.bw
    ++ clampByte lo hi (q.a.extractLsb' 32 32) ++ clampByte lo hi q.aw)
/-- PACK.i8x4 (R178). -/
def fnPackI8x4 (q : LaneIn) : LaneOut := packBytes (-128) 127 q
/-- PACK.n8x4. -/
def fnPackN8x4 (q : LaneIn) : LaneOut := packBytes 0 255 q
/-- UNPK.i8x4. -/
def fnUnpkI8x4 (q : LaneIn) : LaneOut :=
  let h := q.bw.toNat % 2
  outPair ((byteOf q.aw (2 * h)).signExtend 32) ((byteOf q.aw (2 * h + 1)).signExtend 32)
/-- UNPK.n8x4. -/
def fnUnpkN8x4 (q : LaneIn) : LaneOut :=
  let h := q.bw.toNat % 2
  outPair ((byteOf q.aw (2 * h)).setWidth 32) ((byteOf q.aw (2 * h + 1)).setWidth 32)

/-- A format word that QNT, DQNT and SEGSCL refuse (R147, R179): invalid, or WIDTH 2. -/
def badFormat (w : Word) : Bool := decide (fwReason w ≠ 0) || decide (fwWidth w = 2)
/-- QNT (R179). For an all-zero segment nothing is rounded, and a signalling NaN in A raises no flag (DESIGN CHOICE, assumption log 87). -/
def fnQnt (q : LaneIn) : LaneOut :=
  let w := q.bw
  if badFormat w then { v := 0, bad := some w } else
  let sn := flagIf (f32.isSnan q.af) flagNV
  if fwScaled w then
    match multiplier (q.dw.extractLsb' 0 8) with
    | none => outW 0
    | some (p, d) =>
      let r := roundToWord w (Num.divPos p d (f32.dec q.af))
      outF (r.1, r.2 ||| sn)
  else
    let r := roundToWord w (f32.dec q.af)
    outF (r.1, r.2 ||| sn)
/-- DQNT (R179). -/
def fnDqnt (q : LaneIn) : LaneOut :=
  let w := q.bw
  if badFormat w then { v := 0, bad := some w } else
  let x := (fwFmt w).dec (q.af % 2 ^ fwBits w)
  if fwScaled w then
    match multiplier (q.dw.extractLsb' 0 8) with
    | none => outW 0
    | some (p, d) => outF (roundF32 (Num.divPos d p x))
  else outF (roundF32 x)
/-- QPACK (R181). -/
def fnQpack (q : LaneIn) : LaneOut :=
  let nib (w : Word) (k : Nat) : Nat := (byteOf w k).toNat % 16
  outW (BitVec.ofNat 32 (nib q.aw 0 + nib q.aw 1 * 2 ^ 4 + nib q.aw 2 * 2 ^ 8 + nib q.aw 3 * 2 ^ 12
    + nib q.bw 0 * 2 ^ 16 + nib q.bw 1 * 2 ^ 20 + nib q.bw 2 * 2 ^ 24 + nib q.bw 3 * 2 ^ 28))
/-- QUNPK (R181). -/
def fnQunpk (q : LaneIn) : LaneOut :=
  let nib (k : Nat) : Nat := q.aw.toNat / 2 ^ (4 * k) % 16
  let four (k : Nat) : Word := BitVec.ofNat 32 (nib k + nib (k + 1) * 2 ^ 8 + nib (k + 2) * 2 ^ 16 + nib (k + 3) * 2 ^ 24)
  outPair (four 0) (four 4)
/-- SEGSCL (R180). -/
def fnSegscl (q : LaneIn) : LaneOut :=
  let w := q.bw
  if badFormat w then { v := 0, bad := some w } else
  match f32.dec q.af with
  | .fin _ n d => if n = 0 then outW 0x80 else outW (BitVec.ofNat 32 (scaleFor (fwFmt w) n d))
  | _ => outW 0
/-- FMTCHK (R182). -/
def fnFmtchk (q : LaneIn) : LaneOut :=
  let w := q.aw
  let r := fwReason w
  if r ≠ 0 then outW (BitVec.ofNat 32 (r * 2 ^ 4))
  else outW (BitVec.ofNat 32 ((fwFmt w).m * 2 ^ 8 + (if fwWidth w = 2 then 2 else 1)))

end Sys2Proof.Machine
end

