-- ==== Sys2Proof/Machine/Convert.lean ====
section
/-! DEFINITION. The conversions, packs and quantising instructions (07_float R176 to R182). Each meaning is one call of `lanewise` with the instruction's function. -/
namespace Sys2Proof.Machine

/-- CVT_F32_I32 (R176). Converts a signed integer to FP32 under the rounding selector. -/
def execCvtF32I32 (f : RF) (s : State) : Host.Outcome State Fault Refusal := lanewise (.cvtF32I32 f) (fnCvtF32I32 f.b) s

/-- CVT_F32_N32 (R176). Converts an unsigned integer to FP32 under the rounding selector. -/
def execCvtF32N32 (f : RF) (s : State) : Host.Outcome State Fault Refusal := lanewise (.cvtF32N32 f) (fnCvtF32N32 f.b) s

/-- CVT_I32_F32 (R177). Converts FP32 to a saturated signed integer. -/
def execCvtI32F32 (f : RF) (s : State) : Host.Outcome State Fault Refusal := lanewise (.cvtI32F32 f) (fnCvtI32F32 f.b) s

/-- CVT_N32_F32 (R177). Converts FP32 to a saturated unsigned integer. -/
def execCvtN32F32 (f : RF) (s : State) : Host.Outcome State Fault Refusal := lanewise (.cvtN32F32 f) (fnCvtN32F32 f.b) s

/-- CVT_F32_F64 (R176). Rounds an FP64 pair to FP32. -/
def execCvtF32F64 (f : RF) (s : State) : Host.Outcome State Fault Refusal := lanewise (.cvtF32F64 f) (fnCvtF32F64 f.b) s

/-- CVT_F64_F32 (R176). Converts FP32 exactly to an FP64 pair. -/
def execCvtF64F32 (f : RF) (s : State) : Host.Outcome State Fault Refusal := lanewise (.cvtF64F32 f) fnCvtF64F32 s

/-- CVT_BF16X2_F32 (R176). Rounds two FP32 values into a packed BF16 pair. -/
def execCvtBf16x2F32 (f : RF) (s : State) : Host.Outcome State Fault Refusal := lanewise (.cvtBf16x2F32 f) fnCvtBf16x2F32 s

/-- CVT_F16X2_F32 (R176). Rounds two FP32 values into a packed F16 pair. -/
def execCvtF16x2F32 (f : RF) (s : State) : Host.Outcome State Fault Refusal := lanewise (.cvtF16x2F32 f) fnCvtF16x2F32 s

/-- UNPK_BF16X2 (R176). Unpacks a BF16 pair exactly into two FP32 registers. -/
def execUnpkBf16x2 (f : RF) (s : State) : Host.Outcome State Fault Refusal := lanewise (.unpkBf16x2 f) fnUnpkBf16x2 s

/-- UNPK_F16X2 (R176). Unpacks an F16 pair exactly into two FP32 registers. -/
def execUnpkF16x2 (f : RF) (s : State) : Host.Outcome State Fault Refusal := lanewise (.unpkF16x2 f) fnUnpkF16x2 s

/-- CVT_F64_I32 (R176). Converts a signed integer exactly to FP64. -/
def execCvtF64I32 (f : RF) (s : State) : Host.Outcome State Fault Refusal := lanewise (.cvtF64I32 f) fnCvtF64I32 s

/-- CVT_I32_F64 (R177). Converts FP64 to a saturated signed integer. -/
def execCvtI32F64 (f : RF) (s : State) : Host.Outcome State Fault Refusal := lanewise (.cvtI32F64 f) (fnCvtI32F64 f.b) s

/-- PACK_I8X4 (R178). Packs four signed values into bytes with signed saturation. -/
def execPackI8x4 (f : RF) (s : State) : Host.Outcome State Fault Refusal := lanewise (.packI8x4 f) fnPackI8x4 s

/-- PACK_N8X4 (R178). Packs four signed values into bytes with unsigned saturation. -/
def execPackN8x4 (f : RF) (s : State) : Host.Outcome State Fault Refusal := lanewise (.packN8x4 f) fnPackN8x4 s

/-- UNPK_I8X4 (R178). Sign-extends two selected bytes of A into a pair. -/
def execUnpkI8x4 (f : RF) (s : State) : Host.Outcome State Fault Refusal := lanewise (.unpkI8x4 f) fnUnpkI8x4 s

/-- UNPK_N8X4 (R178). Zero-extends two selected bytes of A into a pair. -/
def execUnpkN8x4 (f : RF) (s : State) : Host.Outcome State Fault Refusal := lanewise (.unpkN8x4 f) fnUnpkN8x4 s

/-- QNT (R179). Quantises an FP32 value to a code of the format word, using the scale byte in D. -/
def execQnt (f : RF) (s : State) : Host.Outcome State Fault Refusal := lanewise (.qnt f) fnQnt s

/-- DQNT (R179). Decodes a code of the format word to FP32, using the scale byte in D. -/
def execDqnt (f : RF) (s : State) : Host.Outcome State Fault Refusal := lanewise (.dqnt f) fnDqnt s

/-- QPACK (R181). Packs eight 4-bit codes from the byte containers of A and B. -/
def execQpack (f : RF) (s : State) : Host.Outcome State Fault Refusal := lanewise (.qpack f) fnQpack s

/-- QUNPK (R181). Unpacks eight 4-bit codes into byte containers of a pair. -/
def execQunpk (f : RF) (s : State) : Host.Outcome State Fault Refusal := lanewise (.qunpk f) fnQunpk s

/-- SEGSCL (R180). Chooses the scale byte of a segment from its largest magnitude. -/
def execSegscl (f : RF) (s : State) : Host.Outcome State Fault Refusal := lanewise (.segscl f) fnSegscl s

/-- FMTCHK (R182). Tests a format word for validity and writes the result without trapping. -/
def execFmtchk (f : RF) (s : State) : Host.Outcome State Fault Refusal := lanewise (.fmtchk f) fnFmtchk s

end Sys2Proof.Machine
end

