-- ==== Sys2Proof/Machine/LoadStore.lean ====
section
/-! DEFINITION. LD, ST, their non-temporal forms, PF, CMO (08_memory R207 to R214), SPILL and FILL (03_control R89, R90). -/
namespace Sys2Proof.Machine

/-- Loads of one slice (R208): scratchpad and lane-private lanes are read at once, global lanes become requests. -/
def State.loadSlice (s : State) (c : Cur) (v : View) (nt : Bool) (sl : Nat) : Res :=
  let ls := s.activeLanes sl v.pg
  let w := v.b / 8
  let space := v.b % 8
  let size := widthBytes w
  s.tested v sl ls (fun _ =>
    match s.testAccess sl space size w v.d 1 false (s.addrs v sl space ls) with
    | .error t => .error t
    | .ok ts =>
      let here := ts.filterMap (fun t => match t.2.2 with
        | .scratch key => some (t.1, s.dRegs v sl t.1, loadWords w (s.bytes key size), s.localPsn key size, t.2.1)
        | .window p va => some (t.1, s.dRegs v sl t.1, loadWords w (s.bytesAs (p.key va) size p.keyid), p.poison || s.localPsn (p.key va) size, t.2.1)
        | _ => none)
      let away := ts.flatMap (fun t => match t.2.2 with
        | .page p va => s.pageLoad c sl t.1 p va size (.load w (s.dRegs v sl t.1)) nt
        | .dsp key => [.addReq { s.mkReq c sl t.1 t.2.1 key size (.load w (s.dRegs v sl t.1)) .queued with tier := 4 }]
        | .window p va => s.pageActs sl false p va ++ s.suspectActs (p.key va) size p.keyid
        | .park va => s.parkReq c sl t.1 va size (.load w (s.dRegs v sl t.1)) [] [] v.d nt
        | .scratch _ => [])
      .ok ((if here = [] then [] else s.deliver sl true here) ++ away ++ lookActs c v sl))

/-- Stores of one slice (R208), lanes in ascending order. -/
def State.storeSlice (s : State) (c : Cur) (v : View) (nt : Bool) (sl : Nat) : Res :=
  let ls := s.activeLanes sl v.pg
  let w := v.b / 8
  let space := v.b % 8
  let size := widthBytes w
  s.tested v sl ls (fun _ =>
    match s.testAccess sl space size w v.d 2 true (s.addrs v sl space ls) with
    | .error t => .error t
    | .ok ts =>
      .ok (ts.flatMap (fun t =>
        let bs := storeBytes w (s.dVals v sl t.1)
        match t.2.2 with
        | .scratch key => .stale { slice := sl, key := key, old := s.bytes key size } :: localStore key 0 bs
        | .window p va => s.pageActs sl true p va ++ s.windowStore sl p va bs
        | .page p va => s.pageStore c sl t.1 p va bs nt
        | .dsp key => [.addReq { s.mkReq c sl t.1 t.2.1 key size .store .queued with tier := 4, data := bs }]
        | .park va => s.parkReq c sl t.1 va size .store bs [] v.d nt) ++ lookActs c v sl))

/-- LD (R208). Loads from the g, s, c or l space into registers in each active lane after bounds, alignment and translation checks. -/
def execLd (f : XF) (s : State) : Host.Outcome State Fault Refusal := issue (.ld f) s (fun c v => s.loadSlice c v false)
/-- LD.nt (R210). As LD; the line is not allocated in the L1. -/
def execLdNt (f : XF) (s : State) : Host.Outcome State Fault Refusal := issue (.ldNt f) s (fun c v => s.loadSlice c v true)
/-- ST (R208). Stores from registers in each active lane, in ascending gang lane order. -/
def execSt (f : XF) (s : State) : Host.Outcome State Fault Refusal := issue (.st f) s (fun c v => s.storeSlice c v false)
/-- ST.nt (R210). -/
def execStNt (f : XF) (s : State) : Host.Outcome State Fault Refusal := issue (.stNt f) s (fun c v => s.storeSlice c v true)

/-- PF (R213). Requests the line of each active lane's address as a lease copy; an address that fails any test is dropped, and pages of TYPE 1 to 3, TIER 3 and the die scratchpad have no effect. -/
def execPf (f : XF) (s : State) : Host.Outcome State Fault Refusal :=
  issue (.pf f) s (fun c v sl =>
    let ls := s.activeLanes sl v.pg
    s.tested v sl ls (fun _ =>
      .ok ((s.addrs v sl 0 ls).flatMap (fun a =>
        match (if 2 ^ 57 ≤ a.2 then Except.error ⟨0, 0, 0⟩ else s.translate a.1 sl a.2) with
        | .ok (.page p va) =>
          if p.ty = 0 ∧ p.tier ≤ 2 then
            [.addReq { (s.mkReq c sl a.1 va (p.key va / 64 * 64) 64 (.prefetch (v.d % 2)) .queued).onPage p with nt := decide (v.d % 2 = 1) }]
          else []
        | _ => []))))

/-- Write a line back to its tier (R197, R214): an SCM line reaches the array with its mark (R241). -/
def State.cleanActs (s : State) (line : Nat) : List Act :=
  if Sparse.get false s.mem.dirty line then .dirty line false :: (if scmBase ≤ line * 64 ∧ line * 64 < hostBase then [.persistLine line] else []) else []

/-- The lease copies INV drops (R214): the issuing core's L1 and its die's L2 when that die is not the home. -/
def State.invActs (s : State) (core line : Nat) : List Act :=
  .copy (copyKey core line) none :: (if s.homeOf (line * 64) = dieOfCore core then [] else [.copy (copyKey (160 + dieOfCore core) line) none])

/-- CMO on one line through a page (R214): FN 0 CLEAN, 1 INV, 2 CLEANINV. At the home INV acts as CLEANINV. -/
def State.cmoActs (s : State) (sl fn : Nat) (p : Page) (va : Nat) : List Act :=
  let line := lineOf (p.key va)
  if p.tier = 3 then []
  else s.pageActs sl false p va
    ++ (if fn ≠ 1 || decide (s.homeOf (p.key va) = dieOfCore (s.coreOf sl)) then s.cleanActs line else [])
    ++ (if fn ≠ 0 then s.invActs (s.coreOf sl) line else [])

/-- CMO (R214) of a slice: translated and tested as LD, without alignment; a lane whose page is not resident parks. -/
def State.cmoSlice (s : State) (c : Cur) (v : View) (fn : Nat) (sl : Nat) : Res :=
  let ls := s.activeLanes sl v.pg
  s.tested v sl ls (fun _ =>
    match s.testAccess sl 0 0 0 0 0 false (s.addrs v sl 0 ls) with
    | .error t => .error t
    | .ok ts =>
      .ok (ts.flatMap (fun t => match t.2.2 with
        | .page p va => s.cmoActs sl fn p va
        | .park va => s.parkReq c sl t.1 va 1 (.cmo fn) [] [] 0 false
        | _ => [])))

/-- CMO.CLEAN (R214). Writes the line back to its tier when the home holds it dirty. -/
def execCmoClean (f : XF) (s : State) : Host.Outcome State Fault Refusal := issue (.cmoClean f) s (fun c v => s.cmoSlice c v 0)
/-- CMO.INV (R214). Drops the lease copies of the line in the issuing core's L1 and its die's L2. -/
def execCmoInv (f : XF) (s : State) : Host.Outcome State Fault Refusal := issue (.cmoInv f) s (fun c v => s.cmoSlice c v 1)
/-- CMO.CLEANINV (R214). -/
def execCmoCleaninv (f : XF) (s : State) : Host.Outcome State Fault Refusal := issue (.cmoCleaninv f) s (fun c v => s.cmoSlice c v 2)

/-- The registers of a SPILL or FILL range in a lane. -/
def State.rangeRegs (s : State) (sl ln field cnt : Nat) : List Nat :=
  (List.range cnt).map (fun i => s.regOf sl ln field cnt + i)

/-- SPILL and FILL of one slice (R89): the register range, the spill area's limits, and each active lane's block with the values read at issue. SPILL carries poison bits with its words (R101). -/
def State.spillPlan (s : State) (c : Cur) (v : View) (fill : Bool) (sl : Nat) : Except Trap (List Req) :=
  let ls := s.activeLanes sl v.pg
  let x := s.slice sl
  let cnt := v.b + 1
  let size := (4 * cnt + 7) / 8 * 8
  if ls = [] then .ok []
  else
    match s.boundsTrap sl (.v cnt 1 false false) v.d ls with
    | some t => .error t
    | none =>
      let top := if fill then x.sptop + size else (x.sptop + 2 ^ 32 - size) % 2 ^ 32
      let bad := if fill then decide ((s.packOf sl).lpsize < x.sptop + size) else decide (x.sptop < x.splim + size)
      if bad then .error { code := 0x04, info := v.fn, addr := BitVec.ofNat 64 (top % 2 ^ 32), lanes := laneMask ls }
      else
        .ok (ls.map (fun l =>
          let rs := s.rangeRegs sl l v.d cnt
          let base := s.lpVa sl l (if fill then x.sptop else top)
          let w := if fill then Whole.fill top rs else Whole.spill top (rs.map (fun r => s.poisoned (laneKey sl l) r))
          { s.mkReq c sl l base 0 (4 * cnt) (.again w) .parked with
            field := v.d, quiet := x.suppress
            data := if fill then [] else rs.flatMap (fun r => leBytes 4 (s.readReg false sl l r).toNat) }))

/-- SPILL (R89). Saves a register range into each guarded lane's lane-private window below SPTOP and lowers SPTOP. -/
def execSpill (f : RF) (s : State) : Host.Outcome State Fault Refusal := issue (.spill f) s (fun c v => s.wholeIssue c (s.spillPlan c v false))
/-- FILL (R89). Reloads a register range from each guarded lane's lane-private window at SPTOP and raises SPTOP. -/
def execFill (f : RF) (s : State) : Host.Outcome State Fault Refusal := issue (.fill f) s (fun c v => s.wholeIssue c (s.spillPlan c v true))

end Sys2Proof.Machine
end

