-- ==== Sys2Proof/Machine/Home.lean ====
section
/-! DEFINITION. What happens to a memory request after it issued (09_ordering R217 to R225, 08_memory R195, R211, 10_sync R245, R261): reads and writes at the home, data return, acknowledgement, replay of parked lanes, and the clocks and copies. -/
namespace Sys2Proof.Machine

/-! ### Order at the homes -/

/-- A request not yet performed. -/
def Req.waiting (r : Req) : Bool := decide (r.state = .queued)

/-- An atomic or a reduction. -/
def Req.isAtom (r : Req) : Bool := match r.kind with
  | .atom _ _ _ => true
  | _ => false
/-- An LDFE lane: it holds back only later LDFE lanes (R261). -/
def Req.isLdfe (r : Req) : Bool := match r.kind with
  | .ldfe _ => true
  | _ => false

/-- An older request that must be performed before request r (R216, R217, R188, R195, R238, R243): one of the same core that meets its bytes, or of the same writing instruction in a lower gang lane (R208), one of the same slice to the same region of device or strongly-ordered pages, to the same scratchpad, or, for persist-writes, to the same line. -/
def Req.after (r q : Req) : Bool :=
  q.waiting && (r.window || !q.window) && (r.isLdfe || !q.isLdfe) &&
    (((decide (q.core = r.core) && !r.pipe || (decide (q.iid = r.iid) && r.writes)) && overlaps q.key q.size r.key r.size) ||
     (q.of r.slice &&
       ((decide (2 ≤ q.ty) && decide (2 ≤ r.ty) && decide (q.key / 2 ^ 16 = r.key / 2 ^ 16)) ||
        (decide (q.tier = 5) && decide (r.tier = 5) && decide (q.key / 2 ^ 20 = r.key / 2 ^ 20)) ||
        (decide (q.ty = 1) && r.isAtom && decide (lineOf q.key = lineOf r.key)) ||
        (q.persist && r.persist && q.writes && r.writes && decide (lineOf q.key = lineOf r.key)))))

/-- Two lanes of one atomic instruction on one location, performed in one run (R245). -/
def Req.runsWith (r q : Req) : Bool :=
  decide (q.iid = r.iid) && decide (q.key = r.key) && r.isAtom

/-- A request whose turn it is at its home: accepted, sent, and with nothing before it. A fabric page's request is performed by another device, and a CPYCNL's waits for its copies. -/
def State.turn (s : State) (id : Nat) (r : Req) : Bool :=
  r.waiting && decide (r.held = none) && !r.window && decide (r.tier ≠ 3) && decide (r.tier ≠ 6) && (decide (r.tier ≠ 2) || !s.dev.ide) &&
    s.reqs.all (fun e => !(decide (e.1 < id) && !r.runsWith e.2 && r.after e.2))

/-! ### Reads -/

/-- All full/empty bits of a range are full (R261). -/
def State.allFull (s : State) (key n : Nat) : Bool := (List.range (n / 4)).all (fun i => Sparse.get false s.mem.full (key / 4 + i))

/-- The end of the lease a home gives (R220): a renewal of an expired copy, or a fresh line. -/
def State.leaseEnd (s : State) (core line ck : Nat) : Nat :=
  let lease := (s.core core).lease
  let w := s.wtsOf line
  let renew := match s.copy? core line with
    | some c => decide (c.wts = w)
    | none => false
  max (s.rtsOf line) ((if renew then ck else max ck w) + lease)

/-- HOME_READ can act on a request. -/
def State.readReady (s : State) (id : Nat) : Bool :=
  match s.req id with
  | none => false
  | some r =>
    s.turn id r &&
      (match r.kind with
        | .load _ _ => true
        | .prefetch _ => true
        | .ldfe _ => s.allFull r.key r.size
        | _ => false)

/-- The bytes a load receives, with the stores of its own FENCE.SP window that are still held written over them in order (R229). -/
def State.withHeld (s : State) (id : Nat) (r : Req) (bs : List Byte) : List Byte :=
  (s.reqs.filter (fun e => e.2.window && decide (e.1 < id) && decide (s.gangKey e.2.slice = s.gangKey r.slice) && overlaps e.2.key e.2.size r.key r.size)).foldl
    (fun bs e => bs.zipIdx.map (fun b => if e.2.key ≤ r.key + b.2 ∧ r.key + b.2 < e.2.key + e.2.size then e.2.data.getD (r.key + b.2 - e.2.key) 0 else b.1)) bs

/-- The data of an MTLD access, which may miss writes that no MFENCE covers (R286, R289). -/
def State.pipeBytes (s : State) (r : Req) (bs : List Byte) : List Byte :=
  let xs := if r.pipe then s.missable r.slice r.wts r.key r.size else []
  if xs = [] then bs else lacking r.key xs (s.pick 0 (2 ^ xs.length)) bs

/-- What a load or an LDFE read at its home leaves of a host-bias line's traffic (R202): the request the device sends to the host. -/
def Req.hostAsk (r : Req) (write : Bool) : List Act :=
  if r.hb then [.send (if write then .cacheWrite r.key r.data else .cacheRead r.key)] else []

/-- The effects of a read at its home. -/
def State.readActs (s : State) (id : Nat) (r : Req) : List Act :=
  let line := lineOf r.key
  let cached := decide (r.key < dspKey)
  let psn := r.poison || s.localPsn r.key r.size
  let lease : List Act := if cached then [.times line (s.wtsOf line) (s.leaseEnd r.core line r.ck)] else []
  match r.kind with
  | .prefetch lv => lease ++ r.hostAsk false ++ s.fillActs r.core line r.ck (s.wtsOf line) (decide (lv = 0)) r.poison ++ [.setReq id none]
  | .ldfe _ =>
    .setReq id (some { r with state := .served (s.bytes r.key r.size) 0 psn }) :: (List.range (r.size / 4)).map (fun i => .full (r.key / 4 + i) false)
  | _ =>
    .setReq id (some { r with state := .served (s.pipeBytes r (s.withHeld id r (s.bytesAs r.key r.size r.keyid))) (if cached then s.wtsOf line else 0) psn })
      :: lease ++ r.hostAsk false
      ++ (if s.foreign r.key r.size r.keyid || r.pipe then [.draw 1] else [])
      ++ s.suspectActs r.key r.size r.keyid
      ++ (if cached && decide (r.ty = 0) then s.fillActs r.core line r.ck (s.wtsOf line) (!r.nt) r.poison else [])

/-- HOME_READ (R220). The home serves a read request with its line's bytes, wts and a new read lease; LDFE takes a full word and leaves it empty (R261). -/
def execHomeRead (id : Nat) (s : State) : Host.Outcome State Fault Refusal :=
  match s.req id with
  | some r => if s.readReady id then event s (s.readActs id r) else event s []
  | none => event s []

/-- The window of a slice (R229). -/
def State.windowOf (s : State) (sl : Nat) : Option SpWin := (s.ctl.windows.find? (fun e => match e.2 with
  | some w => w.slices.contains sl
  | none => false)).bind (fun e => e.2)
/-- The key of a window. -/
def SpWin.key (w : SpWin) : Nat := w.slices.headD 0

/-- A line read inside a window is recorded with the wts read (R229). (DEDUCED, assumption log 31) -/
def State.windowRead (s : State) (r : Req) (wts : Nat) (fromQueue : Bool) : List Act :=
  match s.windowOf r.slice with
  | none => []
  | some w => if w.iid < r.iid then [.window w.key (some { w with lines := (lineOf r.key, if fromQueue then none else some wts) :: w.lines })] else []

/-- Whether a lane's delivery is the last of its instruction in its slice. -/
def State.lastOf (s : State) (id : Nat) (r : Req) : Bool := s.reqs.all (fun e => decide (e.1 = id) || !(decide (e.2.slice = r.slice) && decide (e.2.iid = r.iid)))

/-- LOAD_DATA_RETURN can act on a request: the last lane of an LDFE acquires, and so waits for every earlier load and atomic of its slice (R261); MTLD writes all registers of a slice's lanes that did not park together (R289). -/
def State.returnReady (s : State) (id : Nat) : Bool :=
  match s.req id with
  | none => false
  | some r => (match r.state with
      | .served _ _ _ => true
      | _ => false)
    && (!r.isLdfe || !s.lastOf id r || s.reqs.all (fun e => !(e.2.of r.slice && decide (e.2.iid < r.iid) && e.2.pending)))
    && (!r.pipe || s.reqs.all (fun e => !(decide (e.2.iid = r.iid) && e.2.pipe && decide (e.2.state = .queued))))

/-- The acquire after the last lane of an LDFE (R261): Acquire(pk), or Acquire(cl) in the c space. -/
def State.ldfeAcquire (s : State) (id : Nat) (r : Req) : List Act :=
  if r.isLdfe && s.lastOf id r then (if r.nt then [.raiseCk r.core (s.core r.core).obsv] else []) ++ [.observe r.slice] else []

/-- The served requests that return together: those of one MTLD, else one (R289). -/
def State.returning (s : State) (id : Nat) (r : Req) : List (Nat × Req) :=
  if r.pipe then s.reqs.filter (fun e => decide (e.2.iid = r.iid) && e.2.pipe && decide (e.2.state ≠ .parked)) else [(id, r)]

/-- The registers, OBSV and window record of one returning request. -/
def State.returnActs (s : State) (id : Nat) (r : Req) : List Act :=
  match r.state with
  | .served data wts psn =>
    let w := match r.kind with
      | .load w _ => w
      | _ => if r.size = 8 then 3 else 2
    s.deliver r.slice (s.lastOf id r) [(r.lane, r.dsts, loadWords w data, psn, r.va)]
      ++ [.raiseObsv r.core wts, .setReq id none] ++ s.windowRead r wts r.seen ++ s.ldfeAcquire id r
  | _ => []

/-- LOAD_DATA_RETURN (R220). Load data returns and is written to its destination registers, raising OBSV. -/
def execLoadDataReturn (id : Nat) (s : State) : Host.Outcome State Fault Refusal :=
  match s.req id with
  | none => event s []
  | some r => if s.returnReady id then event s ((s.returning id r).flatMap (fun e => s.returnActs e.1 e.2)) else event s []

/-! ### Writes -/

/-- The requests performed in one run with a write: the lanes of one atomic instruction on one location, ascending (R245); the stores of a slice to one write-combining line, which leave the buffer merged (R195). -/
def State.runOf (s : State) (id : Nat) (r : Req) : List (Nat × Req) :=
  if r.isAtom then s.reqs.filter (fun e => decide (e.2.iid = r.iid) && decide (e.2.key = r.key) && e.2.waiting && e.2.writes)
  else if r.ty = 1 then s.reqs.filter (fun e => decide (e.2.slice = r.slice) && decide (e.2.kind = .store) && decide (e.2.ty = 1) && e.2.waiting && decide (e.2.held = none) && !e.2.window
    && decide (e.2.tier = r.tier) && decide (lineOf e.2.key = lineOf r.key))
  else [(id, r)]

/-- HOME_WRITE can act on a request: its turn, the first of its run, no older request before another of the run, a timestamp the die can store (R225), and no snapshot copy of its page still to be made (R394). -/
def State.writeReady (s : State) (id : Nat) : Bool :=
  match s.req id with
  | none => false
  | some r =>
    s.turn id r && r.writes && !s.snapKey r.key && decide (((s.runOf id r).headD (id, r)).1 = id) &&
      (s.runOf id r).all (fun m => decide (m.1 = id) || s.reqs.all (fun e => !(decide (e.1 < id) && m.2.after e.2))) &&
      (decide (dspKey ≤ r.key) || s.wsFits (lineOf r.key) (max r.ck (s.rtsOf (lineOf r.key)) + (s.runOf id r).length))

/-- The bytes a write leaves at its location. -/
def Req.newBytes (r : Req) (old : List Byte) : List Byte :=
  match r.kind with
  | .atom aop aw _ => atomBytes aop aw old r.data r.op2
  | _ => r.data

/-- The persist-write a performed request gives (R237): its own bytes; for an MDRAIN, with the last piece of a line, every byte of the line that the drain writes (R285). -/
def State.persistOf (s : State) (id : Nat) (r : Req) (line : Nat) (new : List Byte) : List Act :=
  let old := s.bytes (line * 64) 64
  let now := old.take (r.key % 64) ++ new ++ old.drop (r.key % 64 + new.length)
  let more := s.reqs.any (fun e => decide (e.1 ≠ id) && decide (e.2.iid = r.iid) && !r.cover.isEmpty && (e.2.waiting || decide (e.2.state = .forming)) && decide (lineOf e.2.key = line))
  if more then []
  else
    let offs := if r.cover = [] then (List.range new.length).map (fun i => r.key % 64 + i) else r.cover
    [.addPersist { slices := (r.slice, r.epoch) :: r.also, line := line, cells := offs.map (fun o => (o, now.getD o 0)), mark := r.poison || s.marked line, req := some id, die := dieOfCore r.core }]

/-- A run at its home, request by request: the bytes now there, the last write time and the next ws, and the acts so far; merged stores share the ws `top`. (DEDUCED, assumption log 28) -/
def State.runActs (s : State) (line : Nat) (timed psn : Bool) (top : Nat) : List (Nat × Req) → List Byte → Nat → Nat → List Act
  | [], _, _, _ => []
  | (id, r) :: rest, old, wts, rts =>
    let ws := if timed then (if r.isAtom then max r.ck (rts + 1) else top) else 0
    let before := if r.isAtom then old else s.bytes r.key r.size
    let new := r.newBytes old
    .store r.key new r.keyid
      :: .stale { slice := r.slice, key := r.key, old := before }
      :: .setReq id (some { r with state := .done ws before psn, wts := wts })
      :: (if timed then [.times line ws ws] else [])
      ++ (if r.persist then s.persistOf id r line new
        else if timed && !r.hb && decide (r.key < hostBase) then [.dirty line true] else [])
      ++ State.runActs s line timed psn top rest new ws ws

/-- The effects of a write at its home. -/
def State.homeWriteActs (s : State) (id : Nat) (r : Req) : List Act :=
  let line := lineOf r.key
  let timed := decide (r.key < dspKey)
  let run := s.runOf id r
  let old := if r.isAtom then s.bytesAs r.key r.size r.keyid else s.bytes r.key r.size
  let top := run.foldl (fun t e => max t e.2.ck) (s.rtsOf line + 1)
  let ws := if r.isAtom then run.foldl (fun rts e => max e.2.ck (rts + 1)) (s.rtsOf line) else top
  let writes := if r.isAtom then [(r.key, r.keyid, run.foldl (fun b e => e.2.newBytes b) old)] else run.map (fun e => (e.2.key, e.2.keyid, e.2.data))
  s.runActs line timed (s.localPsn r.key r.size) top run old (s.wtsOf line) (s.rtsOf line)
    ++ (if r.poison then [.mark line true] else if r.size = 64 ∧ r.kind = .store ∧ s.marked line then [.mark line false] else [])
    ++ (if timed then s.refreshCopy r.core line ws writes else [])
    ++ (if s.lpBacked r.asid r.va then [.undefMem r.key r.size] else [])
    ++ r.hostAsk true
    ++ (if r.kind ≠ .store then s.suspectActs r.key r.size r.keyid ++ (if s.foreign r.key r.size r.keyid then [.draw 1] else []) else [])

/-- HOME_WRITE (R221). The home performs a store, an atomic or a reduction and assigns its ws; a persist-write leaves for its OPQ (R237). -/
def execHomeWrite (id : Nat) (s : State) : Host.Outcome State Fault Refusal :=
  match s.req id with
  | some r => if s.writeReady id then event s (s.homeWriteActs id r) else event s []
  | none => event s []

/-- Entries an OPQ holds: 32 MiB, each persist-write counted as one 64-byte line (R9, R237). The spec gives bytes only (DESIGN CHOICE, assumption log 83). -/
def opqRoom : Nat := 524288
/-- Accepted entries of a die's OPQ, oldest first. -/
def State.opqEntries (s : State) (d : Nat) : List PWrite := Sparse.get [] s.opq.entries d
/-- The persist-writes on the way, oldest first. -/
def State.transit (s : State) : List (Nat × PWrite) := s.opq.transit.filterMap (fun e => e.2.map (fun w => (e.1, w)))
/-- The OPQ of a line (R237). -/
def PWrite.opq (w : PWrite) : Nat := homeDie (w.line * 64)
/-- A persist-write waits at its home because its OPQ is full, and its acknowledgement waits with it. -/
def State.ackHeld (s : State) (id : Nat) : Bool :=
  s.transit.any (fun e => decide (e.2.req = some id) && decide (opqRoom ≤ (s.opqEntries e.2.opq).length))

/-- STORE_ACK can act on a request. -/
def State.ackReady (s : State) (id : Nat) : Bool :=
  match s.req id with
  | none => false
  | some r => (match r.state with
    | .done _ _ _ => true
    | _ => false) && !s.ackHeld id

/-- STORE_ACK (R221). The acknowledgement returns ws: maxws rises, and an atomic's old value reaches its registers and raises OBSV. A load that took the store's value raises OBSV to its ws (R218). -/
def execStoreAck (id : Nat) (s : State) : Host.Outcome State Fault Refusal :=
  match s.req id with
  | none => event s []
  | some r =>
    match r.state with
    | .done ws old psn =>
      if s.ackHeld id then event s []
      else
        let aw := match r.kind with
          | .atom _ aw _ => aw
          | _ => 0
        let last := s.lastOf id r
        event s (.slice r.slice (.maxws ws) :: .setReq id none :: r.also.map (fun o => .slice o.1 (.maxws ws))
          ++ (if r.seen then [.raiseObsv r.core ws] else [])
          ++ (if r.dsts = [] then [] else
            .raiseObsv r.core r.wts :: s.deliver r.slice last [(r.lane, r.dsts, loadWords (if awRegs aw = 2 then 3 else 2) old, psn, r.va)]))
    | _ => event s []

/-- WC_BUFFER_DRAIN (R195). The stores gathered in the core's write-combining buffer leave it: after 256 ac, when more than 16 lines are held, or at a release. -/
def execWcBufferDrain (core : Nat) (s : State) : Host.Outcome State Fault Refusal :=
  event s ((s.reqs.filter (fun e => decide (e.2.core = core) && decide (e.2.held ≠ none) && !e.2.window)).map (fun e => .setReq e.1 (some { e.2 with held := none })))

/-! ### Replay of parked lanes (R211) -/

/-- The parked lanes of the instruction and slice of request r. -/
def State.parkedWith (s : State) (r : Req) : List (Nat × Req) :=
  s.reqs.filter (fun e => decide (e.2.slice = r.slice) && decide (e.2.iid = r.iid) && decide (e.2.state = .parked))

/-- How a watchpoint sees a request (R105): 1 a read, 2 a write, 3 both, 0 not at all. -/
def Req.watchKind (r : Req) : Nat :=
  match r.kind with
  | .load _ _ => 1
  | .ldfe _ => 1
  | .store => 2
  | .atom _ _ _ => 3
  | _ => 0

/-- The watchpoint test of a replayed lane, which follows its other tests (R105, R208, R211). -/
def State.replayWatch (s : State) (r : Req) (t : Target) : Except Cause Target :=
  let addr := match t with
    | .window _ va => va - s.lpVa r.slice r.lane 0
    | _ => r.va
  match (if r.watchKind = 0 then none else s.watchTrapAs r.quiet r.slice r.watchKind (max r.size 1) [(r.lane, addr)]) with
  | some w => .error ⟨w.code, w.info, w.addr.toNat⟩
  | none => .ok t

/-- Each parked lane's translation and tests, made again: the first loop of R208, then its second, then the watchpoint. -/
def State.replayTests (s : State) (r : Req) : List ((Nat × Req) × Except Cause Target × Except Cause Target × Except Cause Target) :=
  (s.parkedWith r).map (fun e =>
    let sl := e.2.slice
    let t := s.translate e.2.lane sl e.2.va e.2.writes
    let t1 := if decide (s.lpVa sl e.2.lane 0 ≤ e.2.va) && decide (e.2.va < s.lpVa sl e.2.lane (s.packOf sl).lpsize) then
        (match t with
          | .ok (.page p va) => Except.ok (Target.window p va)
          | other => other)
      else t
    let t2 := match t1 with
      | .ok x => if e.2.writes then s.writeTest sl e.2.field x else .ok x
      | .error c => .error c
    (e, t1, t2, match t2 with
      | .ok x => if x.here then s.replayWatch e.2 x else .ok x
      | .error c => .error c))

/-- The slices and lanes of an instruction that parked as a whole (R90). -/
def State.wholeWith (s : State) (r : Req) : List (Nat × List (Nat × Req)) :=
  let es := s.reqs.filter (fun e => decide (e.2.iid = r.iid) && decide (e.2.state = .parked) && (match e.2.kind with
    | .again _ => true
    | _ => false))
  (es.map (fun e => e.2.slice)).eraseDups.map (fun sl => (sl, es.filter (fun e => decide (e.2.slice = sl))))

/-- A lane that replays without a trap: its request goes to its home, or its lane-private access is made. -/
def State.replayLane (s : State) (id : Nat) (r : Req) (t : Target) : List Act :=
  match t with
  | .page p va =>
    match r.kind with
    | .cmo fn => s.cmoActs r.slice fn p va ++ [.setReq id none]
    | _ =>
    s.pageActs r.slice r.writes p va
      ++ [.setReq id (some { r.onPage p with state := .queued, key := p.key va, ck := (s.core r.core).ck, held := if p.ty = 1 && p.tier ≤ 2 && decide (r.kind = .store) then some s.run.ac else none, due := if p.tier = 3 then some s.remoteDue else none, poison := p.poison })]
      ++ s.backingActs r.slice va (p.key va) r.size
  | .window p va =>
    (match r.kind with
      | .store => s.pageActs r.slice true p va ++ s.windowStore r.slice p va r.data ++ [.setReq id none]
      | _ => s.pageActs r.slice false p va ++ [.setReq id (some { r with state := .served (s.bytesAs (p.key va) r.size p.keyid) 0 (p.poison || s.localPsn (p.key va) r.size) })])
  | .dsp key => (match r.kind with
    | .cmo _ => [.setReq id none]
    | _ => [.setReq id (some { r with state := .queued, key := key, tier := 4 })])
  | _ => []

/-- The replay of an instruction that parked as a whole (R27, R90): each slice is performed with the values read at issue, or traps at its own word with RPL = 0. (DEDUCED, assumption log 75) -/
def State.wholeReplay (s : State) (r : Req) : List Act :=
  let all := s.wholeWith r
  all.flatMap (fun x =>
    let res := match s.wholeTest (x.2.map (fun e => e.2)) with
      | .error t => Except.error t
      | .ok xs => s.wholeRun x.1 (xs.getD [])
    x.2.map (fun e => .setReq e.1 none) ++ (match res with
      | .ok as => as
      | .error t => [.trap x.1 { t with resume := some (r.pkt, r.word) }]))
    ++ all.map (fun x => .resplit x.1)

/-! ### Copies and clocks -/

/-- L2_WRITEBACK (R197). The home L2 writes a dirty line back, whole. -/
def execL2Writeback (line : Nat) (s : State) : Host.Outcome State Fault Refusal := event s (s.cleanActs line)

/-- LEASE_COPY_EVICTION (R220). A lease copy is dropped by its cache's own choice. -/
def execLeaseCopyEviction (copy : Nat) (s : State) : Host.Outcome State Fault Refusal := event s [.copy copy none]

/-- The largest clock a die's base allows (R225). (DESIGN CHOICE, assumption log 19) -/
def State.clockLimit (s : State) (d : Nat) : Nat := (s.die d).base + 2 ^ 20 - 1

/-- The ticks that are due on a core: one for every 64 ac since the last, as far as its die's base allows (R219, R225). (DESIGN CHOICE, assumption log 19) -/
def State.ticksDue (s : State) (core : Nat) : Nat :=
  let c := s.core core
  min ((s.run.ac - c.tick) / 64) (s.clockLimit (dieOfCore core) - c.ck)

/-- CLOCK_TICK (R219, R225). ck advances by the ticks that are due; a clock that reaches base + 2^19 starts a sweep (State.setCk). (DESIGN CHOICE, assumption log 19) -/
def execClockTick (core : Nat) (s : State) : Host.Outcome State Fault Refusal :=
  let c := s.core core
  let n := s.ticksDue core
  if n = 0 then event s [] else event s [.core core { c with ck := c.ck + n, tick := c.tick + (s.run.ac - c.tick) / 64 * 64 }]

/-- SWEEP_COMPLETE (R225). Every line of the die has been rewritten: a home time below the new base reads as the base (timeFloor), and a lease copy whose rts falls below it is dropped. -/
def execSweepComplete (die : Nat) (s : State) : Host.Outcome State Fault Refusal :=
  let x := s.die die
  match x.sweep with
  | none => event s []
  | some _ =>
    let drop := s.coh.copies.filter (fun e =>
      let agent := e.1 / 2 ^ 128
      let mine := if agent < 160 then decide (dieOfCore agent = die) else decide (agent = 160 + die)
      mine && (match e.2 with
        | some c => decide (c.rts < x.base)
        | none => false))
    event s (.die die { x with sweep := none } :: drop.map (fun e => .copy e.1 none))

end Sys2Proof.Machine
end

