-- ==== Sys2Proof/Machine/Fence.lean ====
section
/-! DEFINITION. Fences, IFENCE, PBAR and PSYNC, FENCE.SP's window, and the ordered persist queues (09_ordering R215, R226 to R241). The waits of a fence are those of State.releaseReady and State.acquireReady, by which the step holds its split back until it can complete. -/
namespace Sys2Proof.Machine

/-! ### Waits (R215, R227) -/

/-- The earlier requests of a slice: those of instructions before number iid. (DEDUCED, assumption log 14) (DEDUCED, assumption log 72) -/
def State.earlier (s : State) (sl iid : Nat) : List (Nat × Req) := s.reqs.filter (fun e => e.2.of sl && decide (e.2.iid < iid) && decide (e.2.tier ≠ 6))

/-- An acquire waits until every earlier load and atomic has written its registers. -/
def State.acquireReady (s : State) (sl iid : Nat) : Bool := (s.earlier sl iid).all (fun e => !e.2.pending)
/-- A fence of scope cl or wider raises ck no further than the die's base allows: it waits for the sweep (R225). (DESIGN CHOICE, assumption log 19) -/
def State.clockFits (s : State) (sl scope : Nat) : Bool :=
  decide (scope < 2) || decide (max (s.slice sl).maxws (s.core (s.coreOf sl)).obsv ≤ max (s.core (s.coreOf sl)).ck (s.clockLimit (dieOfCore (s.coreOf sl))))

/-- A release waits, by scope, until the earlier accesses of the slice stand as the table of R215 says. (DEDUCED, assumption log 14) -/
def State.releaseReady (s : State) (sl iid scope : Nat) : Bool :=
  (s.earlier sl iid).all (fun e =>
    let r := e.2
    !r.pending && decide (r.state ≠ .parked) && decide (r.state ≠ .forming) && decide (r.held = none) &&
      (decide (scope < 1) || !(decide (r.tier = 5) || (match r.kind with
        | .atom _ _ _ => r.waiting && decide (r.tier ≠ 3)
        | _ => false))) &&
      (decide (scope < 2) || !(r.writes && decide (r.tier ≤ 2))) &&
      (decide (scope < 3) || !(r.writes && decide (r.tier = 4))) &&
      (decide (scope < 5) || !(r.writes && decide (r.tier = 3))))

/-! ### Fences (R226 to R230) -/

/-- The scope of a group 0x2E word. -/
def View.scope (v : View) : Nat := v.b % 8

/-- FENCE.ACQ (R227). At issue every earlier load and atomic has written its registers; with scope cl or wider ck rises to OBSV. -/
def execFenceAcq (f : RF) (s : State) : Host.Outcome State Fault Refusal :=
  issue (.fenceAcq f) s (fun _ v sl => .ok (s.acquireActs sl v.scope))
/-- FENCE.REL (R227). At issue every earlier access meets the scope's release condition; with scope cl or wider ck rises to maxws, which starts again. (DEDUCED, assumption log 14) -/
def execFenceRel (f : RF) (s : State) : Host.Outcome State Fault Refusal :=
  issue (.fenceRel f) s (fun _ v sl => .ok (s.releaseActs sl v.scope))
/-- FENCE.AR (R227). A release and then an acquire. -/
def execFenceAr (f : RF) (s : State) : Host.Outcome State Fault Refusal :=
  issue (.fenceAr f) s (fun _ v sl => .ok (s.releaseActs sl v.scope ++ s.acquireActs sl v.scope))

/-- FENCE.SP (R229). The split goes on inside a window whose registers are checkpointed. -/
def execFenceSp (f : RF) (s : State) : Host.Outcome State Fault Refusal :=
  issueAll (.fenceSp f) s (fun c v =>
    sliceEffs c v (fun _ => .ok [])
      ++ [(none, .window (c.slices.headD 0) (some (s.checkpoint { scope := v.scope, pkt := c.pkt, word := c.word, nextPkt := c.nextPkt, nextWord := c.nextWord, iid := c.iid, slices := c.slices })))])

/-- The fence of a window can complete (R229): its release conditions hold for every slice, and the window's own loads have returned. -/
def State.windowReady (s : State) (w : SpWin) : Bool :=
  w.slices.all (fun sl => s.releaseReady sl w.iid w.scope && s.clockFits sl w.scope && (s.reqs.all (fun e => !(decide (e.2.slice = sl) && e.2.pending))))

/-- The acquire time of a window (R229). -/
def State.windowTime (s : State) (w : SpWin) : Nat :=
  let core := s.coreOf (w.slices.headD 0)
  maxOf ([(s.core core).ck, (s.core core).obsv] ++ w.slices.map (fun sl => (s.slice sl).maxws))

/-- The core's copy of a line read in a window still satisfies T ≤ rts (R229). -/
def State.copyValid (s : State) (core t line w : Nat) : Bool :=
  match s.copy? core line with
  | some c => decide (c.wts = w) && decide (t ≤ c.rts)
  | none => false
/-- A line read in a window passes (R229): its copy still holds the wts read with T ≤ rts, or the home's wts equals the wts read. (DEDUCED, assumption log 31) -/
def State.lineValid (s : State) (core t : Nat) (l : Nat × Option Nat) : Bool :=
  match l.2 with
  | none => false
  | some w => s.copyValid core t l.1 w || decide (s.wtsOf l.1 = w)

/-- The renewal at its home of a line whose copy does not pass by itself (R220, R229). -/
def State.renewActs (s : State) (core t : Nat) (l : Nat × Option Nat) : List Act :=
  match l.2 with
  | none => []
  | some w =>
    if s.copyValid core t l.1 w || decide (s.wtsOf l.1 ≠ w) then []
    else .times l.1 w (max (s.rtsOf l.1) (t + (s.core core).lease)) :: (match s.copy? core l.1 with
      | some c => if c.wts = w then [.copy (copyKey core l.1) (some { c with rts := t + (s.core core).lease, fill := s.run.ac })] else []
      | none => [])

/-- FENCE_SP_VALIDATE (R229, R230). The speculative fence completes: ck rises to T; when every line read in the window passes, the held stores are sent in program order, else the gang rolls back to its checkpoint, the held stores are discarded and the slices go on after the fence. (DEDUCED, assumption log 31) -/
def execFenceSpValidate (gang : Nat) (s : State) : Host.Outcome State Fault Refusal :=
  match Sparse.get none s.ctl.windows gang with
  | none => event s []
  | some w =>
    if !s.windowReady w then event s []
    else
      let core := s.coreOf (w.slices.headD 0)
      let t := s.windowTime w
      let held := s.reqs.filter (fun e => e.2.window && w.slices.contains e.2.slice)
      let ok := w.lines.all (s.lineValid core t)
      event s (.raiseCk core t :: w.slices.map (fun sl => .slice sl .clearMaxws) ++ w.slices.flatMap (fun sl => [.freshSlice sl, .observe sl])
        ++ w.lines.flatMap (s.renewActs core t)
        ++ (if ok then held.map (fun e => .setReq e.1 (some { e.2 with window := false, ck := max e.2.ck t }))
          else held.map (fun e => .setReq e.1 none) ++ [.rollback w false])
        ++ [.window gang none])

/-- IFENCE (R235). Acquire at the scope; the core's instruction cache is discarded. -/
def execIfence (f : RF) (s : State) : Host.Outcome State Fault Refusal :=
  issue (.ifence f) s (fun _ v sl => .ok (s.acquireActs sl v.scope ++ [.icacheDrop (s.coreOf sl)]))

/-! ### Persistence (R237 to R241) -/

/-- PBAR (R239). Ends the slice's persist epoch and starts the next. -/
def execPbar (f : RF) (s : State) : Host.Outcome State Fault Refusal :=
  issue (.pbar f) s (fun _ v sl => .ok [.slice sl (.pbar v.scope)])
/-- PSYNC (R240). At issue every earlier persist-write of the slice within the scope has been accepted. -/
def execPsync (f : RF) (s : State) : Host.Outcome State Fault Refusal :=
  issue (.psync f) s (fun _ _ _ => .ok [])

/-- The copies accepted and not completed. -/
def State.jobs (s : State) : List CopyJob := s.cpy.queues.flatMap (fun e => e.2.jobs)
/-- Some destination page of a copy is a persist page (R305). -/
def State.persistDest (s : State) (j : CopyJob) : Bool :=
  decide (j.sd = 0) && (j.d.dstRanges 0).any (fun r => (List.range (r.2 / 65536 + 2)).any (fun i =>
    match s.walk (s.pack j.pack).asid (min (r.1 + i * 65536) (r.1 + r.2 - 1)) with
    | .ok p => decide (p.tier = 1) && p.p
    | .error _ => false))
/-- A PORD copy may still make persist-writes. -/
def State.pordLeft (s : State) (j : CopyJob) : Bool :=
  j.d.pord && (!j.lines.isEmpty || j.flight.any (fun f => f.2.any (fun q => q.persist)) || (j.stop.isNone && decide (j.next < j.d.chunks) && s.persistDest j))

/-- Persist-writes of a slice in epochs up to e that are not yet accepted: on their way to one OPQ (or any). -/
def State.persistLeft (s : State) (sl e : Nat) (opq : Option Nat) : Bool :=
  s.transit.any (fun x => x.2.slices.any (fun y => decide (y.1 = sl) && decide (y.2 ≤ e)) && (match opq with
      | some o => decide (x.2.opq = o)
      | none => true))
    || s.reqs.any (fun x => x.2.of sl && decide (x.2.epochOf sl ≤ e) && x.2.writes &&
      (decide (x.2.state = .parked) || (x.2.persist && x.2.waiting && (match opq with
        | some o => decide (homeDie x.2.key = o)
        | none => true))))
    || s.jobs.any (fun j => decide (j.slice = sl) && decide (j.epoch ≤ e) && s.pordLeft j)

/-- Remote writes of a slice in epochs up to e not yet acknowledged or timed out (R239). -/
def State.remoteLeft (s : State) (sl e : Nat) : Bool :=
  s.reqs.any (fun x => x.2.of sl && decide (x.2.epochOf sl ≤ e) && x.2.writes && (decide (x.2.tier = 3) || decide (x.2.state = .parked)))

/-- PSYNC's wait (R240). (DEDUCED, assumption log 72) -/
def State.psyncReady (s : State) (sl scope : Nat) : Bool :=
  let e := (s.slice sl).epoch
  !s.persistLeft sl e (if scope = 3 then some (dieOfCore (s.coreOf sl)) else none) && (decide (scope < 5) || !s.remoteLeft sl e)

/-- An epoch that a dev- or pod-scope PBAR ended is closed (R239): nothing of it or of an earlier epoch is left. -/
def State.epochClosed (s : State) (sl e scope : Nat) : Bool :=
  !s.persistLeft sl e none && (decide (scope < 5) || !s.remoteLeft sl e)

/-- Every PBAR of the slice before epoch e lets a write of epoch e into OPQ o (R239). (DEDUCED, assumption log 72) -/
def State.barsPassed (s : State) (sl e o die : Nat) : Bool :=
  (s.slice sl).pbars.all (fun b =>
    decide (e ≤ b.1) ||
      (if b.2 = 3 then decide (o ≠ die) || !s.persistLeft sl b.1 (some o)
       else s.opq.notices.contains (sl, b.1, o)))

/-- A PORD write's turn (R305): every line its copy writes before it in copy order has been accepted. -/
def State.copyTurn (s : State) (w : PWrite) : Bool :=
  match w.copy with
  | none => true
  | some (uid, pos) => !w.pord ||
    (s.transit.all (fun e => match e.2.copy with
        | some (u, p) => !(decide (u = uid) && decide (p < pos))
        | none => true)
      && s.jobs.all (fun j => decide (j.uid ≠ uid) ||
        (j.lines.all (fun l => decide (pos ≤ l.pos)) && j.flight.all (fun f => f.2.all (fun q => !q.persist || decide (pos ≤ q.pos))))))

/-- A persist-write can be accepted (R237 to R239, R305): its OPQ has room, no earlier one of the same line and slice and no earlier PORD write of the same slice is on its way, and the slice's PBARs let it in. -/
def State.acceptReady (s : State) (id : Nat) : Bool :=
  match Sparse.get none s.opq.transit id with
  | none => false
  | some w =>
    decide ((s.opqEntries w.opq).length < opqRoom)
      && s.transit.all (fun e => !(decide (e.1 < id) &&
        (decide (e.2.line = w.line) && e.2.slices.any (fun x => w.slices.any (fun y => decide (x.1 = y.1))))))
      && s.copyTurn w
      && w.slices.all (fun y => s.barsPassed y.1 y.2 w.opq w.die)

/-- PERSIST_ACCEPT (R237). An OPQ accepts a persist-write, which is durable from now on. -/
def execPersistAccept (id : Nat) (s : State) : Host.Outcome State Fault Refusal :=
  match Sparse.get none s.opq.transit id with
  | none => event s []
  | some w =>
    if s.acceptReady id then
      event s [.opq { s.opq with transit := Sparse.set none s.opq.transit id none, entries := Sparse.set [] s.opq.entries w.opq (s.opqEntries w.opq ++ [w]) }]
    else event s []

/-- EPOCH_CLOSED_NOTICE can arrive. -/
def State.noticeReady (s : State) (sl e opq : Nat) : Bool :=
  (s.slice sl).pbars.any (fun b => decide (b.1 = e) && decide (b.2 ≠ 3) && s.epochClosed sl e b.2) && !s.opq.notices.contains (sl, e, opq)

/-- EPOCH_CLOSED_NOTICE (R239). An OPQ receives "epoch e closed" and lets held writes of the next epoch in. -/
def execEpochClosedNotice (slice epoch opq : Nat) (s : State) : Host.Outcome State Fault Refusal :=
  if s.noticeReady slice epoch opq then event s [.opq { s.opq with notices := (slice, epoch, opq) :: s.opq.notices }] else event s []

/-- The SCM array after an entry drains: its bytes and its mark (R241). -/
def PWrite.drainActs (w : PWrite) : List Act := w.cells.map (fun c => .array (w.line * 64 + c.1) [c.2]) ++ [.arrayMark w.line w.mark]

/-- OPQ_DRAIN (R237). The oldest accepted entry of a die's OPQ reaches its SCM stack, and its room is free. -/
def execOpqDrain (die : Nat) (s : State) : Host.Outcome State Fault Refusal :=
  match s.opqEntries die with
  | [] => event s []
  | w :: rest => event s (w.drainActs ++ [.opq { s.opq with entries := Sparse.set [] s.opq.entries die rest }])

end Sys2Proof.Machine
end

