-- ==== Sys2Proof/Machine/Tile.lean ====
section
/-! DEFINITION. Accumulator tiles (11_matrix R262 to R264), the active lanes and votes of a matrix or copy instruction (R263, R279), and the bytes of its rows (R148, R270). -/
namespace Sys2Proof.Machine

/-! ### Tiles -/

/-- Key of tile k of a gang. -/
def tileKey (g k : Nat) : Nat := g * 4 + k
/-- Key of an element. -/
def elKey (tile i j : Nat) : Nat := tile * 4096 + i * 64 + j
/-- A tile's state. -/
def State.tileSt (s : State) (t : Nat) : TileSt := Sparse.get {} s.mat.tiles t
/-- An element's pair. -/
def State.el (s : State) (tile i j : Nat) : Word × Word := Sparse.get (0, 0) s.mat.els (elKey tile i j)
/-- An element's poison mark. -/
def State.elMark (s : State) (tile i j : Nat) : Bool := Sparse.get false s.mat.marks (elKey tile i j)
/-- The tile is allocated to the gang (R262). -/
def State.tileHere (s : State) (g k : Nat) : Bool := decide ((s.gang g).accmap / 2 ^ k % 2 = 1)
/-- The outstanding MMAs, oldest first. -/
def State.mmas (s : State) : List (Nat × Mma) := s.mat.mmas.filterMap (fun e => e.2.map (fun m => (e.1, m)))
/-- One MMA. -/
def State.mma? (s : State) (id : Nat) : Option Mma := Sparse.get none s.mat.mmas id
/-- The outstanding MMAs on a tile. -/
def State.mmasOn (s : State) (tile : Nat) : List (Nat × Mma) := s.mmas.filter (fun e => decide (e.2.tile = tile))
/-- A quadrant's engine. -/
def State.engine (s : State) (q : Nat) : Engine := Sparse.get {} s.mat.engines q

/-! ### The frame of a matrix instruction -/

/-- An active lane of an instruction: its gang lane number, its slice and its lane there. -/
structure MLane where
  n : Nat
  sl : Nat
  l : Nat
  deriving DecidableEq, Repr

/-- The active lanes of a split in ascending gang lane order (R122, R263). -/
def State.mlanes (s : State) (slices : List Nat) (pg : Nat) : List MLane :=
  slices.flatMap (fun sl => (s.activeLanes sl pg).map (fun l => ⟨4 * (s.slice sl).gslot + l, sl, l⟩))

/-- The traps of slices: (slice, trap). -/
abbrev Traps := List (Nat × Trap)

/-- Every slice with an active lane takes a trap; TRAPLANES names its lanes that `bad` picks out. -/
def trapAll (act : List MLane) (t : Trap) (bad : MLane → Bool) : Traps :=
  ((act.map (fun a => a.sl)).eraseDups).map (fun sl => (sl, { t with lanes := laneMask (((act.filter (fun a => decide (a.sl = sl) && bad a))).map (fun a => a.l)) }))

/-- The effects of a matrix or copy instruction that acts on its split as a whole: slices that fail the operand tests trap (R96 step 3); the others give the active lanes of `body`, whose traps are those of the instruction's entry. -/
def State.wholeEffs (s : State) (c : Cur) (v : View) (body : List MLane → Except Traps (List Eff)) : List Eff :=
  let ops := c.slices.filterMap (fun sl => (s.operandTrap v s.ext sl (s.activeLanes sl v.pg)).map (fun t => (sl, t)))
  let left := c.slices.filter (fun sl => !(ops.any (fun e => decide (e.1 = sl))))
  let act := s.mlanes left v.pg
  let r : Traps × List Eff := if act = [] then ([], []) else
    match body act with
    | .error ts => (ts, [])
    | .ok es => ([], es)
  let traps := ops ++ r.1
  sliceEffs c v (fun sl => match traps.find? (fun e => decide (e.1 = sl)) with
    | some e => .error e.2
    | none => .ok []) ++ r.2

/-- A matrix instruction that names a tile: an unallocated one takes the illegal-instruction trap before the operands are tested (R262). -/
def State.tileEffs (s : State) (c : Cur) (v : View) (k : Nat) (body : List MLane → Except Traps (List Eff)) : List Eff :=
  let g := s.gangKey (c.slices.headD 0)
  if s.tileHere g k then s.wholeEffs c v body
  else sliceEffs c v (fun sl => if s.activeLanes sl v.pg = [] then .ok [] else .error (s.illegal sl v.op))

/-- Vote (R279): the value all lanes hold, or the traps. -/
def voteOn {α : Type} [DecidableEq α] (act : List MLane) (f : MLane → α) (code op : Nat) (dflt : α) : Except Traps α :=
  match act with
  | [] => .ok dflt
  | a :: _ => if act.all (fun x => decide (f x = f a)) then .ok (f a) else .error (trapAll act { code := code, info := op } (fun x => decide (f x ≠ f a)))

/-- Register k after the first register of a field, in an active lane. -/
def State.descReg (s : State) (field n k : Nat) (a : MLane) : Word := s.file (laneKey a.sl a.l) (s.regOf a.sl a.l field n + k)
/-- A 64-bit value in registers k and k + 1. -/
def State.descPair (s : State) (field n k : Nat) (a : MLane) : Nat := (s.descReg field n k a).toNat + (s.descReg field n (k + 1) a).toNat * 2 ^ 32
/-- An address in a descriptor: a VA for g, the low register for s and c. -/
def State.descAddr (s : State) (field n k space : Nat) (a : MLane) : Nat := if space = 0 then s.descPair field n k a else (s.descReg field n k a).toNat

/-- Bits of an element's container (R148, R270). -/
def elemBits (fw : Word) : Nat := match fwWidth fw with
  | 0 => 16
  | 1 => 16
  | 2 => 32
  | 4 => 4
  | _ => 8
/-- Bytes of n elements of a row. -/
def rowBytes (fw : Word) (n : Nat) : Nat := (n * elemBits fw + 7) / 8
/-- lds (R270). -/
def ldsOf (fw : Word) (ld : Nat) : Nat := if elemBits fw = 4 then ld / 32 else ld / 64
/-- All results, or the first stop. -/
def allOk {α ε : Type} : List (Except ε α) → Except ε (List α)
  | [] => .ok []
  | .error e :: _ => .error e
  | .ok x :: r => match allOk r with
    | .ok l => .ok (x :: l)
    | .error e => .error e

/-- A list in pieces of n. -/
def pieces {α : Type} (n : Nat) : Nat → List α → List (List α)
  | 0, _ => []
  | fuel + 1, l => if l = [] then [] else l.take n :: pieces n fuel (l.drop n)

/-- The vote over several registers of a block, the first that differs (R279). -/
def State.voteRegs (s : State) (act : List MLane) (field n op : Nat) : List Nat → Except Traps Unit
  | [] => .ok ()
  | k :: ks => match voteOn act (s.descReg field n k) 0x13 op 0 with
    | .error t => .error t
    | .ok _ => State.voteRegs s act field n op ks

/-- A format word refused as an operand or an output: the traps, with the word in TRAPADDRLO (R147). -/
def formatTraps (act : List MLane) (op : Nat) (w : Word) : Traps := trapAll act { code := 0x15, info := op, addr := w.setWidth 64 } (fun _ => true)

/-- The two rows a gang lane owns (R263). -/
def ownRows (n : Nat) : List Nat := [n, n + 32]

end Sys2Proof.Machine
end

