-- ==== Sys2Proof/Machine/Drain.lean ====
section
/-! DEFINITION. MDRAIN (11_matrix R283 to R285): its checks, its writes row block by row block behind the watermark, and the replay of parked accesses (08_memory R211), which is a whole MDRAIN's too (R284). -/
namespace Sys2Proof.Machine

/-! ### Rows as bytes (R151, R154, R283) -/

/-- The codes of a row's values in a format, and its scale byte (R151, R154). -/
def quantRow (fw : Word) (vs : List Num) : List Nat × Nat :=
  let f := fwFmt fw
  if !fwScaled fw then (vs.map (fun x => (roundToWord fw x).1), 0)
  else
    let mags := vs.filterMap (fun x => match x with
      | .fin _ n d => some (n, d)
      | _ => none)
    let top := mags.foldl (fun (b : Nat × Nat) x => if b.1 * x.2 < x.1 * b.2 then x else b) (0, 1)
    let zero := vs.all (fun x => match x with
      | .fin _ n _ => decide (n = 0)
      | _ => false)
    let byte := if zero then 0x80 else if top.1 = 0 then 0x00 else scaleFor f top.1 top.2
    if zero then (vs.map (fun _ => 0), 0x80)
    else
      let (p, q) := (multiplier (BitVec.ofNat 8 byte)).getD (1, 1)
      (vs.map (fun x => (roundToWord fw (Num.mul x (.fin false q p)).1).1), byte)

/-- The bytes of a row of codes (R148, R283). -/
def packRow (fw : Word) (codes : List Nat) : List Byte :=
  match elemBits fw with
  | 4 => (pieces 2 codes.length codes).map (fun p => BitVec.ofNat 8 (p.getD 0 0 % 16 + p.getD 1 0 % 16 * 16))
  | n => codes.flatMap (fun x => leBytes (n / 8) x)

/-- Which of those bytes hold an element with a mark (R274). -/
def packMarks (fw : Word) (ms : List Bool) : List Bool :=
  match elemBits fw with
  | 4 => (pieces 2 ms.length ms).map (fun p => p.any (fun b => b))
  | n => ms.flatMap (fun b => List.replicate (n / 8) b)

/-- A tile element's value and mark. -/
def State.elVal (s : State) (t i j : Nat) : Num := tileValue (s.el t i j).1.toNat (s.el t i j).2.toNat

/-- A piece of a drain's output within one destination line: the output (0 rows, 1 their scale bytes, 2 transposed rows, 3 their scale bytes), the row, the first byte of the row, its address and length, and its space. -/
structure Piece where
  out : Nat
  row : Nat
  off : Nat
  addr : Nat
  len : Nat
  space : Nat
  deriving DecidableEq, Repr

/-- Cut a piece at the lines it lies on. -/
def Piece.lines (p : Piece) : List Piece :=
  (List.range (p.len / 64 + 2)).filterMap (fun k =>
    let lo := max p.addr ((p.addr / 64 + k) * 64)
    let hi := min (p.addr + p.len) ((p.addr / 64 + k + 1) * 64)
    if lo < hi then some { p with off := lo - p.addr, addr := lo, len := hi - lo } else none)

/-- The pieces of one output (R283): rows of elements and, for a scaled format, the scale plane after 64 rows. -/
def outPieces (out space : Nat) (fw : Word) (dest ld : Nat) (rows : List Nat) : List Piece :=
  rows.flatMap (fun i => Piece.lines ⟨out, i, 0, dest + i * ld, rowBytes fw 64, space⟩
    ++ (if fwScaled fw then [⟨out + 1, i, 0, dest + 64 * ld + i * ldsOf fw ld, 1, space⟩] else []))

/-- The rows a drain's active lanes own, ascending. -/
def Drain.rows (d : Drain) : List Nat := (List.range 64).filter (fun i => d.lanes.contains (i % 32))

/-- All pieces of a drain, in the order in which they are written (R284). -/
def Drain.pieces (d : Drain) : List Piece :=
  outPieces 0 d.sp1 d.fmt1 d.dest d.ld d.rows ++ (if d.tr then outPieces 2 d.sp2 d.fmt2 d.tdest d.tld (List.range 64) else [])

/-- The bytes of a piece from the tile as it stands, and whether one of its elements, or for a scale byte one of its segment, carries a mark (R274, R284). -/
def State.pieceBytes (s : State) (d : Drain) (out row off len : Nat) : List Byte × Bool :=
  let at_ := fun (k : Nat) => if out < 2 then (row, k) else (k, row)
  let fw := if out < 2 then d.fmt1 else d.fmt2
  let ks := List.range 64
  let q := quantRow fw (ks.map (fun k => s.elVal d.tile (at_ k).1 (at_ k).2))
  let ms := ks.map (fun k => s.elMark d.tile (at_ k).1 (at_ k).2)
  if out % 2 = 1 then ([BitVec.ofNat 8 q.2], ms.any (fun b => b))
  else (((packRow fw q.1).drop off).take len, (((packMarks fw ms).drop off).take len).any (fun b => b))

/-- A row is final for a drain (R264, R285): every MMA before it has passed it; once one of them was suspended, the tile's watermark has (R276). -/
def State.finalFor (s : State) (d : Drain) (row : Nat) : Bool :=
  match d.before with
  | some n => (s.mmasOn d.tile).all (fun e => decide (n ≤ e.1) || decide (row < e.2.row))
  | none => decide (row < (s.tileSt d.tile).wm)
/-- A piece can be written: its row block is final, for the transposed copy the whole tile (R284). -/
def State.pieceReady (s : State) (d : Drain) (out row : Nat) : Bool := if out < 2 then s.finalFor d (row / 8 * 8 + 7) else s.finalFor d 63

/-! ### Translation (R208, R284) -/

/-- Where a piece goes: the first loop of R208. -/
def State.pieceTarget (s : State) (d : Drain) (p : Piece) : Except Cause Target :=
  if p.space = 0 then s.translate 0 d.lead (p.addr % 2 ^ 64) true
  else (s.localAt d.lead p.space (p.addr % 2 ^ 32) p.len).map Target.scratch

/-- The first cause of a list. -/
def firstCause {α : Type} : List (Except Cause α) → Option Cause
  | [] => none
  | .error c :: _ => some c
  | .ok _ :: r => firstCause r

/-- The watchpoint that a drain's writes meet (R105). (DEDUCED, assumption log 89) -/
def State.drainWatch (s : State) (d : Drain) (ps : List Piece) : Option Cause :=
  ps.findSome? (fun p => (s.watchTrapAs d.quiet d.lead 2 p.len [(0, if p.space = 0 then p.addr % 2 ^ 64 else p.addr % 2 ^ 32)]).map (fun t => ⟨t.code, t.info, t.addr.toNat⟩))

/-- The tests of a drain in the order of R284: bounds of every piece in the s and c spaces, translation of every page, then permission, POISON and WPW, then the watchpoint. The answer is each piece's target. -/
def State.drainTest (s : State) (d : Drain) : Except Cause (List (Piece × Target)) :=
  let ps := d.pieces
  let t1 := ps.map (s.pieceTarget d)
  let local_ := (ps.zip t1).filterMap (fun x => if x.1.space = 0 then none else some x.2)
  match firstCause local_ <|> firstCause t1 with
  | some c => .error c
  | none =>
    let t2 := t1.map (fun t => match t with
      | .ok x => s.writeTest d.lead d.field x
      | .error c => .error c)
    match firstCause t2 with
    | some c => .error c
    | none =>
      let ts := ps.zip (t2.filterMap (fun t => match t with
        | .ok x => some x
        | .error _ => none))
      if ts.all (fun x => x.2.here) then (match s.drainWatch d ps with
        | some c => .error c
        | none => .ok ts)
      else .ok ts

/-- The pages a drain waits for. -/
def missingPages (ts : List (Piece × Target)) : List Nat := (ts.filterMap (fun x => match x.2 with
  | .park va => some (va / 65536 * 65536)
  | _ => none)).eraseDups

/-! ### Writing (R285) -/

/-- The offsets of a memory line that the pieces of a drain write (R285). -/
def lineCover (ps : List (Nat × Nat)) (line : Nat) : List Nat :=
  (List.range 64).filter (fun o => ps.any (fun p => decide (p.1 ≤ line * 64 + o) && decide (line * 64 + o < p.1 + p.2)))

/-- The write of one piece as a request, without its bytes: a store of every slice of the split (R234, R285). -/
def State.pieceReq (s : State) (d : Drain) (p : Piece) (key : Nat) : Req :=
  { slice := d.lead, lane := 0, iid := d.iid, core := d.core, kind := .store, state := .forming, va := p.addr, key := key, size := p.len, ck := d.ck,
    epoch := ((d.slices.find? (fun x => decide (x.1 = d.lead))).map (fun x => x.2)).getD 0, pkt := d.pkt, word := d.word, asid := (s.packOf d.lead).asid,
    also := d.slices.filter (fun x => decide (x.1 ≠ d.lead)), out := some (d.id, p.out, p.row, p.off) }

/-- A piece's request with its target. -/
def State.pieceOn (s : State) (d : Drain) (keys : List (Nat × Nat)) (p : Piece) (t : Target) : Option Req :=
  match t with
  | .scratch key => some { s.pieceReq d p key with tier := 7 }
  | .dsp key => some { s.pieceReq d p key with tier := 4 }
  | .page pg va =>
    let r := (s.pieceReq d p (pg.key va)).onPage pg
    some { r with poison := false, cover := if r.persist then lineCover keys (lineOf (pg.key va)) else [], held := if pg.ty = 1 ∧ pg.tier ≤ 2 then some s.run.ac else none, due := if pg.tier = 3 then some s.remoteDue else none }
  | _ => none

/-- The acts that write a piece whose bytes are known: at once to a scratchpad, else MEM accepts a store. `id` is its request, when it has one already. -/
def State.pieceWrite (s : State) (d : Drain) (id : Option Nat) (r : Req) : List Act :=
  let o := r.out.getD (0, 0, 0, 0)
  let b := s.pieceBytes d o.2.1 o.2.2.1 o.2.2.2 r.size
  if r.tier = 7 then
    .stale { slice := r.slice, key := r.key, old := s.bytes r.key r.size } :: localStore r.key 0 b.1 ++ (if b.2 then [.mark (lineOf r.key) true] else [])
      ++ (match id with
        | some i => [.setReq i none]
        | none => [])
  else
    let q := { r with state := .queued, data := b.1, poison := b.2, ck := (s.core r.core).ck }
    match id with
    | some i => [.setReq i (some q)]
    | none => [.addReq q]

/-- The clearing at the end of a drain (R284). -/
def Drain.clears (d : Drain) : List Act :=
  if d.clr then d.rows.flatMap (fun i => (List.range 64).map (fun j => .el (elKey d.tile i j) (0, 0) false)) else []

/-- A drain whose pages are there: the pieces of final rows are written, the others are formed and written as their blocks become final; `queue` is the list of drains without it. -/
def State.drainGo (s : State) (d : Drain) (queue : List Drain) (next : Nat) (ts : List (Piece × Target)) : List Act :=
  let keys := ts.filterMap (fun x => match x.2 with
    | .page pg va => some (pg.key va, x.1.len)
    | _ => none)
  let whole := ts.all (fun x => s.pieceReady d x.1.out x.1.row)
  (ts.flatMap (fun x => (match x.2 with
      | .page pg va => s.pageActs d.lead true pg va
      | _ => []) ++ (match s.pieceOn d keys x.1 x.2 with
      | none => []
      | some r => if s.pieceReady d x.1.out x.1.row then s.pieceWrite d none r else [.addReq r])))
    ++ (if whole then .drains queue next :: d.clears else [.drains (queue ++ [{ d with going := true }]) next])

/-- The formed writes of a drain. -/
def State.formedOf (s : State) (d : Drain) : List (Nat × Req) := s.reqs.filter (fun e => decide (e.2.state = .forming) && decide ((e.2.out.map (fun o => o.1)) = some d.id))

/-- A drain goes on: what has become final is written, and after its last piece it ends. -/
def State.drainOn (s : State) (d : Drain) : List Act :=
  let fs := s.formedOf d
  let now := fs.filter (fun e => s.pieceReady d (e.2.out.getD (0, 0, 0, 0)).2.1 (e.2.out.getD (0, 0, 0, 0)).2.2.1)
  now.flatMap (fun e => s.pieceWrite d (some e.1) e.2)
    ++ (if now.length = fs.length then .drains (s.mat.drains.filter (fun x => decide (x.id ≠ d.id))) s.mat.nextDrain :: d.clears else [])

/-- The drains of a tile go on, oldest first (R285). -/
def State.tileDrains (s : State) (tile : Nat) : List Act :=
  s.chain ((s.mat.drains.filter (fun d => decide (d.tile = tile) && d.going)).map (fun d => fun s => s.drainOn d))

/-- The requests that keep a parked drain's pages wanted (R211, R284). -/
def State.drainParks (s : State) (d : Drain) (vas : List Nat) : List Act :=
  vas.map (fun va => .addReq { s.pieceReq d ⟨0, 0, 0, va, 1, 0⟩ 0 with kind := .drain d.id, state := .parked, out := none })

/-! ### The instruction -/

/-- The checks of MDRAIN before translation (R284): whether a transposed copy is written. -/
def State.drainChecks (s : State) (v : View) (act : List MLane) (sp1 sp2 : Nat) : Except Traps Bool :=
  let first := act.headD ⟨0, 0, 0⟩
  let tr := decide (sp2 ≠ 0) || decide (s.descPair v.a 8 4 first ≠ 0)
  let okOut := fun (w : Word) => decide (fwReason w = 0)
  match voteOn act (s.descReg v.a 8 3) 0x14 v.op 0 with
  | .error t => .error t
  | .ok f1 =>
  match (if tr then voteOn act (s.descReg v.a 8 6) 0x14 v.op 0 else .ok 0) with
  | .error t => .error t
  | .ok f2 =>
  if !okOut f1 then .error (formatTraps act v.op f1)
  else if tr && !okOut f2 then .error (formatTraps act v.op f2)
  else
  match s.voteRegs act v.a 8 v.op [0, 1, 2, 4, 5, 7] with
  | .error t => .error t
  | .ok _ =>
  if tr && decide (act.length ≠ 32) then .error (trapAll act { code := 0x12, info := v.op } (fun _ => true))
  else
    let d1 := s.descAddr v.a 8 0 sp1 first
    let d2 := s.descAddr v.a 8 4 sp2 first
    let ld := (s.descReg v.a 8 2 first).toNat
    let tld := (s.descReg v.a 8 7 first).toNat
    let mis := fun (addr : Nat) => Except.error (trapAll act { code := 0x0F, info := 4, addr := BitVec.ofNat 64 addr } (fun _ => true))
    if d1 % 16 ≠ 0 ∨ ld % 16 ≠ 0 then mis d1
    else if (tr ∧ d2 % 16 ≠ 0) ∨ tld % 16 ≠ 0 then mis d2
    else .ok tr

/-- The drain of an MDRAIN from the descriptor of its lowest active lane. -/
def State.drainOf (s : State) (c : Cur) (v : View) (act : List MLane) (tr : Bool) : Drain :=
  let x := extPay s.ext
  let first := act.headD ⟨0, 0, 0⟩
  let r := fun (k : Nat) => s.descReg v.a 8 k first
  let g := s.gangKey first.sl
  { id := s.mat.nextDrain, gang := g, tile := tileKey g (v.d % 4), core := s.coreOf first.sl, slices := c.all.map (fun z => (z, (s.slice z).epoch)), lead := first.sl,
    lanes := act.map (fun a => a.n), fmt1 := r 3, fmt2 := r 6, dest := s.descAddr v.a 8 0 (x % 4) first, ld := (r 2).toNat,
    tdest := s.descAddr v.a 8 4 (x / 4 % 4) first, tld := (r 7).toNat, sp1 := x % 4, sp2 := x / 4 % 4, tr := tr, clr := decide (v.d / 4 % 2 = 1),
    ck := (s.core (s.coreOf first.sl)).ck, iid := c.iid, field := v.d, pkt := c.pkt, word := c.word, quiet := (s.slice first.sl).suppress, before := some s.mat.next }

/-- MDRAIN (R284). The rows of the active lanes, and for a transposed copy all columns, go to memory in the formats of the descriptor; CLR zeroes the rows afterwards. It parks as a whole before it writes any byte. (DESIGN CHOICE, assumption log 30) -/
def execMdrain (f : XF) (s : State) : Host.Outcome State Fault Refusal :=
  issueAll (.mdrain f) s (fun c v => s.tileEffs c v (v.d % 4) (fun act =>
    match s.drainChecks v act (extPay s.ext % 4) (extPay s.ext / 4 % 4) with
    | .error t => .error t
    | .ok tr =>
      let d := s.drainOf c v act tr
      match s.drainTest d with
      | .error x => .error (trapAll act { code := x.code, info := x.info, addr := BitVec.ofNat 64 x.addr } (fun _ => true))
      | .ok ts =>
        .ok (plain (if missingPages ts = [] then s.drainGo d s.mat.drains (s.mat.nextDrain + 1) ts
          else .drains (s.mat.drains ++ [d]) (s.mat.nextDrain + 1) :: s.drainParks d (missingPages ts)))))

/-! ### Replay of parked accesses (R211) -/

/-- A drain under way. -/
def State.drain? (s : State) (id : Nat) : Option Drain := s.mat.drains.find? (fun d => decide (d.id = id))

/-- A parked drain replays as a whole (R284): it starts, or its slices with active lanes trap with RPL = 0. -/
def State.drainReplay (s : State) (d : Drain) : List Act :=
  let mine := s.reqs.filter (fun e => decide (e.2.kind = .drain d.id))
  let rest := s.mat.drains.filter (fun x => decide (x.id ≠ d.id))
  mine.map (fun e => .setReq e.1 none) ++ (match s.drainTest d with
    | .ok ts => s.drainGo d rest s.mat.nextDrain ts
    | .error x =>
      let ls := fun (sl : Nat) => (d.lanes.filter (fun n => decide (n / 4 = (s.slice sl).gslot))).map (fun n => n % 4)
      let sls := (d.slices.map (fun y => y.1)).filter (fun sl => ls sl ≠ [])
      .drains rest s.mat.nextDrain :: sls.map (fun sl => .trap sl { code := x.code, info := x.info, addr := BitVec.ofNat 64 x.addr, lanes := laneMask (ls sl), resume := some (d.pkt, d.word) })
        ++ sls.map .resplit)

/-- A parked drain can replay: none of its pages is on its way, or a test fails. -/
def State.drainReady (s : State) (id : Nat) : Bool :=
  match s.drain? id with
  | none => false
  | some d => (s.pack (d.gang / 128)).here && (match s.drainTest d with
    | .ok ts => decide (missingPages ts = [])
    | .error _ => true)

/-- Every parked lane of the instruction can replay or trap: nothing parks again. -/
def State.replayReady (s : State) (id : Nat) : Bool :=
  match s.req id with
  | none => false
  | some r => decide (r.state = .parked) && (match r.kind with
    | .drain id => s.drainReady id
    | .again _ => (s.wholeWith r).all (fun x => match s.wholeTest (x.2.map (fun e => e.2)) with
      | .ok none => false
      | _ => true)
    | _ => (s.replayTests r).all (fun x => match x.2.2.2 with
      | .ok t => t.here
      | .error _ => true))

/-- PARKED_REPLAY (R211). The parked lanes of one instruction replay with their operands of the issue; lanes that fail a test trap their slice with RPL = 1, the others are performed. CALL, CALLR, RET, SPILL and FILL replay as a whole in every slice of their split (R27, R90). -/
def execParkedReplay (id : Nat) (s : State) : Host.Outcome State Fault Refusal :=
  match s.req id with
  | none => event s []
  | some r =>
    if !s.replayReady id then event s []
    else
      match r.kind with
      | .again _ => event s (s.wholeReplay r)
      | .drain d => event s (match s.drain? d with
        | some x => s.drainReplay x
        | none => [])
      | _ =>
        let ts := s.replayTests r
        let bad := fun (f : Except Cause Target × Except Cause Target × Except Cause Target → Option Cause) => ts.filterMap (fun x => (f x.2).map (fun c => (x.1.2.lane, c)))
        let bads := bad (fun x => match x.1 with
            | .error c => some c
            | _ => none)
          ++ bad (fun x => match x.1, x.2.1 with
            | .ok _, .error c => some c
            | _, _ => none)
          ++ bad (fun x => match x.2.1, x.2.2 with
            | .ok _, .error c => some c
            | _, _ => none)
        let acts := ts.flatMap (fun x => match x.2.2.2 with
          | .ok t => s.replayLane x.1.1 x.1.2 t
          | .error _ => [.setReq x.1.1 none])
        match bads with
        | [] => event s acts
        | (_, c) :: _ =>
          event s (acts ++ [.trap r.slice { code := c.code, info := c.info, addr := BitVec.ofNat 64 c.addr, lanes := laneMask (bads.map (fun x => x.1)), rpl := true, resume := some (r.pkt, r.word) },
            .resplit r.slice])

end Sys2Proof.Machine
end

