-- ==== Sys2Proof/WellFormed.lean ====
section
/-! DEFINITION. Which terms of Instr are instructions a word can hold. -/
namespace Sys2Proof

/-- The first check an instruction fails (Machine/Info.lean names them); a step of another agent has no word and passes. -/
def illFormed (i : Instr) : Option Machine.IllFormed :=
  match Machine.view i with
  | .word v => v.ill
  | .ext => none
  | .event => none

/-- An instruction whose fields a word of the spec can hold. -/
def WellFormed (i : Instr) : Bool := decide (illFormed i = none)

end Sys2Proof
end

