-- ==== Sys2Proof/Decode.lean ====
section
/-! DEFINITION. Decoding (02_encoding R20, R28, R41 to R43): total on any bytes, rejecting by name; and after it the encoder. -/
namespace Sys2Proof

/-- Why a word is no instruction. -/
inductive DecodeError where
  /-- fewer than four bytes are left -/
  | short
  /-- a reserved opcode or function code (R41) -/
  | reserved
  /-- an EXT word with bit 31 set (R34) -/
  | extChained
  /-- a word that fails a check of its entry (R42, R43) -/
  | illFormed (r : Machine.IllFormed)
  deriving DecidableEq, Repr

/-- The major opcode of a word (R28). -/
def opOf (w : Nat) : Nat := w / 2 ^ 25 % 64
/-- The fields of a word as an R-format record. -/
def fieldsR (w : Nat) : RF :=
  ⟨decide (w / 2 ^ 31 % 2 = 1), BitVec.ofNat 6 (w / 2 ^ 19), BitVec.ofNat 6 (w / 2 ^ 13), BitVec.ofNat 6 (w / 2 ^ 7), decide (w / 2 ^ 3 % 2 = 1), BitVec.ofNat 3 w⟩
/-- The fields of a word as an X-, M- or T-format record. -/
def fieldsX (w : Nat) : XF :=
  ⟨decide (w / 2 ^ 31 % 2 = 1), BitVec.ofNat 6 (w / 2 ^ 19), BitVec.ofNat 6 (w / 2 ^ 13), BitVec.ofNat 6 (w / 2 ^ 7), BitVec.ofNat 4 (w / 2 ^ 3), BitVec.ofNat 3 w⟩
/-- The fields of a word as a B-format record. -/
def fieldsB (w : Nat) : BF := ⟨decide (w / 2 ^ 31 % 2 = 1), BitVec.ofNat 22 (w / 2 ^ 3), BitVec.ofNat 3 w⟩

/-- Function codes of major opcode 0x00 (R41). -/
def fn00 (f : RF) : Nat → Option Instr
  | 0 => some (.nop f)
  | 1 => some (.bkpt f)
  | 2 => some (.yield f)
  | 3 => some (.exit f)
  | 4 => some (.trap f)
  | 5 => some (.rtt f)
  | 6 => some (.srd f)
  | 7 => some (.swr f)
  | _ => none

/-- Function codes of major opcode 0x04 (R41). -/
def fn04 (f : RF) : Nat → Option Instr
  | 0 => some (.jmpr f)
  | 1 => some (.callr f)
  | 2 => some (.ret f)
  | 3 => some (.regang f)
  | 4 => some (.spawn f)
  | 5 => some (.spill f)
  | 6 => some (.fill f)
  | _ => none

/-- Function codes of major opcode 0x05 (R41). -/
def fn05 (f : RF) : Nat → Option Instr
  | 0 => some (.pand f)
  | 1 => some (.por f)
  | 2 => some (.pxor f)
  | 3 => some (.pnot f)
  | 4 => some (.voteAny f)
  | 5 => some (.voteAll f)
  | 6 => some (.ballot f)
  | 7 => some (.pmov f)
  | _ => none

/-- Function codes of major opcode 0x06 (R41). -/
def fn06 (f : RF) : Nat → Option Instr
  | 0 => some (.shflIdx f)
  | 1 => some (.shflUp f)
  | 2 => some (.shflDown f)
  | 3 => some (.shflXor f)
  | 4 => some (.lswz f)
  | 5 => some (.gredIadd f)
  | 6 => some (.gredFmax f)
  | 7 => some (.gscanIadd f)
  | _ => none

/-- Function codes of major opcode 0x08 (R41). -/
def fn08 (f : RF) : Nat → Option Instr
  | 0 => some (.iadd f)
  | 1 => some (.isub f)
  | 2 => some (.imul f)
  | 3 => some (.imulhI f)
  | 4 => some (.imulhN f)
  | 5 => some (.ineg f)
  | 6 => some (.iabs f)
  | 7 => some (.iaddSat f)
  | _ => none

/-- Function codes of major opcode 0x09 (R41). -/
def fn09 (f : RF) : Nat → Option Instr
  | 0 => some (.iminI f)
  | 1 => some (.iminN f)
  | 2 => some (.imaxI f)
  | 3 => some (.imaxN f)
  | 4 => some (.iadd64 f)
  | 5 => some (.isub64 f)
  | 6 => some (.lea f)
  | 7 => some (.isubSat f)
  | _ => none

/-- Function codes of major opcode 0x0a (R41). -/
def fn0A (f : RF) : Nat → Option Instr
  | 0 => some (.imad f)
  | 1 => some (.imadwI f)
  | 2 => some (.imadwN f)
  | 3 => some (.iaccw f)
  | 4 => some (.idot4I8 f)
  | 5 => some (.idot4N8 f)
  | 6 => some (.idot2I16 f)
  | 7 => some (.isad f)
  | _ => none

/-- Function codes of major opcode 0x0b (R41). -/
def fn0B (f : RF) : Nat → Option Instr
  | 0 => some (.and f)
  | 1 => some (.or f)
  | 2 => some (.xor f)
  | 3 => some (.andn f)
  | 4 => some (.orn f)
  | 5 => some (.not f)
  | 6 => some (.mov f)
  | 7 => some (.sel f)
  | _ => none

/-- Function codes of major opcode 0x0c (R41). -/
def fn0C (f : RF) : Nat → Option Instr
  | 0 => some (.shl f)
  | 1 => some (.shr f)
  | 2 => some (.sar f)
  | 3 => some (.rol f)
  | 4 => some (.ror f)
  | 5 => some (.shl64 f)
  | 6 => some (.shr64 f)
  | 7 => some (.sar64 f)
  | _ => none

/-- Function codes of major opcode 0x0d (R41). -/
def fn0D (f : RF) : Nat → Option Instr
  | 0 => some (.popc f)
  | 1 => some (.clz f)
  | 2 => some (.ctz f)
  | 3 => some (.brev f)
  | 4 => some (.bfxI f)
  | 5 => some (.bfxN f)
  | 6 => some (.bfi f)
  | 7 => some (.bswp f)
  | _ => none

/-- Function codes of major opcode 0x0e (R41). -/
def fn0E (f : RF) : Nat → Option Instr
  | 0 => some (.isetEq f)
  | 1 => some (.isetNe f)
  | 2 => some (.isetLtI f)
  | 3 => some (.isetLeI f)
  | 4 => some (.isetLtN f)
  | 5 => some (.isetLeN f)
  | 6 => some (.isetTst f)
  | _ => none

/-- Function codes of major opcode 0x0f (R41). -/
def fn0F (f : RF) : Nat → Option Instr
  | 0 => some (.movi f)
  | 1 => some (.movh f)
  | 2 => some (.mov64 f)
  | 3 => some (.idxset f)
  | 4 => some (.idxadd f)
  | 5 => some (.winset f)
  | 6 => some (.unif f)
  | _ => none

/-- Function codes of major opcode 0x10 (R41). -/
def fn10 (f : RF) : Nat → Option Instr
  | 0 => some (.fadd f)
  | 1 => some (.fsub f)
  | 2 => some (.fmul f)
  | 3 => some (.fmin f)
  | 4 => some (.fmax f)
  | 5 => some (.fabs f)
  | 6 => some (.fneg f)
  | 7 => some (.fcpys f)
  | _ => none

/-- Function codes of major opcode 0x11 (R41). -/
def fn11 (f : RF) : Nat → Option Instr
  | 0 => some (.ffma f)
  | 1 => some (.ffms f)
  | 2 => some (.fnma f)
  | 3 => some (.twosum f)
  | 4 => some (.ftsum f)
  | 5 => some (.twoprod f)
  | _ => none

/-- Function codes of major opcode 0x12 (R41). -/
def fn12 (f : RF) : Nat → Option Instr
  | 0 => some (.fsetEq f)
  | 1 => some (.fsetNe f)
  | 2 => some (.fsetLt f)
  | 3 => some (.fsetLe f)
  | 4 => some (.fsetUnord f)
  | 5 => some (.fsetOrd f)
  | 6 => some (.fsetClass f)
  | _ => none

/-- Function codes of major opcode 0x13 (R41). -/
def fn13 (f : RF) : Nat → Option Instr
  | 0 => some (.frcp f)
  | 1 => some (.frsq f)
  | 2 => some (.fsqrt f)
  | 3 => some (.fexp2 f)
  | 4 => some (.flog2 f)
  | 5 => some (.fsin f)
  | 6 => some (.fcos f)
  | 7 => some (.ftanh f)
  | _ => none

/-- Function codes of major opcode 0x14 (R41). -/
def fn14 (f : RF) : Nat → Option Instr
  | 0 => some (.hadd2Bf16 f)
  | 1 => some (.hmul2Bf16 f)
  | 2 => some (.hfma2Bf16 f)
  | 3 => some (.hadd2F16 f)
  | 4 => some (.hmul2F16 f)
  | 5 => some (.hfma2F16 f)
  | 6 => some (.hmax2Bf16 f)
  | 7 => some (.hmin2Bf16 f)
  | _ => none

/-- Function codes of major opcode 0x15 (R41). -/
def fn15 (f : RF) : Nat → Option Instr
  | 0 => some (.dadd f)
  | 1 => some (.dsub f)
  | 2 => some (.dmul f)
  | 3 => some (.dfma f)
  | 4 => some (.dmin f)
  | 5 => some (.dmax f)
  | 6 => some (.dsetLt f)
  | 7 => some (.dsetEq f)
  | _ => none

/-- Function codes of major opcode 0x16 (R41). -/
def fn16 (f : RF) : Nat → Option Instr
  | 0 => some (.cvtF32I32 f)
  | 1 => some (.cvtF32N32 f)
  | 2 => some (.cvtI32F32 f)
  | 3 => some (.cvtN32F32 f)
  | 4 => some (.cvtF32F64 f)
  | 5 => some (.cvtF64F32 f)
  | 6 => some (.cvtBf16x2F32 f)
  | 7 => some (.cvtF16x2F32 f)
  | _ => none

/-- Function codes of major opcode 0x17 (R41). -/
def fn17 (f : RF) : Nat → Option Instr
  | 0 => some (.unpkBf16x2 f)
  | 1 => some (.unpkF16x2 f)
  | 2 => some (.cvtF64I32 f)
  | 3 => some (.cvtI32F64 f)
  | 4 => some (.packI8x4 f)
  | 5 => some (.packN8x4 f)
  | 6 => some (.unpkI8x4 f)
  | 7 => some (.unpkN8x4 f)
  | _ => none

/-- Function codes of major opcode 0x18 (R41). -/
def fn18 (f : RF) : Nat → Option Instr
  | 0 => some (.qnt f)
  | 1 => some (.dqnt f)
  | 2 => some (.qpack f)
  | 3 => some (.qunpk f)
  | 4 => some (.segscl f)
  | 5 => some (.fmtchk f)
  | _ => none

/-- Function codes of major opcode 0x2c (R41). -/
def fn2C (f : RF) : Nat → Option Instr
  | 0 => some (.bara f)
  | 1 => some (.barw f)
  | 2 => some (.baraw f)
  | 3 => some (.barinit f)
  | 4 => some (.gbar f)
  | 5 => some (.barq f)
  | _ => none

/-- Function codes of major opcode 0x2d (R41). -/
def fn2D (f : RF) : Nat → Option Instr
  | 0 => some (.arrvInit f)
  | 1 => some (.arrvAdd f)
  | 2 => some (.await f)
  | 3 => some (.awaitT f)
  | 4 => some (.arrvRd f)
  | _ => none

/-- Function codes of major opcode 0x2e (R41). -/
def fn2E (f : RF) : Nat → Option Instr
  | 0 => some (.fenceAcq f)
  | 1 => some (.fenceRel f)
  | 2 => some (.fenceAr f)
  | 3 => some (.fenceSp f)
  | 4 => some (.ifence f)
  | 5 => some (.pbar f)
  | 6 => some (.psync f)
  | _ => none

/-- Function codes of major opcode 0x35 (R41). -/
def fn35 (f : RF) : Nat → Option Instr
  | 0 => some (.mfence f)
  | 1 => some (.mwait f)
  | 2 => some (.mwm f)
  | 3 => some (.mtld f)
  | 4 => some (.mstat f)
  | _ => none

/-- Function codes of major opcode 0x38 (R41). -/
def fn38 (f : RF) : Nat → Option Instr
  | 0 => some (if f.d = 1 then .cpystgRet f else .cpystg f)
  | 1 => some (.cpytst f)
  | 2 => some (.cpywt f)
  | 3 => some (.cpyq f)
  | 4 => some (.cpycnl f)
  | _ => none

/-- Function codes of major opcode 0x3d (R41). -/
def fn3D (f : RF) : Nat → Option Instr
  | 0 => some (.rstv f)
  | 1 => some (.rrcv f)
  | 2 => some (.name f)
  | 3 => some (.rstat f)
  | _ => none

/-- The instruction of a word by its major opcode and function code (R41); none for a reserved one. -/
def ctorOf (op fn : Nat) (r : RF) (x : XF) (o : BF) : Option Instr :=
  match op with
  | 0 => fn00 r fn
  | 1 => some (.brAny o)
  | 2 => some (.brAll o)
  | 3 => some (.call o)
  | 4 => fn04 r fn
  | 5 => fn05 r fn
  | 6 => fn06 r fn
  | 8 => fn08 r fn
  | 9 => fn09 r fn
  | 10 => fn0A r fn
  | 11 => fn0B r fn
  | 12 => fn0C r fn
  | 13 => fn0D r fn
  | 14 => fn0E r fn
  | 15 => fn0F r fn
  | 16 => fn10 r fn
  | 17 => fn11 r fn
  | 18 => fn12 r fn
  | 19 => fn13 r fn
  | 20 => fn14 r fn
  | 21 => fn15 r fn
  | 22 => fn16 r fn
  | 23 => fn17 r fn
  | 24 => fn18 r fn
  | 32 => some (.ld x)
  | 33 => some (.st x)
  | 34 => some (.ldNt x)
  | 35 => some (.stNt x)
  | 36 => some (.ldfe x)
  | 37 => some (.stfe x)
  | 38 => some (.pf x)
  | 39 => if x.b.toNat / 8 = 0 then some (.cmoClean x) else if x.b.toNat / 8 = 1 then some (.cmoInv x) else if x.b.toNat / 8 = 2 then some (.cmoCleaninv x) else none
  | 40 => some (.atomG x)
  | 41 => some (.atomS x)
  | 42 => some (.atomC x)
  | 43 => some (.redG x)
  | 44 => fn2C r fn
  | 45 => fn2D r fn
  | 46 => fn2E r fn
  | 48 => some (.mma x)
  | 49 => some (.mzero x)
  | 50 => some (.mrd x)
  | 51 => some (.mwr x)
  | 52 => some (.mdrain x)
  | 53 => fn35 r fn
  | 54 => some (.cpy x)
  | 55 => some (.cpym x)
  | 56 => fn38 r fn
  | 58 => some (.rput x)
  | 59 => some (.rget x)
  | 60 => some (.rred x)
  | 61 => fn3D r fn
  | _ => none

/-- Decode one word. -/
def decode (w : Word) : Except DecodeError Instr :=
  let n := w.toNat
  if opOf n = 7 then
    if n / 2 ^ 31 % 2 = 1 then .error .extChained else .ok (.ext (BitVec.ofNat 25 n))
  else
    match ctorOf (opOf n) (n / 2 ^ 4 % 8) (fieldsR n) (fieldsX n) (fieldsB n) with
    | none => .error .reserved
    | some i =>
      match illFormed i with
      | some r => .error (.illFormed r)
      | none => .ok i

/-- A word from its four bytes, little-endian (R20). -/
def wordOfBytes (b0 b1 b2 b3 : Byte) : Word := b3 ++ b2 ++ b1 ++ b0

/-- Decode the first word of a byte string; the rest follows. -/
def decodeBytes : List Byte → Except DecodeError (Instr × List Byte)
  | b0 :: b1 :: b2 :: b3 :: rest =>
    match decode (wordOfBytes b0 b1 b2 b3) with
    | .ok i => .ok (i, rest)
    | .error e => .error e
  | _ => .error .short

/-- The word of an instruction; a step of another agent has none. -/
def encode (i : Instr) : Option Word :=
  match i with
  | .ext x => some (BitVec.ofNat 32 (7 * 2 ^ 25 + x.toNat))
  | i =>
    match Machine.view i with
    | .word v => some (BitVec.ofNat 32 v.word)
    | .ext => none
    | .event => none

/-- The four bytes of a word, in the order they stand in memory (R20). -/
def bytesOfWord (w : Nat) : List Byte :=
  [BitVec.ofNat 8 w, BitVec.ofNat 8 (w / 2 ^ 8), BitVec.ofNat 8 (w / 2 ^ 16), BitVec.ofNat 8 (w / 2 ^ 24)]

/-- The instruction this decoder reads from an instruction whose bits are w, numbered as spec/opcode_table.json numbers them; every row of the table that is an instruction word is 32 bits. A row without an encoding (nbits 0) is a step of another agent and is not decoded. -/
def decodeTableWord (nbits w : Nat) : Option Instr :=
  if nbits = 0 then none
  else
    match decodeBytes (bytesOfWord (w % 2 ^ nbits)) with
    | .ok (i, _) => some i
    | .error _ => none

end Sys2Proof
end

