-- ==== Sys2Proof/Machine/Issue.lean ====
section
/-! DEFINITION. From a split to what it issues: fetching a packet (R20, R201, R235), forming the chained group (R21 to R26, R34), the stalls of a word (R35, R64), and the effects of a group whose words write together (R25, R27). -/
namespace Sys2Proof.Machine

/-! ### Fetch -/

/-- What fetching gives. -/
inductive Fetched where
  /-- the three words of a packet, its bytes, and for each line it lies on the page and the first address -/
  | words (ws : List (BitVec 32)) (bytes : List Byte) (pages : List (Page × Nat))
  /-- the page is on its way (R201) -/
  | wait
  | fault (t : Trap)
  deriving DecidableEq, Repr

/-- Key of a packet in an instruction cache. -/
def icacheKey (core asid pkt : Nat) : Nat := (core * 2 ^ 16 + asid) * 2 ^ 57 + pkt

/-- The lines of a packet (R201): the first address in each and the bytes there. -/
def packetLines (pkt : Nat) : List (Nat × Nat) :=
  if pkt % 64 ≤ 52 then [(pkt, 12)] else [(pkt, 64 - pkt % 64), (pkt + (64 - pkt % 64), 12 - (64 - pkt % 64))]

/-- The page of one line of a packet (R201): nothing while it is not resident, or a fault. The die scratchpad window and fabric pages hold no executable page. (DEDUCED, assumption log 27) -/
def State.fetchPage (s : State) (sl va : Nat) : Except Trap (Option (Page × Nat)) :=
  let live := (s.slice sl).live
  let f := fun (code info : Nat) => Except.error ({ code := code, info := info, addr := BitVec.ofNat 64 va, lanes := live } : Trap)
  match s.translate 0 sl va with
  | .error c => f c.code c.info
  | .ok (.park _) => .ok none
  | .ok (.page p va) =>
    if p.tier = 3 then f 0x0D 1
    else if !p.x then f 0x0E 1
    else if p.poison || ((s.leaseCopy (s.coreOf sl) (lineOf (p.key va))).map (fun x => x.psn)).getD (s.marked (lineOf (p.key va))) then f 0x10 0
    else .ok (some (p, va))
  | .ok _ => f 0x0E 1

/-- The lines of a packet with their pages, in order: the first that fails is reported; nothing while one is not resident. -/
def State.fetchLines (s : State) (sl : Nat) : List (Nat × Nat) → Except Trap (Option (List (Page × Nat)))
  | [] => .ok (some [])
  | l :: ls =>
    match s.fetchPage sl l.1, State.fetchLines s sl ls with
    | .error t, _ => .error t
    | .ok _, .error t => .error t
    | .ok (some p), .ok (some ps) => .ok (some (p :: ps))
    | _, _ => .ok none

/-- The bytes of a packet's part in one line as memory gives them (R220, R235): a usable lease copy's, else the home's. -/
def State.lineFetch (s : State) (core : Nat) (p : Page × Nat) (n : Nat) : List Byte :=
  let key := p.1.key p.2
  match s.leaseCopy core (lineOf key) with
  | some x => s.decrypt p.1.keyid key ((x.data.drop (key % 64)).take n) (x.tags.drop (key % 64))
  | none => s.bytesAs key n p.1.keyid

/-- The bytes of a packet as memory gives them. -/
def State.fetchMem (s : State) (sl pkt : Nat) (ps : List (Page × Nat)) : List Byte :=
  (ps.zip (packetLines pkt)).flatMap (fun x => s.lineFetch (s.coreOf sl) x.1 x.2.2)

/-- What a core's instruction cache holds of a packet of a slice. -/
def State.cachedPacket (s : State) (sl pkt : Nat) : List Byte := Sparse.get [] s.coh.icache (icacheKey (s.coreOf sl) (s.packOf sl).asid pkt)

/-- The words of 12 bytes (R20). -/
def packetWords (bs : List Byte) : List (BitVec 32) := (List.range 3).map (fun k => BitVec.ofNat 32 (leNat ((bs.drop (4 * k)).take 4)))

/-- Fetch a packet: every page it lies on must be there; the bytes are memory's, or those an instruction cache still holds, chosen by the hardware (R235). (DEDUCED, assumption log 27) -/
def State.fetch (s : State) (sl pkt : Nat) : Fetched :=
  match s.fetchLines sl (packetLines pkt) with
  | .error t => .fault t
  | .ok none => .wait
  | .ok (some ps) =>
    let mem := s.fetchMem sl pkt ps
    let old := s.cachedPacket sl pkt
    let bs := if old ≠ [] ∧ old ≠ mem ∧ s.pick 0 2 = 1 then old else mem
    .words (packetWords bs) bs ps

/-! ### Groups -/

/-- One instruction of a group: its word's index, the word's view and the EXT payload before it. -/
structure Member where
  i : Instr
  v : View
  ext : Option (BitVec 25)
  idx : Nat
  deriving DecidableEq, Repr

/-- A group's form: its instructions and whether C stands on the packet's last word, or the major opcode of its first illegal word and the instructions before it. -/
inductive Group where
  | ok (ms : List Member) (open_ : Bool)
  | ill (op : Nat) (before : List Member)
  deriving DecidableEq, Repr

/-- INFO of a word that is no instruction: its opcode, or EXT's where the entry it names takes none, since the EXT is the first offending word (R34, R95, R96). -/
def refusedOp (w : BitVec 32) (ext : Option (BitVec 25)) : Nat :=
  let n := w.toNat
  match ctorOf (opOf n) (n / 2 ^ 4 % 8) (fieldsR n) (fieldsX n) (fieldsB n) with
  | none => opOf n
  | some i =>
    match view i with
    | .word v => v.illOp ext
    | _ => opOf n

/-- Decode a word that may follow an EXT. -/
def member (w : BitVec 32) (ext : Option (BitVec 25)) (idx : Nat) : Except Nat Member :=
  let op := w.toNat / 2 ^ 25 % 64
  match decode w with
  | .error _ => .error (refusedOp w ext)
  | .ok i =>
    match view i with
    | .word v => if v.ill = none ∧ v.extOk ext then .ok ⟨i, v, ext, idx⟩ else .error (v.illOp ext)
    | _ => .error op

/-- An EXT word's payload, when bit 31 is clear (R31, R34). -/
def extWord (w : BitVec 32) : Option (BitVec 25) := if w.toNat / 2 ^ 25 = 7 then some (w.setWidth 25) else none
/-- A word with EXT's opcode. -/
def isExt (w : BitVec 32) : Bool := decide (w.toNat / 2 ^ 25 % 64 = 7)

/-- The instruction at the head of some words, the first of which has index idx (R21, R34), and the words after it. -/
def firstInstr (idx : Nat) : List (BitVec 32) → Except Nat (Member × List (BitVec 32))
  | [] => .error 0x07
  | w :: rest =>
    if isExt w then
      match extWord w, rest with
      | some x, w2 :: rest2 =>
        if isExt w2 then .error 0x07
        else (match member w2 (some x) (idx + 1) with
          | .ok m => .ok (m, rest2)
          | .error op => .error op)
      | _, _ => .error 0x07
    else
      match member w none idx with
      | .ok m => .ok (m, rest)
      | .error op => .error op

/-- The chained group at the head of some words (R23). -/
def groupFrom : Nat → Nat → List (BitVec 32) → Group
  | 0, _, _ => .ok [] false
  | n + 1, idx, ws =>
    match firstInstr idx ws with
    | .error op => .ill op []
    | .ok (m, rest) =>
      if !m.v.c then .ok [m] false
      else
        match rest with
        | [] => .ok [m] true
        | _ =>
          match groupFrom n (m.idx + 1) rest with
          | .ill op ms => .ill op (m :: ms)
          | .ok ms o => .ok (m :: ms) o

/-- The instructions of a group up to its first illegal word. -/
def Group.members : Group → List Member
  | .ok ms _ => ms
  | .ill _ ms => ms

/-- The group of a slice at a word: after an RTT with RPL the instruction there alone, which is not a group of its words again (R113). -/
def chainAt (only : Bool) (word : Nat) (ws : List (BitVec 32)) : Group :=
  if only then (match firstInstr word (ws.drop word) with
    | .error op => .ill op []
    | .ok (m, _) => .ok [m] false)
  else groupFrom 3 word (ws.drop word)

/-- CALL, CALLR and RET need MEM beside CTL (R24). -/
def View.needsMem (v : View) : Bool := decide (v.form.pipe = .mem) || decide (v.op = 3) || (decide (v.op = 4) && decide (v.fn = 1 ∨ v.fn = 2))

/-- Two instructions of a group need one pipe (R24). -/
def pipeClash (vs : List View) : Bool :=
  let n := fun (f : View → Bool) => (vs.filter f).length
  decide (1 < n View.needsMem) || decide (1 < n (fun v => decide (v.form.pipe = .ctl))) || decide (1 < n (fun v => decide (v.form.pipe = .mtx)))
    || decide (1 < n (fun v => decide (v.form.pipe = .alu0))) || decide (2 < n (fun v => decide (v.form.pipe = .alu) || decide (v.form.pipe = .alu0)))

/-- SEL, whose guard is the selector of its source and no guard (R134). -/
def View.isSel (v : View) : Bool := decide (v.op = 0x0B) && decide (v.fn = 7)

/-- The lanes a word writes: its active lanes, for SEL every live lane (R122, R134). -/
def State.writeLanes (s : State) (sl : Nat) (v : View) : List Nat := if v.isSel then s.liveLanes sl else s.activeLanes sl v.pg

/-- Registers a word writes through D, of the n that D names: an atomic writes only its old value (R248). -/
def View.written (v : View) (n : Nat) : Nat := if v.op = 0x28 ∨ v.op = 0x29 ∨ v.op = 0x2A then awRegs (v.b % 4) else n

/-- The destinations of a word in the lanes of a slice that it writes (R26); FILL writes a range of registers (R89). -/
def State.dsts (s : State) (sl : Nat) (v : View) : List Dst :=
  (s.writeLanes sl v).flatMap (fun l => match v.form.d with
    | .v n _ _ true => (match s.resolve sl l v.d n with
      | .ok r => (List.range (v.written n)).map (fun k => .r l (r + k))
      | .error _ => [])
    | .p => [.p l (v.d % 8)]
    | .x => [.x l (v.d % 8)]
    | .w => [.w (v.d % 4)]
    | _ => if v.op = 0x04 ∧ v.fn = 6 then (s.rangeRegs sl l v.d (v.b + 1)).map (fun r => .r l r) else [])

/-- The lane of a destination. -/
def Dst.lane : Dst → List Nat
  | .r l _ => [l]
  | .p l _ => [l]
  | .x l _ => [l]
  | .w _ => lanes4

/-- The lanes in which two words of a group write the same destination (R26). -/
def State.clashLanes (s : State) (sl : Nat) : List View → List Nat
  | [] => []
  | v :: vs =>
    let later := vs.flatMap (fun u => s.dsts sl u)
    ((s.dsts sl v).filter (fun d => later.contains d)).flatMap Dst.lane ++ s.clashLanes sl vs

/-- Decoding checks of a group for one slice (R26, R27, R96 step 1). -/
def State.groupTrap (s : State) (sl : Nat) : Group → Option Trap
  | .ill op ms => some { s.illegal sl op with dist := ms.length }
  | .ok ms o =>
    let live := (s.slice sl).live
    let vs := ms.map (fun m => m.v)
    if o then some { code := 0x02, info := 0, lanes := live }
    else if pipeClash vs then some { code := 0x02, info := 1, lanes := live }
    else
      match s.clashLanes sl vs with
      | [] => none
      | ls => some { code := 0x02, info := 2, lanes := laneMask ls }

/-- The hardware breakpoint a group meets (R96 step 2, R105). -/
def State.breakTrap (s : State) (sl pkt first last : Nat) : Option Trap :=
  match (s.packOf sl).debug with
  | none => none
  | some d =>
    (d.bps.zipIdx.find? (fun b => decide ((s.slice sl).suppress ≠ some (0x0A, b.2)) && (match b.1 with
      | some a => decide (pkt + 4 * first ≤ a) && decide (a ≤ pkt + 4 * last)
      | none => false))).map (fun b => { code := 0x0A, info := b.2, addr := BitVec.ofNat 64 (b.1.getD 0), lanes := (s.slice sl).live })

/-! ### Stalls (R35, R64) -/

/-- Record words of a node of a slice's graph (R374). -/
def State.nodeWords (s : State) (sl node : Nat) : Nat :=
  match (Sparse.get {} s.sun.launches (s.packOf sl).launch).graph with
  | some g => ((g.nodes[node]?).map (fun n => n.words)).getD 0
  | none => 0

/-- Registers an instruction touches beside its operand fields: the ranges of SPILL, FILL and SPAWN. -/
def State.rangeTouched (s : State) (sl ln : Nat) (v : View) : List Nat :=
  if v.op = 0x04 ∧ (v.fn = 5 ∨ v.fn = 6) then s.rangeRegs sl ln v.d (v.b + 1)
  else if v.op = 0x04 ∧ v.fn = 4 then s.rangeRegs sl ln v.d (s.nodeWords sl v.b)
  else []

/-- The registers an instruction reads or writes in a lane. -/
def State.touched (s : State) (sl ln : Nat) (v : View) (ext : Option (BitVec 25)) : List Nat :=
  let f := fun (o : Opnd) (field : Nat) => match o with
    | .v n _ _ _ => (match s.resolve sl ln field n with
      | .ok r => (List.range n).map (fun k => r + k)
      | .error _ => [])
    | _ => []
  f v.form.d v.d ++ f v.form.a v.a ++ (if (v.imm ext).isSome then [] else f v.form.b v.b) ++ s.rangeTouched sl ln v

/-- The registers of a slice's lane with an outstanding write (R35). -/
def State.outstanding (s : State) (sl ln : Nat) : List Nat :=
  s.reqs.flatMap (fun e => if e.2.slice = sl ∧ e.2.lane = ln then e.2.dsts else [])

/-- The register scoreboard holds the word back in some lane. -/
def State.scoreboard (s : State) (sl : Nat) (v : View) (ext : Option (BitVec 25)) : Bool :=
  lanes4.any (fun l =>
    let out := s.outstanding sl l
    decide (out ≠ []) && (s.touched sl l v ext).any (fun r => out.contains r))

/-- An RRCV hold covers a register the word reads (R339). -/
def State.heldReg (s : State) (sl : Nat) (v : View) (ext : Option (BitVec 25)) : Bool :=
  (s.slice sl).holds.any (fun h => lanes4.any (fun l => h.mask.getLsbD l && (s.touched sl l v ext).contains h.reg))

/-- A lookahead window has run out while its instruction is outstanding (R35, R36): a bulk operation until the fabric port has accepted its first packet (R333). (DESIGN CHOICE, assumption log 21) -/
def State.lookWait (s : State) (sl : Nat) : Bool :=
  (s.slice sl).looks.any (fun w => decide (w.2 = 0) && (s.reqs.any (fun e => decide (e.2.iid = w.1) && decide (e.2.slice = sl) && e.2.pending) || s.fab.bulk.any (fun b => decide (b.iid = w.1) && !b.sent)))

/-- Scratchpad accesses of a slice follow its earlier ones (R217): a word that accesses s or c at once waits for queued atomics. -/
def State.scratchWait (s : State) (sl : Nat) (v : View) : Bool :=
  (decide (v.op = 0x20 ∨ v.op = 0x21 ∨ v.op = 0x24 ∨ v.op = 0x25) && decide (v.b % 8 = 1 ∨ v.b % 8 = 2) || decide (v.op = 0x2D) && decide (v.fn = 0 ∨ v.fn = 4))
    && s.reqs.any (fun e => decide (e.2.slice = sl) && decide (e.2.tier = 5) && e.2.waiting)

/-- A word that accesses memory waits while a strongly ordered access of its slice is outstanding (R195). -/
def State.strongWait (s : State) (sl : Nat) (v : View) : Bool :=
  v.needsMem && s.reqs.any (fun e => decide (e.2.slice = sl) && decide (e.2.ty = 3))

/-- The waits of fences, barriers and arrival words at issue (R227, R240, R251, R257, R259, R261); a clock rises no further than its die's base allows (R225). -/
def State.orderWait (s : State) (sl : Nat) (v : View) : Bool :=
  let n := s.run.count
  let sc := v.scope
  let release := fun (scope : Nat) => !(s.releaseReady sl n scope && s.clockFits sl scope)
  let acquire := !(s.acquireReady sl n && s.clockFits sl sc)
  if v.op = 0x2E then
    (match v.fn with
      | 0 => acquire
      | 1 => release sc
      | 2 => release sc || acquire
      | 4 => acquire
      | 6 => !s.psyncReady sl sc
      | _ => false)
  else if v.op = 0x04 ∧ v.fn = 4 then decide (v.a % 2 = 1) && release 3
  else if s.activeLanes sl v.pg = [] then false
  else if v.op = 0x2C then
    (match v.fn with
      | 0 => release 1
      | 1 => !s.acquireReady sl n
      | 2 => release 1
      | 4 => release 4
      | _ => false)
  else if v.op = 0x2D then
    (match v.fn with
      | 1 => release 1
      | 2 => !s.acquireReady sl n
      | 3 => !s.acquireReady sl n
      | _ => false)
  else if v.op = 0x25 then release (if v.b % 8 = 2 then 2 else 1)
  else false

end Sys2Proof.Machine
end

