-- ==== Sys2Proof/Machine/Matrix.lean ====
section
/-! DEFINITION. The matrix instructions and the quadrants' matrix engines (11_matrix R262 to R290). The waits of the instructions (R264, R265, R275, R286 to R288) hold their split back at issue: State.matrixWait. -/
namespace Sys2Proof.Machine

/-! ### Operands (R268 to R274) -/

/-- Native K and group size g (R155, R268). -/
def nativeK (fa fb : Word) : Nat × Nat :=
  let w := max (elemBits fa) (elemBits fb)
  if w = 16 then (32, 16) else if w = 8 then (64, 32) else (128, 64)
/-- K of an MMA. -/
def Mma.k (m : Mma) : Nat := (nativeK m.fa m.fb).1 * m.m

/-- Why an operand read stops. -/
inductive OpStop where
  /-- its page is not resident (R275) -/
  | park (va : Nat)
  /-- it cannot be resolved (R276) -/
  | fault (c : Cause)
  deriving DecidableEq, Repr

/-- One operand byte: its memory key, the byte with its mark, whether its place was written since the MMA issued, and what refills since then replaced, newest first. -/
structure OpByte where
  key : Nat
  val : Byte
  psn : Bool := false
  changed : Bool := false
  olds : List Byte := []
  deriving DecidableEq, Repr

/-- A slice through which an MMA's accesses are made: that of its first active lane. -/
def Mma.slice (m : Mma) : Nat := (m.slices.headD (0, 0)).1

/-- Where an operand byte lies (R271): the operand pipes translate through the core's TLB and do not reach other devices. -/
def State.opTarget (s : State) (m : Mma) (space addr : Nat) : Except OpStop Target :=
  match space with
  | 0 =>
    match s.translateVia (tlbsOfCore m.core) 0 m.slice addr with
    | .error c => .error (.fault c)
    | .ok (.park va) => .error (.park va)
    | .ok (.page pg va) => if pg.tier = 3 then .error (.fault ⟨0x0D, 1, va⟩) else .ok (.page pg va)
    | .ok t => .ok t
  | _ =>
    match s.localAt m.slice space (addr % 2 ^ 32) 1 with
    | .ok key => .ok (.scratch key)
    | .error c => .error (.fault c)

/-- A byte of a page as a load of the core finds it, without the core's store queue (R220, R271, R272): in a lease copy that still serves its loads, else at the home. -/
def State.pageByte (s : State) (core : Nat) (pg : Page) (va : Nat) : Byte × Bool :=
  let key := pg.key va
  match (if pg.ty = 0 then s.leaseCopy core (lineOf key) else none) with
  | some c => ((s.decrypt pg.keyid key [c.data.getD (key % 64) 0] [c.tags.getD (key % 64) 0]).getD 0 0, c.psn || pg.poison)
  | none => ((s.bytesAs key 1 pg.keyid).getD 0 0, pg.poison || s.localPsn key 1)

/-- Read one operand byte of an MMA. -/
def State.opByte (s : State) (m : Mma) (space addr : Nat) : Except OpStop OpByte :=
  let since := s.mat.journal.take (s.mat.journal.length - m.from_)
  let fin := fun (key : Nat) (b : Byte × Bool) =>
    ({ key := key, val := b.1, psn := b.2,
       changed := since.any (fun j => j.old.isNone && overlaps j.key j.len key 1),
       olds := since.filterMap (fun j => if overlaps j.key j.len key 1 then j.old.map (fun o => o.getD (key - j.key) 0) else none) } : OpByte)
  (s.opTarget m space addr).map (fun t => match t with
    | .page pg va => fin (pg.key va) (s.pageByte m.core pg va)
    | .dsp key => fin key (s.byte key, s.localPsn key 1)
    | .scratch key => fin key (s.byte key, s.localPsn key 1)
    | _ => fin 0 (0, false))

/-- An element as it was read: its value, its mark, and whether it is undefined (R273). -/
structure OpVal where
  val : Num
  psn : Bool
  changed : Bool
  deriving DecidableEq, Repr

/-- The choice of the hardware for one operand element of an MMA (R272): the same whenever the element is read. (DESIGN CHOICE, assumption log 90) -/
def Mma.choice (m : Mma) (k : Nat) : Nat := Config.choice (2 ^ 200 + (m.id * 2 ^ 64 + m.since) * 2 ^ 40 + k)

/-- Several bytes of one element, the k-th of its MMA. Of each write that changed it and that no MFENCE covers, the hardware reads the bytes or those before it (R272); of each refill since the MMA's issue, likewise (R308). -/
def State.opCode (s : State) (m : Mma) (space addr n k : Nat) : Except OpStop (Nat × Bool × Bool) :=
  match allOk ((List.range n).map (fun i => s.opByte m space (addr + i))) with
  | .error e => .error e
  | .ok l =>
    let key := (l.map (fun b => b.key)).headD 0
    let xs := s.missable m.slice m.id key n
    let olds := (l.map (fun b => b.olds.length)).foldl max 0
    let bs := if xs = [] then l.map (fun b => b.val) else lacking key xs (m.choice k) (l.map (fun b => b.val))
    let old := if olds = 0 then 0 else m.choice k / 2 ^ xs.length % (olds + 1)
    let data := if old = 0 then bs else (l.zip bs).map (fun b => b.1.olds.getD (old - 1) b.2)
    .ok (leNat data, l.any (fun b => b.psn), l.any (fun b => b.changed))

/-- Element e of a row (R148, R149, R270), before its scale. -/
def State.opElem (s : State) (m : Mma) (space : Nat) (fw : Word) (row e k : Nat) : Except OpStop OpVal :=
  let bits := elemBits fw
  let r := s.opCode m space (row + e * bits / 8) (if bits = 16 then 2 else 1) k
  r.map (fun x =>
    let code := if bits = 4 then (if e % 2 = 0 then x.1 % 16 else x.1 / 16) else x.1 % 2 ^ fwBits fw
    ⟨(fwFmt fw).dec code, x.2.1, x.2.2⟩)

/-- An element times its scale byte's multiplier (R153). -/
def scaleVal (v : OpVal) (b : Nat × Bool × Bool) : OpVal :=
  let n := match multiplier (BitVec.ofNat 8 b.1) with
    | none => .fin false 0 1
    | some (p, q) => (Num.mul v.val (.fin false p q)).1
  ⟨n, v.psn || b.2.1, v.changed || b.2.2⟩

/-- Apply a scale when the format is scaled. -/
def State.opScaled (s : State) (m : Mma) (space : Nat) (fw : Word) (row e srow k : Nat) : Except OpStop OpVal :=
  match s.opElem m space fw row e k with
  | .error x => .error x
  | .ok v => if fwScaled fw then (match s.opCode m space (srow + e / 64) 1 (k + 2 ^ 22) with
      | .error x => .error x
      | .ok b => .ok (scaleVal v b)) else .ok v

/-- ElemA (R270). -/
def State.elemA (s : State) (m : Mma) (i k : Nat) : Except OpStop OpVal :=
  match m.arows.find? (fun r => decide (r.lane = i % 32)) with
  | none => .ok ⟨.fin false 0 1, false, false⟩
  | some r =>
    let hi := if 32 ≤ i then 1 else 0
    s.opScaled m m.sa m.fa (r.base + hi * 32 * r.lda) k (r.scale + hi * 32 * ldsOf m.fa r.lda) (i * m.k + k)

/-- ElemB (R270). -/
def State.elemB (s : State) (m : Mma) (k j : Nat) : Except OpStop OpVal :=
  let (row, e) := if m.tb then (j, k) else (k, j)
  s.opScaled m m.sb m.fb (m.bbase + row * m.ldb) e (m.bscale + row * ldsOf m.fb m.ldb) (2 ^ 20 + k * 64 + j)

/-- The new pair of an element (R155, R156, R279): the groups of its products in ascending k. -/
def accumulate (neg : Bool) (g : Nat) (start : Word × Word) (a b : List OpVal) : Word × Word :=
  let ps := (a.zip b).map (fun x =>
    let p := Num.mul x.1.val x.2.val
    (if neg then p.1.neg else p.1, p.2))
  (pieces g ps.length ps).foldl (fun acc q =>
    let r := accumulateGroup acc.1.toNat acc.2.toNat (q.map (fun p => if p.2 then (Num.nan, true) else p))
    (BitVec.ofNat 32 r.1, BitVec.ofNat 32 r.2.1)) start

/-- The rows of an MMA's next block that its lanes own (R267, R279). -/
def Mma.blockRows (m : Mma) : List Nat :=
  (List.range 8).filterMap (fun d =>
    let i := m.row / 8 * 8 + d
    if m.row ≤ i ∧ m.arows.any (fun r => decide (r.lane = i % 32)) then some i else none)

/-- The acts of the next block: each element's new pair and mark. An element whose operand was written after the MMA issued is undefined (R273). (DEDUCED, assumption log 65) -/
def State.blockActs (s : State) (m : Mma) : Except OpStop (List Act) :=
  let ks := List.range m.k
  match allOk ((List.range 64).map (fun j => allOk (ks.map (fun k => s.elemB m k j)))) with
  | .error e => .error e
  | .ok cols =>
    (allOk (m.blockRows.map (fun i => (allOk (ks.map (fun k => s.elemA m i k))).map (fun a =>
      cols.zipIdx.flatMap (fun (b, j) =>
        let all := a ++ b
        let start := if m.acc then s.el m.tile i j else (0, 0)
        let mark := all.any (fun x => x.psn) || (m.acc && s.elMark m.tile i j)
        if all.any (fun x => x.changed) then
          [.el (elKey m.tile i j) (Config.undefWord s.run.draws (2 * (64 * i + j)), Config.undefWord s.run.draws (2 * (64 * i + j) + 1)) mark, .undefEl (elKey m.tile i j)]
        else [Act.el (elKey m.tile i j) (accumulate m.neg (nativeK m.fa m.fb).2 start a b) mark]))))).map (fun l => l.flatten)

/-- Places of memory, the first of each line. -/
def oncePerLine (l : List (Page × Nat)) : List (Page × Nat) :=
  l.foldl (fun acc x => if acc.any (fun y => decide (lineOf (y.1.key y.2) = lineOf (x.1.key x.2))) then acc else acc ++ [x]) []

/-- The lines of global memory that the operands of the next block lie on, scale bytes included (R234, R271). -/
def State.operandSpots (s : State) (m : Mma) : List (Page × Nat) :=
  let at_ := fun (space addr : Nat) => match s.opTarget m space addr with
    | .ok (.page pg va) => [(pg, va)]
    | _ => []
  let span := fun (space addr n : Nat) => if space = 0 then ((List.range (n / 64 + 2)).map (fun i => min (addr + 64 * i) (addr + n - 1))).flatMap (at_ space) else []
  let arow := m.blockRows.flatMap (fun i => match m.arows.find? (fun r => decide (r.lane = i % 32)) with
    | some r =>
      let hi := if 32 ≤ i then 32 else 0
      span m.sa (r.base + hi * r.lda) (rowBytes m.fa m.k) ++ (if fwScaled m.fa then span m.sa (r.scale + hi * ldsOf m.fa r.lda) ((m.k + 63) / 64) else [])
    | none => [])
  let brow := (List.range (if m.tb then 64 else m.k)).flatMap (fun r => span m.sb (m.bbase + r * m.ldb) (rowBytes m.fb (if m.tb then m.k else 64))
    ++ (if fwScaled m.fb then span m.sb (m.bscale + r * ldsOf m.fb m.ldb) (if m.tb then (m.k + 63) / 64 else 1) else []))
  oncePerLine (arow ++ brow)

/-- What a load of one line leaves (R220, R426): a lease copy's wts observed, or a read lease and copies from the home; and the marked lines met. -/
def State.spotActs (s : State) (core ck : Nat) (x : Page × Nat) : List Act :=
  let line := lineOf (x.1.key x.2)
  (match (if x.1.ty = 0 then s.leaseCopy core line else none) with
    | some c => [.raiseObsv core c.wts]
    | none => [.times line (s.wtsOf line) (max (s.rtsOf line) (max ck (s.wtsOf line) + (s.core core).lease)), .raiseObsv core (s.wtsOf line)]
        ++ (if x.1.ty = 0 then s.fillActs core line ck (s.wtsOf line) true x.1.poison else []))
    ++ s.suspectActs (line * 64) 64 x.1.keyid

/-- The operand loads of a block (R193, R200, R202, R234, R271): A bits and TLBs, leases, copies and OBSV, and requests to the host for host-bias lines. -/
def State.operandActs (s : State) (m : Mma) : List Act :=
  let spots := s.operandSpots m
  let pages := spots.foldl (fun acc x => if acc.any (fun y => decide (y.2 / 65536 = x.2 / 65536)) then acc else acc ++ [x]) ([] : List (Page × Nat))
  let asks := (spots.filter (fun x => x.1.hb && (decide (x.1.ty ≠ 0) || (s.leaseCopy m.core (lineOf (x.1.key x.2))).isNone))).map (fun x => HostMsg.cacheRead (lineOf (x.1.key x.2) * 64))
  pages.flatMap (fun x => s.pageActsAs (tlbsOfCore m.core) (s.packOf m.slice).asid false x.1 x.2)
    ++ spots.flatMap (s.spotActs m.core m.ck) ++ asks.map .send

/-! ### The engine (R264 to R267, R275, R276) -/

/-- WM of a tile from its outstanding MMAs (R264): the least row one of them has not made final. -/
def wmOf (ms : List Mma) : Nat := ms.foldl (fun w m => min w m.row) 64

/-- The die of a quadrant. -/
def dieOfQuad (q : Nat) : Nat := dieOfCore (q / 4)
/-- The MMA an engine may begin (R265, R275, R379): the first of its queue, unless its gang has a parked one or its pack is being pre-empted. -/
def State.nextOf (s : State) (queue : List Nat) : Option Nat :=
  match queue with
  | id :: _ =>
    (match s.mma? id with
      | some m => if s.mmas.any (fun e => decide (e.2.gang = m.gang) && e.2.parked.isSome) || (s.pack (m.gang / 128)).freeze then none else some id
      | none => none)
  | [] => none
/-- The same, of a quadrant's engine. -/
def State.nextMma (s : State) (q : Nat) : Option Nat := s.nextOf (s.engine q).queue
/-- An engine waits for a token: an MMA could begin. -/
def State.engineWaits (s : State) (q : Nat) : Bool :=
  let e := s.engine q
  !e.token && e.running = none && (s.nextMma q).isSome
/-- The engine returns its token (R266). -/
def State.returnToken (s : State) (q : Nat) (e : Engine) : List Act :=
  if e.token then [.die (dieOfQuad q) { s.die (dieOfQuad q) with held := (s.die (dieOfQuad q)).held - 1 }] else []

/-- A split's next instruction is an MMA (R19). -/
def State.asksMma (s : State) (e : Nat) : Bool :=
  match s.byGslot (s.split e).slices with
  | [] => false
  | sl :: _ =>
    let x := s.slice sl
    decide (x.status = .run) && (match s.fetch sl x.pc with
      | .words ws _ _ => (chainAt x.only.isSome x.word ws).members.any (fun m => decide (m.v.op = 0x30))
      | _ => false)
/-- The splits of a die that are not ready because their engines hold no token (R19, R266): quadrant, queue priority, and the ac since which they wait, taken as that of the split's last issue. (DESIGN CHOICE, assumption log 90) -/
def State.unissued (s : State) (die : Nat) : List (Nat × Nat × Nat) :=
  ((s.ctl.splits.filter (fun e => decide (dieOfQuad (e.1 / 64) = die) && !(s.engine (e.1 / 64)).token && decide ((s.engine (e.1 / 64)).running = none) && decide ((s.engine (e.1 / 64)).queue = []))).filter (fun e => s.asksMma e.1)).map
    (fun e => (e.1 / 64, (s.packOf (e.2.slices.headD 0)).prio, e.2.last))
/-- The engines of a die whose pending MMA waits for a token, in the same form. -/
def State.waiters (s : State) (die : Nat) : List (Nat × Nat × Nat) :=
  (s.mat.engines.filter (fun e => decide (dieOfQuad e.1 = die) && s.engineWaits e.1)).filterMap (fun e => ((s.nextMma e.1).bind s.mma?).map (fun m => (e.1, m.prio, m.since)))
/-- Another engine of the die waits for a token (R266): for its pending MMA, or, when no token is free, for one that has not issued. -/
def State.othersWait (s : State) (q : Nat) : Bool :=
  let d := s.die (dieOfQuad q)
  (s.waiters (dieOfQuad q)).any (fun e => decide (e.1 ≠ q)) || (decide (d.pool ≤ d.held) && (s.unissued (dieOfQuad q)).any (fun e => decide (e.1 ≠ q)))

/-- The waiting engine a freed token goes to (R19): queue priority, then the longest wait. -/
def State.tokenFor (s : State) (die : Nat) : Option Nat :=
  match s.waiters die with
  | [] => none
  | ws => ((ws ++ s.unissued die).foldl (fun best e => match best with
    | none => some e
    | some b => some (if b.2.1 < e.2.1 ∨ (b.2.1 = e.2.1 ∧ e.2.2 < b.2.2) then e else b)) none).map (fun e => e.1)

/-- An engine of a die that holds a token for which nothing waits any longer (R266). -/
def State.idleToken (s : State) (die : Nat) : Option Nat :=
  (s.mat.engines.find? (fun e => decide (dieOfQuad e.1 = die) && e.2.token && decide (e.2.running = none) && (s.nextMma e.1).isNone
    && !(s.ctl.splits.any (fun x => decide (x.1 / 64 = e.1) && s.asksMma x.1)))).map (fun e => e.1)

/-- TOKEN_GRANT can act on a die. -/
def State.tokenReady (s : State) (die : Nat) : Bool := (s.idleToken die).isSome || (decide ((s.die die).held < (s.die die).pool) && (s.tokenFor die).isSome)

/-- TOKEN_GRANT (R19, R266). A token for which nothing waits any longer is returned; else a free token goes to the waiting engine of the highest queue priority, and among equals to the one that has waited longest. -/
def execTokenGrant (die : Nat) (s : State) : Host.Outcome State Fault Refusal :=
  match s.idleToken die, s.tokenFor die with
  | some q, _ => event s (.engine q { s.engine q with token := false } :: s.returnToken q (s.engine q))
  | none, some q => if s.tokenReady die then event s [.engine q { s.engine q with token := true }, .die die { s.die die with held := (s.die die).held + 1 }] else event s []
  | none, none => event s []

/-- MMA_ENGINE_START can act on a quadrant. -/
def State.engineReady (s : State) (q : Nat) : Bool := decide ((s.engine q).running = none) && (s.engine q).token && (s.nextMma q).isSome

/-- MMA_ENGINE_START (R265, R266). The next MMA begins its engine time. -/
def execMmaEngineStart (quad : Nat) (s : State) : Host.Outcome State Fault Refusal :=
  match s.nextMma quad with
  | some id => if s.engineReady quad then event s [.engine quad { s.engine quad with running := some id, queue := (s.engine quad).queue.drop 1, blockAt := s.run.ac }] else event s []
  | none => event s []

/-- The engine when its running MMA has stopped, with what it holds pending then (R266): the token stays only for a next MMA that no other engine's wait stands against. -/
def State.engineOn (s : State) (q : Nat) (queue : List Nat) : List Act :=
  let e := { s.engine q with running := none, queue := queue }
  if (s.nextOf queue).isSome && !s.othersWait q then [.engine q e]
  else .engine q { e with token := false } :: s.returnToken q e
/-- The engine after its running MMA has gone. -/
def State.engineFree (s : State) (q : Nat) : List Act := s.engineOn q (s.engine q).queue

/-- An earlier MDRAIN has still to read rows that the MMA would overwrite (R264, R285). -/
def State.drainsBefore (s : State) (id : Nat) (m : Mma) : Bool :=
  s.mat.drains.any (fun d => decide (d.tile = m.tile) && (match d.before with
    | some n => decide (n ≤ id)
    | none => false))

/-- MMA_BLOCK_END can act: the block's engine time is over (R267), and no earlier drain still reads its rows (R285). -/
def State.blockReady (s : State) (q : Nat) : Bool :=
  match (s.engine q).running.bind s.mma? with
  | some m => decide ((s.engine q).blockAt + 4 * m.m ≤ s.run.ac) && !s.drainsBefore (((s.engine q).running).getD 0) m && (match s.blockActs m with
    | .error (.fault _) => false
    | _ => true)
  | none => false

/-- The end of a block: its rows, the loads of its operands, the watermark, and the engine. An MMA whose pack is being pre-empted stops here, to be saved (R277). -/
def State.blockEnd (s : State) (quad id : Nat) (m : Mma) (acts : List Act) : List Act :=
  let e := s.engine quad
  let row := m.row / 8 * 8 + 8
  let others := (s.mmasOn m.tile).filter (fun e => decide (e.1 ≠ id))
  let wm := wmOf ((if row < 64 then [{ m with row := row }] else []) ++ others.map (fun e => e.2))
  acts ++ s.operandActs m
    ++ [.tile m.tile { s.tileSt m.tile with wm := wm }, .draw (if s.mat.journal.length ≤ m.from_ then 0 else 1)]
    ++ (if 64 ≤ row then .setMma id none :: s.engineFree quad
      else if (s.pack (m.gang / 128)).freeze then .setMma id (some { m with row := row }) :: s.engineOn quad (id :: e.queue)
      else [.setMma id (some { m with row := row }), .engine quad { e with blockAt := s.run.ac }])

/-- MMA_BLOCK_END (R267, R275). The block's new rows are written and WM rises; the last block ends the MMA. A block whose operands lie on a non-resident page parks the MMA instead. Drains that waited for the rows go on (R285). -/
def execMmaBlockEnd (quad : Nat) (s : State) : Host.Outcome State Fault Refusal :=
  match (s.engine quad).running with
  | none => event s []
  | some id =>
    match s.mma? id with
    | none => event s []
    | some m =>
      if s.run.ac < (s.engine quad).blockAt + 4 * m.m || s.drainsBefore id m then event s []
      else
        match s.blockActs m with
        | .error (.fault _) => event s []
        | .error (.park va) => event s (.setMma id (some { m with parked := some va }) :: .engine quad { s.engine quad with running := none, token := false } :: s.returnToken quad (s.engine quad))
        | .ok acts => event s (s.chain [fun s => s.blockEnd quad id m acts, fun s => s.tileDrains m.tile])

/-- A parked MMA's page is there. -/
def State.resumeReady (s : State) (id : Nat) : Bool :=
  match s.mma? id with
  | some m => (s.pack (m.gang / 128)).here && (match m.parked with
    | some va => (match s.opTarget m 0 va with
      | .error (.park _) => false
      | _ => true)
    | none => false)
  | none => false

/-- MMA_RESUME (R275). A parked MMA whose fault is resolved enters the engine again after the one that is running. -/
def execMmaResume (id : Nat) (s : State) : Host.Outcome State Fault Refusal :=
  match s.mma? id with
  | some m => if s.resumeReady id then event s [.setMma id (some { m with parked := none }), .engine m.quad { s.engine m.quad with queue := id :: (s.engine m.quad).queue }] else event s []
  | none => event s []

/-- The slices an MMA's suspension traps: those with an active lane of it that have not exited. -/
def State.suspended (s : State) (m : Mma) : List Nat := (m.slices.map (fun x => x.1)).filter (fun sl => !(s.slice sl).gone)

/-- MMA_SUSPEND can act: the running MMA's next operand read cannot be resolved. -/
def State.suspendReady (s : State) (id : Nat) : Bool :=
  match s.mma? id with
  | some m =>
    decide ((s.engine m.quad).running = some id) && (match s.blockActs m with
      | .error (.fault _) => true
      | _ => false)
  | none => false

/-- A slice stands at a group boundary: no access of it is parked or waits for a full word, no MDRAIN of it is under way, and it is not stopped. -/
def State.atBoundary (s : State) (sl : Nat) : Bool :=
  let x := s.slice sl
  decide (x.status = .run) && !x.stop && !(s.mat.drains.any (fun d => d.slices.any (fun y => decide (y.1 = sl))))
    && !(s.reqs.any (fun e => decide (e.2.slice = sl) && (decide (e.2.state = .parked) || (match e.2.kind with
      | .ldfe _ => true
      | _ => false))))

/-- The trap of a suspended MMA in a slice (R276), before its place: `dist` is the number of instructions the slice had issued with the MMA. -/
def State.suspendTrap (s : State) (m : Mma) (c : Cause) (sl : Nat) : Trap :=
  { code := c.code, info := c.info, addr := BitVec.ofNat 64 c.addr, lanes := (s.slice sl).live, aft := true,
    dist := ((m.slices.find? (fun e => decide (e.1 = sl))).map (fun e => e.2)).getD 0 }

/-- The same at a slice's next unissued instruction: DIST counts the instructions issued after the MMA. -/
def Slice.owedTrap (x : Slice) (t : Trap) : Trap := { t with dist := x.issued - t.dist, resume := some (x.pc, x.word) }

/-- What a suspension does (R276): the engine drops the MMA, FLT is set, drains that waited for it wait for the watermark, and its slices trap where they stand at a group boundary or owe the trap until they do. -/
def State.suspendActs (s : State) (id : Nat) (m : Mma) (c : Cause) : List Act :=
  let sls := s.suspended m
  let now := sls.filter s.atBoundary
  .setMma id none :: .tile m.tile { s.tileSt m.tile with flt := true }
    :: .drains (s.mat.drains.map (fun d => if decide (d.tile = m.tile) && (match d.before with
      | some n => decide (id < n)
      | none => false) then { d with before := none } else d)) s.mat.nextDrain
    :: s.engineFree m.quad
    ++ sls.map (fun sl =>
      let t := s.suspendTrap m c sl
      if s.atBoundary sl then .trap sl ((s.slice sl).owedTrap t) else .slice sl (.owed (some t)))
    ++ [.regroup now]

/-- MMA_SUSPEND (R276). The engine drops the MMA; rows below WM are final and FLT is set. Its slices trap with AFT = 1 at their next group boundary, and those that stand at one form one split. -/
def execMmaSuspend (id : Nat) (s : State) : Host.Outcome State Fault Refusal :=
  match s.mma? id with
  | none => event s []
  | some m =>
    match s.suspendReady id, s.blockActs m with
    | true, .error (.fault c) => event s (s.suspendActs id m c)
    | _, _ => event s []

/-! ### MMA (R278, R279) -/

/-- The ranges of bytes an MMA reads in a scratchpad space: (address, length) for each lane. (DEDUCED, assumption log 32) -/
def aRanges (fa : Word) (k base lda scale : Nat) : List (Nat × Nat) :=
  [(base, rowBytes fa k), (base + 32 * lda, rowBytes fa k)]
    ++ (if fwScaled fa then [(scale, (k + 63) / 64), (scale + 32 * ldsOf fa lda, (k + 63) / 64)] else [])

/-- A range lies outside the allocation its space reaches (R183, R279): the cause. (DEDUCED, assumption log 32) -/
def State.rangeBad (s : State) (sl space : Nat) (rs : List (Nat × Nat)) : Option Cause :=
  if space = 0 then none
  else rs.findSome? (fun r => match s.localAt sl space (r.1 % 2 ^ 32) r.2 with
    | .error c => some c
    | .ok _ => none)

/-- The trap of all slices from the lanes' causes (R279). -/
def causeTraps (act : List MLane) (f : MLane → Option Cause) : Option Traps :=
  match act.findSome? f with
  | none => none
  | some c => some (trapAll act { code := c.code, info := c.info, addr := BitVec.ofNat 64 c.addr } (fun a => (f a).isSome))

/-- The MMA record of an instruction, after its checks (R279). (DEDUCED, assumption log 32) -/
def State.mmaOf (s : State) (c : Cur) (v : View) (act : List MLane) : Except Traps Mma :=
  let x := extPay s.ext
  let m := x % 8 + 1
  let sa := x / 8 % 4
  let sb := x / 32 % 4
  let row0 := x / 128 % 64
  match voteOn act (s.descReg v.a 6 3) 0x14 v.op 0 with
  | .error t => .error t
  | .ok fa =>
  match voteOn act (s.descReg v.b 6 3) 0x14 v.op 0 with
  | .error t => .error t
  | .ok fb =>
  if badFormat fa then .error (formatTraps act v.op fa)
  else if badFormat fb then .error (formatTraps act v.op fb)
  else
  match s.voteRegs act v.b 6 v.op ([0, 1, 2] ++ (if fwScaled fb then [4, 5] else [])) with
  | .error t => .error t
  | .ok _ =>
  let sl := (act.headD ⟨0, 0, 0⟩).sl
  let first := act.headD ⟨0, 0, 0⟩
  let k := (nativeK fa fb).1 * m
  let arow := fun (a : MLane) => (s.descAddr v.a 6 0 sa a, (s.descReg v.a 6 2 a).toNat, s.descAddr v.a 6 4 sa a)
  let bbase := s.descAddr v.b 6 0 sb first
  let ldb := (s.descReg v.b 6 2 first).toNat
  let bscale := s.descAddr v.b 6 4 sb first
  let bad := fun (a : MLane) =>
    let r := arow a
    if r.1 % 16 ≠ 0 ∨ r.2.1 % 16 ≠ 0 then some (Cause.mk 0x0F 4 r.1) else if bbase % 16 ≠ 0 ∨ ldb % 16 ≠ 0 then some ⟨0x0F, 4, bbase⟩ else none
  match causeTraps act bad with
  | some t => .error t
  | none =>
  let brows := if v.d / 8 % 2 = 1 then (64, rowBytes fb k, (k + 63) / 64) else (k, rowBytes fb 64, 1)
  let branges := (List.range brows.1).flatMap (fun r => (bbase + r * ldb, brows.2.1) :: (if fwScaled fb then [(bscale + r * ldsOf fb ldb, brows.2.2)] else []))
  let out := fun (a : MLane) =>
    let r := arow a
    (s.rangeBad a.sl sa (aRanges fa k r.1 r.2.1 r.2.2)) <|> s.rangeBad sl sb branges
  match causeTraps act out with
  | some t => .error t
  | none =>
  let g := s.gangKey sl
  .ok { id := s.mat.next, gang := g, tile := tileKey g (v.d % 4), quad := (s.gang g).quad, core := s.coreOf sl,
        slices := ((act.map (fun a => a.sl)).eraseDups).map (fun z => (z, (s.slice z).issued + 1 + c.index)),
        arows := act.map (fun a => ⟨a.n, (arow a).1, (arow a).2.1, (arow a).2.2⟩), fa := fa, fb := fb, bbase := bbase, ldb := ldb, bscale := bscale,
        sa := sa, sb := sb, m := m, row0 := row0, neg := decide (v.d / 16 % 2 = 1), tb := decide (v.d / 8 % 2 = 1), acc := decide (v.d / 4 % 2 = 1),
        row := row0, ck := (s.core (s.coreOf sl)).ck, prio := (s.packOf sl).prio, since := s.run.ac, from_ := s.mat.journal.length }

/-- The operand and scale bytes of an MMA in the s or c space (space 1 or 2) as ranges (R279, R308). -/
def Mma.ranges (m : Mma) (space : Nat) : List (Nat × Nat) :=
  (if m.sa = space then m.arows.flatMap (fun r => aRanges m.fa m.k r.base r.lda r.scale) else [])
    ++ (if m.sb = space then (List.range (if m.tb then 64 else m.k)).flatMap (fun r =>
        (m.bbase + r * m.ldb, rowBytes m.fb (if m.tb then m.k else 64)) :: (if fwScaled m.fb then [(m.bscale + r * ldsOf m.fb m.ldb, if m.tb then (m.k + 63) / 64 else 1)] else [])) else [])

/-- An MMA that issues counts for each refill entry of its pack whose buffer it names and that covers one more (R308). -/
def State.coverActs (s : State) (p : Nat) (m : Mma) : List Act :=
  let k := s.pack p
  k.sched.zipIdx.flatMap (fun x =>
    let c := Sparse.get {} s.cpy.covers (p * 256 + x.2)
    if x.1.refill && !k.taken.contains x.2 && decide (c.count < x.1.cons) && rangesMeet ((x.1.descOf k.index).dstRanges x.1.sd) (m.ranges x.1.sd)
    then [.cover (p * 256 + x.2) { count := c.count + 1, mmas := c.mmas ++ [s.mat.next] }] else [])

/-- MMA (R279). After its votes and checks it enters its quadrant's engine; WM falls to its first row, and FLT is cleared. -/
def execMma (f : XF) (s : State) : Host.Outcome State Fault Refusal :=
  issueAll (.mma f) s (fun c v => s.tileEffs c v (v.d % 4) (fun act =>
    match s.mmaOf c v act with
    | .error t => .error t
    | .ok m =>
      .ok (plain [.addMma m, .tile m.tile { wm := min (s.tileSt m.tile).wm m.row0, flt := false, km := m.m - 1, row0 := m.row0 },
        .engine m.quad { s.engine m.quad with queue := (s.engine m.quad).queue ++ [s.mat.next] }] ++ plain (s.coverActs (m.gang / 128) m))))

/-! ### MZERO, MRD, MWR (R281, R282) -/

/-- MZERO (R281). The rows of the active lanes become (+0, +0) without marks; FLT is cleared. -/
def execMzero (f : XF) (s : State) : Host.Outcome State Fault Refusal :=
  issueAll (.mzero f) s (fun c v => s.tileEffs c v (v.d % 4) (fun act =>
    let t := tileKey (s.gangKey (c.slices.headD 0)) (v.d % 4)
    .ok (plain (.tile t { s.tileSt t with flt := false }
      :: act.flatMap (fun a => (ownRows a.n).flatMap (fun i => (List.range 64).map (fun j => .el (elKey t i j) (0, 0) false)))))))

/-- What MRD delivers of an element (R282): hi, lo, or the sum rounded to FP32. -/
def selEl (mode : Nat) (e : Word × Word) : Word :=
  match mode with
  | 0 => e.1
  | 1 => e.2
  | _ => BitVec.ofNat 32 (f32.ieee .rne false (tileValue e.1.toNat e.2.toNat)).1

/-- MRD (R282). Four columns of the lane's two rows go into eight registers with their marks. -/
def execMrd (f : XF) (s : State) : Host.Outcome State Fault Refusal :=
  issueAll (.mrd f) s (fun c v => s.tileEffs c v (v.a % 4) (fun act =>
    let t := tileKey (s.gangKey (c.slices.headD 0)) (v.a % 4)
    .ok (act.flatMap (fun a =>
      let r := s.regOf a.sl a.l v.d 8
      tagged a.sl ((List.range 8).flatMap (fun k =>
        let i := if k < 4 then a.n else a.n + 32
        let j := 4 * (v.b % 16) + k % 4
        [.reg (laneKey a.sl a.l) (r + k) (selEl (v.a / 4 % 4) (s.el t i j)) (s.elMark t i j), .untag a.sl (r + k) true]))))))

/-- MWR (R282). Eight registers become the hi words of four columns of the lane's two rows; lo is +0 and the marks go. -/
def execMwr (f : XF) (s : State) : Host.Outcome State Fault Refusal :=
  issueAll (.mwr f) s (fun c v => s.tileEffs c v (v.d % 4) (fun act =>
    let t := tileKey (s.gangKey (c.slices.headD 0)) (v.d % 4)
    .ok (plain (.tile t { s.tileSt t with flt := false }
      :: act.flatMap (fun a => (List.range 8).map (fun k =>
        .el (elKey t (if k < 4 then a.n else a.n + 32) (4 * (v.b % 16) + k % 4)) (s.descReg v.a 8 k a, 0) false))))))

/-! ### MFENCE, MWAIT, MWM, MTLD, MSTAT (R286 to R290) -/

/-- MFENCE (R286). At issue every earlier store and atomic of the pack has been performed; MMAs and MTLDs that issue from now on read what they left. -/
def execMfence (f : RF) (s : State) : Host.Outcome State Fault Refusal :=
  issueAll (.mfence f) s (fun c v => sliceEffs c v (fun _ => .ok []) ++ ((c.slices.map packKey).eraseDups).map (fun p => (none, .freshPack p)))

/-- The tiles an MWAIT names. -/
def waitTiles (b : Nat) : List Nat := if b / 4 % 2 = 1 then [0, 1, 2, 3] else [b % 4]

/-- MWAIT (R287). At issue every matrix operation of the split's lanes on the named tiles has ended. Naming an unallocated tile takes the illegal-instruction trap. -/
def execMwait (f : RF) (s : State) : Host.Outcome State Fault Refusal :=
  issueAll (.mwait f) s (fun c v => if v.b / 4 % 2 = 1 then sliceEffs c v (fun _ => .ok []) else s.tileEffs c v (v.b % 4) (fun _ => .ok []))

/-- MWM (R288). At issue the tile's WM has reached the count of the lowest active lane. -/
def execMwm (f : RF) (s : State) : Host.Outcome State Fault Refusal :=
  issueAll (.mwm f) s (fun c v => s.tileEffs c v (v.b % 4) (fun _ => .ok []))

/-- An access of the operand pipes to a global page (R286, R289): a load of the core that takes nothing from its store queue. -/
def State.pipeLoad (s : State) (c : Cur) (sl ln k : Nat) (p : Page) (va : Nat) (dst : Nat) : List Act :=
  let key := p.key va
  let r := { (s.mkReq c sl ln va key 4 (.load 2 [dst]) .queued).onPage p with pipe := true, wts := s.mat.next, due := if p.tier = 3 then some s.remoteDue else none }
  let xs := s.missable sl s.mat.next key 4
  let st := match (if p.ty = 0 ∧ p.tier ≠ 3 ∧ !s.lpBacked (s.packOf sl).asid va then s.leaseCopy (s.coreOf sl) (lineOf key) else none) with
    | some x =>
      let bs := s.decrypt p.keyid key ((x.data.drop (key % 64)).take 4) (x.tags.drop (key % 64))
      ReqState.served (if xs = [] then bs else lacking key xs (s.pick k (2 ^ xs.length)) bs) x.wts (x.psn || p.poison)
    | none => .queued
  s.pageActs sl false p va ++ [.addReq { r with state := st }] ++ s.backingActs sl va key 4

/-- The addresses of the eight words of an MTLD in an active lane. -/
def mtldAddr (space base ld n q : Nat) : Nat := (base + q * ld + 4 * n) % (if space = 1 then 2 ^ 32 else 2 ^ 64)

/-- The tests of an MTLD in one active lane (R183, R208). -/
def State.mtldTest (s : State) (space base ld : Nat) (a : MLane) : Except Cause (List Target) :=
  allOk ((List.range 8).map (fun q => s.accessAt q a.sl a.l (if space = 1 then 1 else 0) (mtldAddr space base ld a.n q) 4 2))

/-- MTLD of one active lane after its tests: the eight words are read through the operand pipes; a lane one of whose pages is on its way parks whole (R211, R289). -/
def State.mtldLane (s : State) (c : Cur) (v : View) (space base ld : Nat) (a : MLane) (l : List Target) : List Act :=
  let r := s.regOf a.sl a.l v.d 8
  let parks := l.any (fun t => !t.here)
  l.zipIdx.flatMap (fun (t, q) =>
    let addr := mtldAddr space base ld a.n q
    match t with
    | .scratch key =>
      let xs := s.missable a.sl s.mat.next key 4
      let bs := if xs = [] then s.bytes key 4 else lacking key xs (s.pick (8 * a.n + q) (2 ^ xs.length)) (s.bytes key 4)
      [.reg (laneKey a.sl a.l) (r + q) (BitVec.ofNat 32 (leNat bs)) (s.localPsn key 4), .untag a.sl (r + q) true]
    | .window _ _ => []
    | t =>
      if parks then [.addReq { s.mkReq c a.sl a.l addr 0 4 (.load 2 [r + q]) .parked with field := v.d, pipe := true, wts := s.mat.next, quiet := (s.slice a.sl).suppress }]
      else match t with
        | .page p va => s.pipeLoad c a.sl a.l (8 * a.n + q) p va (r + q)
        | .dsp key => [.addReq { s.mkReq c a.sl a.l addr key 4 (.load 2 [r + q]) .queued with tier := 4, pipe := true, wts := s.mat.next }]
        | _ => [])

/-- The trap of one slice in an MTLD: its lanes' causes, then its watchpoint (R105, R208, R289). -/
def State.mtldTrap (s : State) (space base ld sl : Nat) (rs : List (MLane × Except Cause (List Target))) : Option Trap :=
  let mine := rs.filter (fun e => decide (e.1.sl = sl))
  match causeTrap (mine.filterMap (fun e => match e.2 with
    | .error x => some (e.1.l, x)
    | .ok _ => none)) with
  | some t => some t
  | none => s.watchTrap sl 1 4 (mine.flatMap (fun e => match e.2 with
    | .ok l => if l.all Target.here then (List.range 8).map (fun q => (e.1.l, mtldAddr space base ld e.1.n q)) else []
    | .error _ => []))

/-- MTLD (R289). Reads an 8 × 32 block of words, transposed: lane n receives word n of each of eight rows. -/
def execMtld (f : RF) (s : State) : Host.Outcome State Fault Refusal :=
  issueAll (.mtld f) s (fun c v => s.wholeEffs c v (fun act =>
    match voteOn act (fun a => (s.valB v s.ext a.sl a.l).setWidth 32) 0x13 v.op (0 : Word) with
    | .error t => .error t
    | .ok ctl =>
      let space := ctl.toNat / 2 ^ 31
      let ld := ctl.toNat % 2 ^ 31
      match voteOn act (fun a => if space = 1 then (s.valA v a.sl a.l).toNat % 2 ^ 32 else (s.valA v a.sl a.l).toNat) 0x13 v.op 0 with
      | .error t => .error t
      | .ok base =>
        if base % 4 ≠ 0 ∨ ld % 4 ≠ 0 then .error (trapAll act { code := 0x0F, info := 2, addr := BitVec.ofNat 64 base } (fun _ => true))
        else
          let rs := act.map (fun a => (a, s.mtldTest space base ld a))
          let slices := (act.map (fun a => a.sl)).eraseDups
          let traps := slices.filterMap (fun sl => (s.mtldTrap space base ld sl rs).map (fun t => (sl, t)))
          .ok (rs.flatMap (fun e => match e.2 with
            | .ok l => if traps.any (fun t => decide (t.1 = e.1.sl)) then [] else tagged e.1.sl (s.mtldLane c v space base ld e.1 l)
            | .error _ => [])
            ++ traps.map (fun t => (some t.1, Act.trap t.1 t.2))
            ++ [(none, .draw (if s.mat.stale = [] then 0 else 256))])))

/-- MSTAT (R290). -/
def execMstat (f : RF) (s : State) : Host.Outcome State Fault Refusal :=
  issueAll (.mstat f) s (fun c v => s.tileEffs c v (v.b % 4) (fun act =>
    let t := tileKey (s.gangKey (c.slices.headD 0)) (v.b % 4)
    let x := s.tileSt t
    let ms := s.mmasOn t
    let psn := (s.mat.marks.any (fun e => decide (e.1 / 4096 = t)))
    let busy := !ms.isEmpty || s.mat.drains.any (fun d => decide (d.tile = t))
    let w : Word := BitVec.ofNat 32 (2 ^ 31 + bit busy * 2 ^ 30 + bit (ms.any (fun e => e.2.parked.isSome)) * 2 ^ 29 + bit x.flt * 2 ^ 28 + bit psn * 2 ^ 27
      + x.km * 2 ^ 13 + x.row0 * 2 ^ 7 + x.wm)
    .ok (act.flatMap (fun a => tagged a.sl (fileWrites a.sl [(a.l, s.regOf a.sl a.l v.d 1, w)])))))

/-! ### Waits -/

/-- The gang of a slice has an MMA that is parked, with an active lane in the slice (R275). -/
def State.parkedMma (s : State) (sl : Nat) : Bool := s.mmas.any (fun e => e.2.parked.isSome && e.2.slices.any (fun x => decide (x.1 = sl)))

/-- An MDRAIN of the gang on tile k, not yet ended, that a test picks out. -/
def State.drainsOn (s : State) (g k : Nat) (p : Drain → Bool) : Bool := s.mat.drains.any (fun d => decide (d.tile = tileKey g k) && p d)
/-- An MDRAIN's active lanes include a lane of some slices (R287). -/
def State.drainIn (s : State) (slices : List Nat) (d : Drain) : Bool := d.lanes.any (fun n => slices.any (fun sl => decide (s.gangKey sl = d.gang) && decide ((s.slice sl).gslot = n / 4)))

/-- The waits of a matrix instruction at issue, for its whole split (R264 to R266, R286 to R288). An MDRAIN issues before its rows are final and writes them block by block (R285). -/
def State.matrixWait (s : State) (slices : List Nat) (v : View) : Bool :=
  let sl := slices.headD 0
  let g := s.gangKey sl
  let act := s.mlanes slices v.pg
  let wm := fun (k : Nat) => (s.tileSt (tileKey g k)).wm
  let top := act.foldl (fun m a => max m (a.n + 33)) 0
  if act = [] then false
  else if v.op = 0x30 then
    let e := s.engine (s.gang g).quad
    let d := s.die (dieOfQuad (s.gang g).quad)
    decide (e.queue ≠ []) || (!e.token && !decide (d.held < d.pool))
  else if v.op = 0x31 ∨ v.op = 0x33 then s.tileHere g (v.d % 4) && (decide (wm (v.d % 4) < top) || s.drainsOn g (v.d % 4) (fun _ => true))
  else if v.op = 0x32 then s.tileHere g (v.a % 4) && (decide (wm (v.a % 4) < top) || s.drainsOn g (v.a % 4) (fun d => d.clr))
  else if v.op = 0x34 then s.tileHere g (v.d % 4) && s.drainsOn g (v.d % 4) (fun d => d.clr)
  else if v.op = 0x35 then
    (match v.fn with
      | 0 => s.reqs.any (fun e => decide (packKey e.2.slice = packKey sl) && e.2.writes && e.2.waiting)
      | 1 => s.mmas.any (fun e => (waitTiles v.b).any (fun k => decide (e.2.tile = tileKey g k)) && e.2.slices.any (fun x => slices.contains x.1)) || (waitTiles v.b).any (fun k => s.drainsOn g k (s.drainIn slices))
      | 2 => s.tileHere g (v.b % 4) && decide (wm (v.b % 4) < min 64 ((s.valA v (act.headD ⟨0, 0, 0⟩).sl (act.headD ⟨0, 0, 0⟩).l).toNat % 2 ^ 32))
      | _ => false)
  else false

end Sys2Proof.Machine
end

