-- ==== Sys2Proof/Machine/Copy.lean ====
section
/-! DEFINITION. The copy instructions and the Marten engines (12_copy R292 to R316). A chunk in flight is a list of parts, one for each piece of a destination line; each part is read and then written by steps of its own, in an order the hardware chooses (R293). -/
namespace Sys2Proof.Machine

/-! ### Copy-class instructions (R299, R300) -/

/-- What a copy-class instruction does after its checks: acts and register writes, or a wait that executes it again. -/
inductive CopyRes where
  | go (acts : List Act) (d : Option Word)
  | wait (st : Status)
  deriving DecidableEq, Repr

/-- The traps of a copy-class instruction: every slice of the split, TRAPLANES its active lanes. (DEDUCED, assumption log 34) -/
def State.copyTraps (s : State) (c : Cur) (v : View) (t : Trap) : List Eff :=
  c.slices.map (fun sl => (some sl, .trap sl { t with lanes := laneMask (s.activeLanes sl v.pg) }))

/-- The operand tests of a copy-class instruction (R119, R121, R299): D in the active lanes, A and B in the leader, lane 0 of the lowest slice with an active lane. (DEDUCED, assumption log 34) -/
def State.copyOperandTrap (s : State) (v : View) (act : List MLane) (sl : Nat) : Option Trap :=
  let byp := v.bypass
  ((act.map (fun a => a.sl)).eraseDups.findSome? (fun x => s.boundsTrap x v.form.d v.d (s.activeLanes x v.pg)))
    <|> s.boundsTrap sl v.form.a v.a [0] <|> s.boundsTrap sl v.form.b v.b [0]
    <|> s.psnTrap sl v.a (s.psnLanes byp sl v.form.a v.a [0]) <|> s.psnTrap sl v.b (s.psnLanes byp sl v.form.b v.b [0])

/-- The split lacks a slice of its gang that has not exited (R299). -/
def State.partialGang (s : State) (c : Cur) : Bool :=
  let sl := c.slices.headD 0
  (s.slicesOf (packKey sl)).any (fun x => decide ((s.slice x).gang = (s.slice sl).gang) && !(s.slice x).gone && !c.split.contains x)

/-- The frame of a copy-class instruction: it executes once for its split as it issued, when some lane is active; a failed check traps every slice with AFT = 1; `body` takes the leader's slice. CPY and CPYM write a token and complete; the others stay outstanding for lookahead (R36, R333). A slice that another word of the group traps keeps none of its effects (R27, R299). (DEDUCED, assumption log 34) -/
def State.copyClass (s : State) (c : Cur) (v : View) (body : Nat → Except Trap CopyRes) : List Eff :=
  let act := s.mlanes c.split v.pg
  match act with
  | [] => sliceEffs c v (fun _ => .ok [])
  | a :: _ =>
    match s.copyOperandTrap v act a.sl with
    | some t => s.copyTraps c v t
    | none =>
      if s.partialGang c then s.copyTraps c v { code := 0x12, info := v.op, aft := true }
      else
        match body a.sl with
        | .error t => s.copyTraps c v { t with aft := true }
        | .ok (.wait st) => c.slices.flatMap (fun sl => tagged sl [.slice sl (.goto c.pkt c.word), .slice sl (.status st)])
        | .ok (.go acts d) =>
          sliceEffs c v (fun sl => .ok (match d with
            | some w => s.putD v sl (s.activeLanes sl v.pg) (fun _ => w)
            | none => lookActs c v sl)) ++ plain acts

/-- The eight descriptor words of the leader's slice. -/
def State.descWords (s : State) (v : View) (sl : Nat) : List Nat :=
  (List.range 8).map (fun k => (s.readReg v.bypass sl 0 (s.regOf sl 0 v.a 8 + k)).toNat)

/-- The first address of some ranges that lies beyond the 57-bit space (R300 step 4). -/
def beyond (base : Nat) (rs : List (Nat × Nat)) : Option Nat :=
  if 2 ^ 57 ≤ base then some base else (rs.find? (fun r => decide (2 ^ 57 < r.1 + r.2))).map (fun r => r.1)

/-- The first range outside its allocation (R300 step 5). -/
def State.outside (s : State) (sl space : Nat) (rs : List (Nat × Nat)) : Option Cause :=
  rs.findSome? (fun r => match s.localAt sl space r.1 r.2 with
    | .error c => some c
    | .ok _ => none)

/-- The trap of a cause. -/
def Cause.trap (c : Cause) : Trap := { code := c.code, info := c.info, addr := BitVec.ofNat 64 c.addr }

/-- The cluster positions of a CPYM mask. -/
def maskCores (mask : Nat) : List Nat := (List.range 8).filter (fun k => decide (mask / 2 ^ k % 2 = 1))

/-- A c-space address at cluster position k. -/
def atCore (k off : Nat) : Nat := k * 2 ^ 20 + off

/-- The checks of R300 steps 2 to 5, and of R309 for a CPYM (nonzero mask). -/
def State.copyChecks (s : State) (sl op : Nat) (d : Desc) (ss sd mask : Nat) : Option Trap :=
  let p := s.packOf sl
  let ill : Trap := { code := 0x01, info := op }
  let cluster := decide (mask ≠ 0)
  if decide (2 < d.kind) || (d.t32 && d.zero) || decide (2 ^ 24 < d.len) || (decide (d.kind = 1) && decide (p.barriers ≤ d.tgt)) || (cluster && (d.t32 || p.cluster.isNone)) then some ill
  else if d.t32 && (decide (d.src % 4 ≠ 0) || decide (d.dst % 4 ≠ 0) || decide (d.len % 4 ≠ 0) || decide (d.sstr % 4 ≠ 0) || decide (d.dstr % 4 ≠ 0)) then
    some { code := 0x0F, info := 2, addr := BitVec.ofNat 64 (if d.src % 4 = 0 ∧ d.dst % 4 ≠ 0 then d.dst else d.src) }
  else
    let src := d.srcRanges ss
    let dst := d.dstRanges sd
    match (if d.zero ∨ ss ≠ 0 then none else beyond d.src src) <|> (if sd ≠ 0 ∨ cluster then none else beyond d.dst dst) with
    | some a => some { code := 0x0D, info := 2, addr := BitVec.ofNat 64 a }
    | none =>
      let word := if d.kind = 2 then
          (if p.scratch < p.arrvBase + 8 * d.tgt + 8 then some (⟨0x16, 1, p.arrvBase + 8 * d.tgt⟩ : Cause) else none)
        else none
      let out := (if d.zero ∨ ss = 0 then none else s.outside sl ss src)
        <|> (if cluster then
            (dst.find? (fun r => decide (2 ^ 20 < r.1 + r.2))).map (fun r => ⟨0x16, 2, r.1⟩)
              <|> (maskCores mask).findSome? (fun k => s.outside sl 2 (if dst = [] then [(atCore k 0, 0)] else dst.map (fun r => (atCore k r.1, r.2))))
          else if sd = 0 then none else s.outside sl sd dst)
        <|> word
      out.map Cause.trap

/-- The position of a pack's core in its cluster (R185). -/
def Pack.place (p : Pack) : Nat := p.core % 8
/-- Key of the free-slot counter of position k at the engine of a core (R310). -/
def slotKey (core k : Nat) : Nat := core * 8 + k

/-- Accept a copy, or wait for space in its queue and for free slots (R292, R310, R312). In a maintenance launch B is the consumer mask and the queue is 0 (R311). -/
def State.startCopy (s : State) (v : View) (sl ss sd mask : Nat) : Except Trap CopyRes :=
  let p := s.packOf sl
  let d := mkDesc (s.descWords v sl) ss sd
  match s.copyChecks sl v.op d ss sd mask with
  | some t => .error t
  | none =>
    let q := if p.maint then 0 else v.b
    let k := queueKey p.core q
    let cores := maskCores mask
    if !s.queueRoom k || cores.any (fun x => decide (Sparse.get 0 s.cpy.slots (slotKey p.core x) = 0)) then .ok (.wait (.copySpace k mask))
    else
      let j : CopyJob := { pack := packKey sl, slice := sl, d := d, ss := ss, sd := sd, mask := mask, consumers := if p.maint then v.b else 0, ck := (s.core p.core).ck, epoch := (s.slice sl).epoch }
      .ok (.go (.accept k j :: cores.map (fun x => .slots (slotKey p.core x) 0 1)) (some (BitVec.ofNat 32 (q * 2 ^ 28 + (s.cqueue k).count % 2 ^ 28))))

/-- The B field of CPY and CPYM before anything else (R43, R96): a queue number in a normal launch, a consumer mask that is not 0 in a maintenance launch (R311); another value takes the illegal-instruction trap in every slice. -/
def State.copyB (s : State) (c : Cur) (v : View) (effs : List Eff) : List Eff :=
  let maint := (s.packOf (c.slices.headD 0)).maint
  if (maint && decide (v.b % 32 = 0)) || (!maint && decide (16 ≤ v.b)) then c.slices.map (fun sl => (some sl, .trap sl (s.illegal sl v.op))) else effs

/-- CPY (R312). The descriptor of the leader is checked and the copy accepted into queue B; every active lane receives its token. -/
def execCpy (f : XF) (s : State) : Host.Outcome State Fault Refusal :=
  issueAll (.cpy f) s (fun c v => s.copyB c v (s.copyClass c v (fun sl => s.startCopy v sl (extPay s.ext % 4) (extPay s.ext / 4 % 4) 0)))

/-- CPYM (R309, R310). As CPY, into the scratchpads of the cores the mask names. -/
def execCpym (f : XF) (s : State) : Host.Outcome State Fault Refusal :=
  issueAll (.cpym f) s (fun c v => s.copyB c v (s.copyClass c v (fun sl => s.startCopy v sl (extPay s.ext % 4) 2 (extPay s.ext / 2 ^ 8 % 2 ^ 8))))

/-! ### CPYSTG, CPYTST, CPYWT, CPYQ, CPYCNL (R313 to R316) -/

/-- CPYSTG (R313). The pack's stage counter rises to min(U(A), 255) of each slice's lowest active lane. -/
def execCpystg (f : RF) (s : State) : Host.Outcome State Fault Refusal :=
  issue (.cpystg f) s (fun _ v sl =>
    match s.activeLanes sl v.pg with
    | [] => .ok []
    | l :: ls => s.testedOne v sl l (l :: ls) (fun _ => .ok [.stage (packKey sl) (min ((s.valA v sl l).toNat % 2 ^ 32) 255)]))

/-- CPYSTG.RET (R313). U(A[7:4]) slots go back to the engine of the core at cluster position A[2:0]; without a cluster set it takes the illegal-instruction trap. -/
def execCpystgRet (f : RF) (s : State) : Host.Outcome State Fault Refusal :=
  issue (.cpystgRet f) s (fun _ v sl =>
    match s.activeLanes sl v.pg with
    | [] => .ok []
    | l :: ls => s.testedOne v sl l (l :: ls) (fun _ =>
      let p := s.packOf sl
      let a := (s.valA v sl l).toNat
      if p.cluster.isNone then .error { s.illegal sl v.op with lanes := laneMask (l :: ls) }
      else .ok [.slots (slotKey (p.core / 8 * 8 + a % 8) p.place) (a / 2 ^ 4 % 2 ^ 4) 0]))

/-- The status of a token (R301): that of a running or restored copy of its number first, then the four cases of the rule; and the Tc of the copy that carried it (R233). -/
def State.tokenOf (s : State) (core token : Nat) : Past :=
  let q := s.cqueue (queueKey core (token / 2 ^ 28 % 16))
  let n := token % 2 ^ 28
  let pending : Past := { seq := n, state := 0, psn := false, tc := 0, code := 0, info := 0, va := 0, kept := false }
  if q.jobs.any (fun j => decide (j.seq = n)) then pending
  else
    let d := (q.count + 2 ^ 28 - 1 - n) % 2 ^ 28
    let done : Past := { pending with state := 1, tc := ((q.tcs.find? (fun x => decide (x.1 = n))).map (fun x => x.2)).getD 0 }
    match q.past.find? (fun x => decide (x.seq = n) && (!x.kept || decide (q.count = 0) || (decide (q.count ≤ d) && decide (d < 2 ^ 27)))) with
    | some x => if x.kept ∨ d < q.count then x else if q.count = 0 then pending else if 2 ^ 27 ≤ d then done else pending
    | none => if q.count = 0 then pending else if 2 ^ 27 ≤ d then done else if q.count ≤ d then pending else done

/-- The status word (R301). (DESIGN CHOICE, assumption log 35) -/
def Past.word (x : Past) : Word := BitVec.ofNat 32 (bit x.psn * 4 + x.state)

/-- The token a lane's A holds. (DESIGN CHOICE, assumption log 35) -/
def State.tokenIn (s : State) (v : View) (sl l : Nat) : Nat := (s.valA v sl l).toNat % 2 ^ 32

/-- The clock action of observing completed copies (R233). -/
def seenActs (core : Nat) (xs : List Past) : List Act := xs.filterMap (fun x => if x.state = 0 then none else some (.raiseCk core x.tc))

/-- CPYTST (R314). Each active lane receives the status of its token; a completed one raises ck to its Tc. -/
def execCpytst (f : RF) (s : State) : Host.Outcome State Fault Refusal :=
  issue (.cpytst f) s (fun _ v sl =>
    let ls := s.activeLanes sl v.pg
    s.tested v sl ls (fun _ =>
      let at_ := fun (l : Nat) => s.tokenOf (s.coreOf sl) (s.tokenIn v sl l)
      .ok (s.putD v sl ls (fun l => (at_ l).word) ++ seenActs (s.coreOf sl) (ls.map at_))))

/-- CPYWT (R314). At issue no active lane's token is pending: ck rises, and a faulted copy's trap is taken with AFT = 1. -/
def execCpywt (f : RF) (s : State) : Host.Outcome State Fault Refusal :=
  issue (.cpywt f) s (fun _ v sl =>
    let ls := s.activeLanes sl v.pg
    s.tested v sl ls (fun _ =>
      let xs := ls.map (fun l => (l, s.tokenOf (s.coreOf sl) (s.tokenIn v sl l)))
      let bad := xs.filter (fun x => decide (x.2.state = 2))
      .ok (seenActs (s.coreOf sl) (xs.map (fun x => x.2)) ++ (match bad with
        | [] => []
        | (_, x) :: _ => [.trap sl { code := x.code, info := x.info, addr := BitVec.ofNat 64 x.va, lanes := laneMask (bad.map (fun y => y.1)), aft := true }]))))

/-- The wait of CPYWT at issue. -/
def State.copyPending (s : State) (sl : Nat) (v : View) : Bool :=
  decide (v.op = 0x38) && decide (v.fn = 2) && (s.operandTrap v none sl (s.activeLanes sl v.pg)).isNone
    && (s.activeLanes sl v.pg).any (fun l => decide ((s.tokenOf (s.coreOf sl) (s.tokenIn v sl l)).state = 0))

/-- CPYQ (R315). The status of queue B and the token of its latest completed copy; FLT is cleared where some slice receives them. Before the first completion there is no such token, and its word is a free value. (DESIGN CHOICE, assumption log 35) -/
def execCpyq (f : RF) (s : State) : Host.Outcome State Fault Refusal :=
  issueAll (.cpyq f) s (fun c v =>
    let core := s.coreOf (c.slices.headD 0)
    let k := queueKey core (v.b % 16)
    let q := s.cqueue k
    let p := s.packOf (c.slices.headD 0)
    let fs := if p.cluster.isNone then 0 else Sparse.get 0 s.cpy.slots (slotKey core p.place)
    let low := (q.jobs.head?.map (fun j => j.d.low)).getD false
    let busy := (q.jobs.head?.map (fun j => !j.flight.isEmpty)).getD false
    let w : Word := BitVec.ofNat 32 (fs * 2 ^ 10 + q.jobs.length * 2 ^ 4 + bit low * 8 + bit q.park * 4 + bit q.flt * 2 + bit busy)
    let last : Word := match q.past with
      | x :: _ => BitVec.ofNat 32 (v.b % 16 * 2 ^ 28 + x.seq)
      | [] => Config.undefWord s.run.draws 0
    let some_ := c.slices.any (fun sl => s.activeLanes sl v.pg ≠ [] && (s.operandTrap v s.ext sl (s.activeLanes sl v.pg)).isNone)
    sliceEffs c v (fun sl =>
      let ls := s.activeLanes sl v.pg
      s.tested v sl ls (fun _ => .ok (fileWrites sl (ls.flatMap (fun l => [(l, s.regOf sl l v.d 2, w), (l, s.regOf sl l v.d 2 + 1, last)])))))
      ++ (if some_ then [(none, .cqueue k { q with flt := false })] ++ (if q.past = [] then [(none, .draw 1)] else []) else []))

/-- A copy of the pack that has not completed is cancelled: it ends after the chunks it has begun (R316). -/
def CQueue.cancel (q : CQueue) (pack seq : Nat) : CQueue :=
  { q with jobs := q.jobs.map (fun j => if j.pack = pack ∧ j.seq = seq then { j with stop := some (3, 0, 0, 0) } else j) }
/-- The copy a token names, of a pack, not completed. -/
def State.jobOf (s : State) (core pack token : Nat) : Option CopyJob :=
  (s.cqueue (queueKey core (token / 2 ^ 28 % 16))).jobs.find? (fun j => decide (j.pack = pack) && decide (j.seq = token % 2 ^ 28))

/-- CPYCNL (R316). The pack's uncompleted copies the active lanes name are cancelled; each lane receives the status from before, at once or, where copies are to end first, when they have completed. -/
def execCpycnl (f : RF) (s : State) : Host.Outcome State Fault Refusal :=
  issueAll (.cpycnl f) s (fun c v =>
    let ok := c.slices.filter (fun sl => (s.operandTrap v s.ext sl (s.activeLanes sl v.pg)).isNone)
    let core := s.coreOf (c.slices.headD 0)
    let pack := packKey (c.slices.headD 0)
    let toks := (ok.flatMap (fun sl => (s.activeLanes sl v.pg).map (fun l => s.tokenIn v sl l))).eraseDups
    let hit := toks.filter (fun t => (s.jobOf core pack t).isSome)
    let queues := (hit.map (fun t => t / 2 ^ 28 % 16)).eraseDups
    sliceEffs c v (fun sl =>
      let ls := s.activeLanes sl v.pg
      s.tested v sl ls (fun _ =>
        let old := fun (l : Nat) => (s.tokenOf core (s.tokenIn v sl l)).word
        if hit = [] then .ok (s.putD v sl ls old)
        else .ok (ls.map (fun l => .addReq { s.mkReq c sl l 0 (2 ^ 57) 4 (.load 2 [s.regOf sl l v.d 1]) .queued with tier := 6, data := leBytes 4 (old l).toNat, cover := hit }))))
      ++ queues.map (fun q => (none, Act.cqueue (queueKey core q) (hit.foldl (fun x t => if t / 2 ^ 28 % 16 = q then x.cancel pack (t % 2 ^ 28) else x) (s.cqueue (queueKey core q))))))

/-- COPY_QUEUE_SPACE can act: the slice waits, its queue has space and the free slots it needs are there (R292, R310). -/
def State.spaceReady (s : State) (sl : Nat) : Bool :=
  match (s.slice sl).status with
  | .copySpace k mask => s.queueRoom k && (maskCores mask).all (fun x => decide (0 < Sparse.get 0 s.cpy.slots (slotKey (s.coreOf sl) x)))
  | _ => false

/-- COPY_QUEUE_SPACE (R292). The slices of the waiting split are ready again, and the instruction executes anew. -/
def execCopyQueueSpace (slice : Nat) (s : State) : Host.Outcome State Fault Refusal :=
  if s.spaceReady slice then
    let st := (s.slice slice).status
    event s (((s.slicesOf (packKey slice)).filter (fun x => decide ((s.slice x).status = st) && decide ((s.slice x).gang = (s.slice slice).gang))).map (fun x => .slice x (.status .run)))
  else event s []

/-! ### Chunks (R293, R294, R302) -/

/-- The core of a queue. -/
def coreOfQueue (k : Nat) : Nat := k / 16

/-- Bytes from position p that lie in one row, one element under T32, and one line of the destination and of the source. -/
def CopyJob.runLen (j : CopyJob) (p : Nat) : Nat :=
  let d := j.d
  let inRow := d.rowLen - p % d.rowLen
  let inDst := 64 - d.dstAt j.sd p % 64
  let inSrc := if d.zero then 64 else 64 - d.srcAt j.ss p % 64
  let inEl := if d.t32 then 4 - p % d.rowLen % 4 else 64
  min (min inRow inDst) (min inSrc inEl)

/-- The runs of a chunk: position and length. -/
def CopyJob.runs (j : CopyJob) : Nat → Nat → Nat → List (Nat × Nat)
  | 0, _, _ => []
  | n + 1, p, e => if e ≤ p then [] else
    let k := min (e - p) (j.runLen p)
    (p, k) :: CopyJob.runs j n (p + k) e

/-- Where one run's bytes come from or go to. -/
inductive Place where
  | at_ (key keyid ty : Nat) (psn persist hb : Bool) (acts : List Act)
  | park
  | fault (c : Cause)
  deriving DecidableEq, Repr

/-- Translate n bytes of one line for a copy of a slice (R293, R302): a fabric page cannot be reached (R271). -/
def State.copyPlace (s : State) (sl space addr n : Nat) (write : Bool) : Place :=
  if space = 0 then
    let tlbs := tlbsOfCore (s.coreOf sl)
    match s.translateVia tlbs 0 sl addr write with
    | .error c => .fault c
    | .ok t =>
      match (if write then s.writeTest sl 0 t else .ok t) with
      | .error c => .fault c
      | .ok (.page pg va) => if pg.tier = 3 then .fault ⟨0x0D, 1, addr⟩
        else .at_ (pg.key va) pg.keyid pg.ty pg.poison (decide (pg.tier = 1) && pg.p) pg.hb (s.pageActsAs tlbs (s.packOf sl).asid write pg va)
      | .ok (.dsp key) => .at_ key 0 0 false false false []
      | .ok _ => .park
  else
    match s.localAt sl space addr n with
    | .error c => .fault c
    | .ok key => .at_ key 0 0 false false false []

/-- An address as an overlap test compares it (R298): a VA, or the key of a scratchpad byte. -/
def State.plainAddr (s : State) (sl space addr : Nat) : Nat := if space = 0 then addr else match s.localAt sl space addr 1 with
  | .ok k => k
  | .error _ => 0

/-- The offsets of a destination run that lie within the copy's source. -/
def State.overOf (s : State) (j : CopyJob) (dst : Nat) (dg : Bool) (n : Nat) : List Nat :=
  if j.d.zero ∨ decide (j.ss = 0) ≠ dg then []
  else
    let rows := ((j.d.srcRanges j.ss).map (fun r => (s.plainAddr j.slice j.ss r.1, r.2))).filter (fun r => decide (r.1 < dst + n) && decide (dst < r.1 + r.2))
    (List.range n).filter (fun i => rows.any (fun r => decide (r.1 ≤ dst + i) && decide (dst + i < r.1 + r.2)))

/-- The destinations of a run: (place, receiver's pack). -/
def State.dstPlaces (s : State) (j : CopyJob) (addr n : Nat) : List (Place × Nat) :=
  if j.mask = 0 then [(s.copyPlace j.slice j.sd addr n true, j.pack)]
  else (maskCores j.mask).map (fun k => (s.copyPlace j.slice 2 (atCore k addr) n true, (s.clusterPack j.pack k).getD 0))

/-- What the next chunk of a copy meets. -/
inductive ChunkRes where
  | parts (ps : List Part) (acts : List Act)
  | park
  | fault (c : Cause)
  deriving DecidableEq, Repr

/-- One run of a chunk. -/
def State.runPart (s : State) (j : CopyJob) (p n : Nat) : ChunkRes :=
  let da := j.d.dstAt j.sd p
  let src := if j.d.zero then none else some (s.copyPlace j.slice j.ss (j.d.srcAt j.ss p) n false)
  let dst := s.dstPlaces j da n
  match src, dst.find? (fun x => match x.1 with
    | .at_ _ _ _ _ _ _ _ => false
    | _ => true) with
  | some .park, _ => .park
  | some (.fault c), _ => .fault c
  | _, some (.park, _) => .park
  | _, some (.fault c, _) => .fault c
  | sp, _ =>
    let keys := dst.filterMap (fun x => match x.1 with
      | .at_ k _ _ _ _ _ _ => some (k, x.2)
      | _ => none)
    let (keyid, persist, hb, acts) := match (dst.headD (.park, 0)).1 with
      | .at_ _ id _ _ pe hb acts => (id, pe, hb, acts)
      | _ => (0, false, false, [])
    let (run, sacts) : Option SrcRun × List Act := match sp with
      | some (.at_ k id ty psn _ _ acts) => (some ⟨k, n, id, ty, psn⟩, acts)
      | _ => (none, [])
    .parts [{ pos := p, len := n, va := da, src := run, dst := keys, keyid := keyid, persist := persist, hb := hb,
              lapped := keys.flatMap (fun k => (s.overOf j (if j.sd = 0 ∧ j.mask = 0 then da else k.1) (decide (j.sd = 0) && decide (j.mask = 0)) n).map (fun o => (k.2, o))) }] (sacts ++ acts)

/-- The runs of a chunk in copy order: the first that parks or faults decides. -/
def joinRuns : List ChunkRes → ChunkRes
  | [] => .parts [] []
  | .parts ps as :: rest => (match joinRuns rest with
    | .parts qs bs => .parts (ps ++ qs) (as ++ bs)
    | other => other)
  | other :: _ => other

/-- The next chunk of a copy, translated. -/
def State.chunkOf (s : State) (j : CopyJob) : ChunkRes :=
  joinRuns ((j.runs 4096 (4096 * j.next) (min (4096 * (j.next + 1)) j.d.total)).map (fun r => s.runPart j r.1 r.2))

/-- The head copy of a queue has a chunk to begin (R292, R293). -/
def State.hasChunk (s : State) (k : Nat) : Bool :=
  let q := s.cqueue k
  match q.jobs with
  | j :: _ => !q.park && !(s.pack j.pack).freeze && j.stop.isNone && decide (j.next < j.d.chunks)
  | [] => false

/-- Chunks of an engine in flight. -/
def State.inFlight (s : State) (core : Nat) : Nat :=
  (List.range 16).foldl (fun n q => n + ((s.cqueue (queueKey core q)).jobs.map (fun j => j.flight.length)).foldl (· + ·) 0) 0

/-- The queue whose chunk the engine begins next (R294): round-robin, LOWPRI copies only when no other is ready. -/
def State.nextQueue (s : State) (core : Nat) : Option Nat :=
  if 8 ≤ s.inFlight core then none
  else
    let ready := (List.range 16).filter (fun q => s.hasChunk (queueKey core q))
    let high := ready.filter (fun q => match (s.cqueue (queueKey core q)).jobs with
      | j :: _ => !j.d.low
      | [] => false)
    let pool := if high = [] then ready else high
    let from_ := Sparse.get 0 s.cpy.turn core
    (pool.find? (fun q => decide (from_ ≤ q))) <|> pool.head?

/-- The jobs of a queue with its head replaced. -/
def CQueue.setHead (q : CQueue) (j : CopyJob) : CQueue := { q with jobs := j :: q.jobs.drop 1 }

/-- The start of the chosen chunk of a queue (R294, R302): its pages are translated; it begins, parks its queue, or ends its copy with STATE 2, where a malformed entry leaves its error record (R192). -/
def State.chunkStart (s : State) (core queue : Nat) : List Act :=
  let k := queueKey core queue
  let q := s.cqueue k
  match s.nextQueue core, q.jobs with
  | some n, j :: _ =>
    if n ≠ queue then []
    else
      match s.chunkOf j with
      | .park => [.cqueue k { q with park := true }, .turn core ((queue + 1) % 16)]
      | .fault c => c.note (s.pack j.pack).asid ++ [.cqueue k (q.setHead { j with stop := some (2, c.code, c.info, c.addr) }), .turn core ((queue + 1) % 16)]
      | .parts ps acts => acts.eraseDups ++ [.cqueue k (q.setHead { j with next := j.next + 1, flight := j.flight ++ [(j.next, ps)] }), .turn core ((queue + 1) % 16)]
  | _, _ => []

/-- COPY_QUEUE_RESUME can act: the parked chunk's fault is resolved. -/
def State.resumeQueue (s : State) (k : Nat) : Bool :=
  let q := s.cqueue k
  match q.jobs with
  | j :: _ => q.park && decide (s.chunkOf j ≠ .park)
  | [] => false

/-- The addresses a parked queue's chunk touches, for the fault unit: (ASID, VA). -/
def State.copyWants (s : State) (k : Nat) : List (Nat × Nat) :=
  let q := s.cqueue k
  match q.jobs with
  | j :: _ => if q.park then
      (j.runs 4096 (4096 * j.next) (min (4096 * (j.next + 1)) j.d.total)).flatMap (fun r =>
        (if j.ss = 0 ∧ !j.d.zero then [((s.pack j.pack).asid, j.d.srcAt 0 r.1)] else []) ++ (if j.sd = 0 then [((s.pack j.pack).asid, j.d.dstAt 0 r.1)] else []))
    else []
  | [] => []

/-! ### Reads and writes of a part (R233, R298, R303, R305) -/

/-- A key of host memory. -/
def hostKey (key : Nat) : Bool := decide (hostBase ≤ key) && decide (key < dspKey)

/-- The bytes of a source run and their poison (poisoned while the host link refuses traffic, R348, R423): from the home, or from a lease copy that still serves the core's loads, as the hardware chooses (R220, R233). -/
def State.copyRead (s : State) (core : Nat) (r : SrcRun) : List Byte × Bool × Bool :=
  let home := if s.dev.ide && hostKey r.key then ((List.range r.len).map (fun i => Config.undefByte s.run.draws i), true, false)
    else (s.bytesAs r.key r.len r.keyid, r.psn || s.localPsn r.key r.len, false)
  match (if r.ty = 0 ∧ r.key < dspKey ∧ s.pick 1 2 = 1 then s.leaseCopy core (lineOf r.key) else none) with
  | some c => (s.decrypt r.keyid r.key ((c.data.drop (r.key % 64)).take r.len) (c.tags.drop (r.key % 64)), r.psn || c.psn, true)
  | none => home

/-- The lease a read at the home takes for a copy (R220, R233): its read time is at least ck at the copy's issue. -/
def State.copyLease (s : State) (core ck key : Nat) : List Act :=
  if key < dspKey then
    let l := lineOf key
    [.times l (s.wtsOf l) (max (s.rtsOf l) (max ck (s.wtsOf l) + (s.core core).lease))]
  else []

/-- A write at a home by an agent with clock ck (R221, R439): its acts and its ws. A whole line without poison clears the line's mark; poison sets it (R303, R428). A write to a host-bias page is sent to the host as well (R202). While the host link refuses traffic, a write to host memory is a link error (R348, R423). (DEDUCED, assumption log 28) -/
def State.agentWrite (s : State) (ck key keyid : Nat) (bs : List Byte) (psn persist hb refill : Bool) : List Act × Nat :=
  let line := lineOf key
  let timed := decide (key < dspKey)
  let ws := if timed then max ck (s.rtsOf line + 1) else 0
  if s.dev.ide && hostKey key then ([.record { cls := 4, keyid := keyid, tier := 2, die := homeDie key, pa := key - hostBase, time := s.us, count := 1 }], ck)
  else
  ((if refill then [.refill key bs keyid] else [.store key bs keyid])
    ++ (if timed then [.times line ws ws] else (List.range ((bs.length + 3) / 4)).map (fun i => .wmark (key / 4 + i) false))
    ++ (if timed && !persist && !hb && decide (key < hostBase) then [.dirty line true] else []) ++ (if hb then [.send (.cacheWrite key bs)] else [])
    ++ (if psn then [.mark line true] else if bs.length = 64 ∧ s.marked line then [.mark line false] else []), ws)

/-- A destination line of a persist page has bytes of the copy still to be written, beside those of one part (R237). -/
def CopyJob.moreOn (j : CopyJob) (line : Nat) (pos : Nat) : Bool :=
  j.flight.any (fun f => f.2.any (fun q => q.persist && decide (q.va / 64 = line) && decide (q.pos ≠ pos)))
    || (j.stop.isNone && (List.range j.d.dstRows).any (fun r =>
      let a := j.d.dstAt 0 (r * j.d.rowLen)
      let hi := min (a + j.d.rowLen) (line * 64 + 64)
      decide (max a (line * 64) < hi) && decide (4096 * j.next ≤ r * j.d.rowLen + (hi - 1 - a))))

/-- A persist-write of a line (R237, R305): the bytes of the line the copy has written, as they stand at the home. (DEDUCED, assumption log 40) -/
def State.copyPersist (s : State) (j : CopyJob) (l : LineAcc) (now : Nat → Byte) : Act :=
  .addPersist { slices := if j.d.pord then [(j.slice, j.epoch)] else [], line := l.line, cells := ((List.range 64).filter l.offs.contains).map (fun o => (o, now o)), mark := l.mark || s.marked l.line,
                copy := some (j.uid, l.pos), pord := j.d.pord, die := dieOfCore (s.coreOf j.slice) }

/-- One thing a chunk in flight may do next: read a part, or write it to one of its destinations. -/
structure Move where
  chunk : Nat
  part : Nat
  dst : Option (Nat × Nat)
  deriving DecidableEq, Repr

/-- The moves of a copy. A write waits while its timestamp does not fit its die (R225). -/
def State.moves (s : State) (j : CopyJob) : List Move :=
  j.flight.flatMap (fun f => f.2.flatMap (fun p =>
    match p.data with
    | none => [⟨f.1, p.pos, none⟩]
    | some _ => (p.dst.filter (fun d => decide (dspKey ≤ d.1) || !s.snapKey d.1 && s.wsFits (lineOf d.1) (max j.ck (s.rtsOf (lineOf d.1) + 1)))).map (fun d => ⟨f.1, p.pos, some d⟩)))

/-- The flight list with one part changed, or gone; a chunk without parts has ended. -/
def CopyJob.setPart (j : CopyJob) (pos : Nat) (v : Option Part) : CopyJob :=
  { j with flight := (j.flight.map (fun f => (f.1, f.2.filterMap (fun p => if p.pos = pos then v else some p)))).filter (fun f => !f.2.isEmpty) }

/-- Every byte for one receiver of a CPYM has been performed (R310). -/
def CopyJob.received (j : CopyJob) (pack : Nat) : Bool :=
  decide (j.next = j.d.chunks) && j.flight.all (fun f => f.2.all (fun p => p.dst.all (fun d => decide (d.2 ≠ pack))))

/-- A raise of an arrival word behind a copy (R301, R310): the word, Tc and OBSV of its core. -/
def State.arriveWord (s : State) (p tgt tc : Nat) : List Act :=
  if (s.pack p).here && (s.slicesOf p).any (fun x => !(s.slice x).gone) then
    match s.arrvKey p tgt with
    | some key => [.raise key 1, .tc (2 ^ 60 + key) tc, .raiseObsv (s.pack p).core tc]
    | none => []
  else []

/-- A part is read: its data stands with it. -/
def State.readPart (s : State) (k : Nat) (j : CopyJob) (p : Part) : List Act :=
  let core := coreOfQueue k
  let (bs, psn, cached) := match p.src with
    | none => (List.replicate p.len 0, false, false)
    | some r => s.copyRead core r
  let j1 := j.setPart p.pos (some { p with data := some (bs, psn) })
  (match p.src with
    | some r => (if cached then [] else s.copyLease core j.ck r.key) ++ [.draw 2]
    | none => [.draw 1]) ++ [.cqueue k ((s.cqueue k).setHead j1)]

/-- A part is written to one destination (R298, R303, R305, R308, R310). -/
def State.writePart (s : State) (k : Nat) (j : CopyJob) (p : Part) (d : Nat × Nat) (data : List Byte × Bool) : List Act :=
  let twice := (p.lapped.filter (fun o => decide (o.1 = d.2))).map (fun o => o.2)
  let bs := data.1.zipIdx.map (fun x => if twice.contains x.2 then Config.undefByte s.run.draws x.2 else x.1)
  let (acts, ws) := s.agentWrite j.ck d.1 p.keyid bs data.2 p.persist p.hb j.refill
  let left := p.dst.filter (fun x => decide (x ≠ d))
  let j1 : CopyJob := { j.setPart p.pos (if left = [] then none else some { p with dst := left }) with tc := max j.tc ws, psn := j.psn || data.2 }
  let line := lineOf d.1
  let off := d.1 % 64
  let acc0 : LineAcc := (j.lines.find? (fun l => decide (l.line = line))).getD { va := p.va / 64, line := line, pos := p.pos, offs := [], mark := false }
  let acc := { acc0 with pos := min acc0.pos p.pos, offs := ((List.range p.len).map (fun i => off + i) ++ acc0.offs).eraseDups, mark := acc0.mark || data.2 }
  let others := j.lines.filter (fun l => decide (l.line ≠ line))
  let now := fun (o : Nat) => if off ≤ o ∧ o < off + bs.length then bs.getD (o - off) 0 else s.byte (line * 64 + o)
  let more : Bool := j1.moreOn (p.va / 64) p.pos
  let j2 : CopyJob := if !p.persist then j1 else if more then { j1 with lines := acc :: others } else { j1 with lines := others }
  let flush := if p.persist && !more then [s.copyPersist j acc now] else []
  let done := decide (j.mask ≠ 0) && decide (j.d.kind = 2) && j2.received d.2 && !j2.raised.contains d.2
  let j3 := if done then { j2 with raised := d.2 :: j2.raised } else j2
  acts ++ twice.map (fun o => .undefMem (d.1 + o) 1) ++ flush ++ (if done then s.arriveWord d.2 j.d.tgt j3.tc else []) ++ [.draw 1, .cqueue k ((s.cqueue k).setHead j3)]

/-- One step of the head copy's chunks in flight (R293): a part is read, or written to a destination, in an order the hardware chooses. (DEDUCED, assumption log 40) -/
def State.chunkStep (s : State) (core queue : Nat) : List Act :=
  let k := queueKey core queue
  match (s.cqueue k).jobs with
  | [] => []
  | j :: _ =>
    let ms := s.moves j
    match ms[s.pick 0 ms.length]? with
    | none => []
    | some m =>
      match (j.flight.flatMap (fun f => f.2)).find? (fun p => decide (p.pos = m.part)) with
      | none => []
      | some p =>
        match m.dst, p.data with
        | some d, some data => s.writePart k j p d data
        | _, _ => s.readPart k j p

/-! ### Completion (R301, R316) -/

/-- The copy that completes next in a queue: its head when all its writes are performed and, for a PORD copy or an OPQ consumer, accepted; else one that was cancelled before it began (R292, R301, R311, R316). -/
def State.completing (s : State) (k : Nat) : Option (Nat × CopyJob) :=
  let ended := fun (j : CopyJob) => j.flight.isEmpty && (j.stop.isSome || decide (j.d.chunks ≤ j.next))
  let accepted := fun (j : CopyJob) => !(j.d.pord || decide (j.consumers / 4 % 2 = 1)) || s.transit.all (fun e => match e.2.copy with
    | some (u, _) => decide (u ≠ j.uid)
    | none => true)
  match (s.cqueue k).jobs with
  | [] => none
  | j :: _ =>
    if ended j && (!j.lines.isEmpty || accepted j) then some (0, j)
    else ((s.cqueue k).jobs.zipIdx.find? (fun x => decide (0 < x.2) && x.1.stop.isSome && decide (x.1.next = 0) && x.1.flight.isEmpty)).map (fun x => (x.2, x.1))

/-- The instructions that wait for a cancelled copy have one copy fewer to wait for. -/
def State.cancelDone (s : State) (core token : Nat) : List Act :=
  (s.reqs.filter (fun e => decide (e.2.tier = 6) && decide (e.2.core = core) && e.2.cover.contains token)).map (fun e =>
    let left := e.2.cover.filter (fun t => decide (t ≠ token))
    .setReq e.1 (some { e.2 with cover := left, state := if left = [] then .served e.2.data 0 false else e.2.state }))

/-- COPY_COMPLETE (R301). The status is recorded; then the copy arrives at its barrier or raises its arrival words, with Tc. A copy that ended early first issues the persist-writes of the lines it has written. -/
def execCopyComplete (core queue : Nat) (s : State) : Host.Outcome State Fault Refusal :=
  let k := queueKey core queue
  let q := s.cqueue k
  match s.completing k with
  | none => event s []
  | some (i, j) =>
    if i = 0 ∧ j.lines ≠ [] then
      event s (j.lines.map (fun l => s.copyPersist j l (fun o => s.byte (l.line * 64 + o))) ++ [.cqueue k (q.setHead { j with lines := [] })])
    else
      let (st, code, info, va) := j.stop.getD (1, 0, 0, 0)
      let x : Past := { seq := j.seq, state := st, psn := j.psn, tc := j.tc, code := code, info := info, va := va, kept := j.kept }
      let live := (s.pack j.pack).here && (s.slicesOf j.pack).any (fun y => !(s.slice y).gone)
      let bk := barKey j.pack j.d.tgt
      event s (.cqueue k { q with jobs := q.jobs.eraseIdx i, past := (x :: q.past).take 32, tcs := (j.seq, j.tc) :: q.tcs.filter (fun y => decide (y.1 ≠ j.seq)), flt := q.flt || decide (st = 2), park := q.park && decide (i ≠ 0) }
        :: (if j.d.kind = 1 ∧ live then [.bar bk (s.bar bk).arrive, .tc bk j.tc, .raiseObsv (s.pack j.pack).core j.tc] else [])
        ++ (if j.d.kind ≠ 2 then []
          else if j.mask = 0 then s.arriveWord j.pack j.d.tgt j.tc
          else ((maskCores j.mask).filterMap (fun c => s.clusterPack j.pack c)).flatMap (fun p => if j.raised.contains p then [] else s.arriveWord p j.d.tgt j.tc))
        ++ s.cancelDone core (queue * 2 ^ 28 + j.seq))

/-! ### Refills (R308) -/

/-- REFILL_ACCEPT (R308). A fired schedule entry is accepted. (DESIGN CHOICE, assumption log 36) -/
def execRefillAccept (pack entry : Nat) (s : State) : Host.Outcome State Fault Refusal :=
  if s.refillReady pack entry then event s [.take pack entry] else event s []

end Sys2Proof.Machine
end

