-- ==== Sys2Proof/Machine/CrossLane.lean ====
section
/-! DEFINITION. Predicate and cross-lane instructions (05_integer R128 to R131). -/
namespace Sys2Proof.Machine

/-- A predicate instruction that acts lane by lane (R128): pD := op pA pB. -/
def predOp (i : Instr) (op : Bool → Bool → Bool) (s : State) : Host.Outcome State Fault Refusal :=
  issue i s (fun _ v sl =>
    .ok ((s.activeLanes sl v.pg).map (fun l =>
      .pred (laneKey sl l) (v.d % 8) (op (s.predOf (laneKey sl l) (v.a % 8)) (s.predOf (laneKey sl l) (v.b % 8))))))

/-- PAND (R128). Writes the AND of two predicates in each active lane. -/
def execPand (f : RF) (s : State) : Host.Outcome State Fault Refusal := predOp (.pand f) (fun a b => a && b) s
/-- POR (R128). Writes the OR of two predicates in each active lane. -/
def execPor (f : RF) (s : State) : Host.Outcome State Fault Refusal := predOp (.por f) (fun a b => a || b) s
/-- PXOR (R128). Writes the XOR of two predicates in each active lane. -/
def execPxor (f : RF) (s : State) : Host.Outcome State Fault Refusal := predOp (.pxor f) (fun a b => a != b) s
/-- PNOT (R128). Writes the negation of a predicate in each active lane. -/
def execPnot (f : RF) (s : State) : Host.Outcome State Fault Refusal := predOp (.pnot f) (fun a _ => !a) s
/-- PMOV (R128). Sets a predicate to whether the vector register is nonzero in each active lane. -/
def execPmov (f : RF) (s : State) : Host.Outcome State Fault Refusal := lanewise (.pmov f) fnPmov s

/-- The active lanes of the issuing split, as (slice, lane), by gang lane (R122). -/
def State.splitLanes (s : State) (c : Cur) (pg : Nat) : List (Nat × Nat) :=
  (s.byGslot c.slices).flatMap (fun sl => (s.activeLanes sl pg).map (fun l => (sl, l)))
/-- Gang lane number of a lane (R55). -/
def State.gangLane (s : State) (sl l : Nat) : Nat := 4 * (s.slice sl).gslot + l

/-- A vote (R128): the result over the active lanes of the split is written in every active lane. -/
def vote (i : Instr) (f : List Bool → Bool) (s : State) : Host.Outcome State Fault Refusal :=
  issue i s (fun c v sl =>
    let r := f ((s.splitLanes c v.pg).map (fun x => s.predOf (laneKey x.1 x.2) (v.a % 8)))
    .ok ((s.activeLanes sl v.pg).map (fun l => .pred (laneKey sl l) (v.d % 8) r)))

/-- VOTE.ANY (R128). -/
def execVoteAny (f : RF) (s : State) : Host.Outcome State Fault Refusal := vote (.voteAny f) (fun l => l.any id) s
/-- VOTE.ALL (R128). -/
def execVoteAll (f : RF) (s : State) : Host.Outcome State Fault Refusal := vote (.voteAll f) (fun l => l.all id) s
/-- The mask of the active lanes of the split whose predicate k holds (R128). -/
def State.ballot (s : State) (c : Cur) (pg k : Nat) : Word :=
  BitVec.ofNat 32 (((s.splitLanes c pg).map (fun x => if s.predOf (laneKey x.1 x.2) k then 2 ^ s.gangLane x.1 x.2 else 0)).foldl (· + ·) 0)
/-- BALLOT (R128). Writes the mask of active lanes whose predicate holds into vD of every active lane. -/
def execBallot (f : RF) (s : State) : Host.Outcome State Fault Refusal :=
  issue (.ballot f) s (fun c v sl =>
    let ls := s.activeLanes sl v.pg
    s.tested v sl ls (fun _ =>
      let m := s.ballot c v.pg (v.a % 8)
      .ok (s.writeActs v s.ext sl (ls.flatMap (fun l => s.destWrites v sl l (m.setWidth 64))))))

/-- The lane of the issuing split that holds a gang lane of its active mask (R123). -/
def State.findLane (s : State) (c : Cur) (j : Int) : Option (Nat × Nat) :=
  if j < 0 ∨ 31 < j then none
  else
    match c.slices.find? (fun sl => decide ((s.slice sl).gslot = j.toNat / 4)) with
    | some sl => if (s.liveLanes sl).contains (j.toNat % 4) then some (sl, j.toNat % 4) else none
    | none => none

/-- The lanes from which an active lane receives A (R131): its source lane for a shuffle, the active lanes the form sums for a reduction or scan. -/
abbrev Sources := Cur → View → Nat → Nat → List (Nat × Nat)

/-- The tests of a cross-lane instruction for one slice (R131): D and B as usual over the active lanes; A is resolved in every lane of the active mask, and a failing or poisoned lane traps the slices that receive from it. -/
def State.crossTrap (s : State) (c : Cur) (v : View) (src : Sources) (sl : Nat) : Option Trap :=
  let act := s.activeLanes sl v.pg
  let b := if (v.imm s.ext).isSome then Opnd.non else v.form.b
  let failing := c.slices.flatMap (fun x => (s.liveLanes x).filterMap (fun l => match s.resolve x l v.a 1 with
    | .error i => some (x, l, i)
    | .ok _ => none))
  let fails := fun (x : Nat × Nat) => failing.any (fun f => decide ((f.1, f.2.1) = x))
  let ownFail := (s.liveLanes sl).filter (fun l => fails (sl, l))
  let boundsFor (_ : Unit) : Option Trap :=
    let recv := act.filter (fun l => (src c v sl l).any fails)
    let ls := lanes4.filter (fun l => ownFail.contains l || recv.contains l)
    match ls with
    | [] => none
    | l :: _ =>
      let reads := (if ownFail.contains l then [(sl, l)] else []) ++ (if recv.contains l then (src c v sl l).filter fails else [])
      let idx := (failing.filter (fun f => reads.contains (f.1, f.2.1))).head?
      some { code := 0x03, info := v.a, addr := BitVec.ofNat 64 ((idx.map (fun f => f.2.2)).getD 0), lanes := laneMask ls, operand := true }
  let psn := fun (x : Nat × Nat) => s.readPsn v.bypass x.1 x.2 (s.regOf x.1 x.2 v.a 1)
  let poisonFor (_ : Unit) : Option Trap :=
    let recv := act.filter (fun l => (src c v sl l).any psn)
    match recv with
    | [] => none
    | l :: _ =>
      let low := ((src c v sl l).filter psn).foldl (fun (m : Option (Nat × Nat)) x => match m with
        | none => some x
        | some y => some (if s.gangLane x.1 x.2 < s.gangLane y.1 y.2 then x else y)) none
      some { code := 0x10, info := v.a, addr := (low.bind (fun x => (s.slice x.1).origin)).getD 0, lanes := laneMask recv, operand := true }
  (s.boundsTrap sl v.form.d v.d act) <|> boundsFor () <|> (s.boundsTrap sl b v.b act)
    <|> poisonFor () <|> s.psnTrap sl v.b (s.psnLanes v.bypass sl b v.b act)

/-- The value of A in a lane of the split. -/
def State.laneA (s : State) (v : View) (x : Nat × Nat) : Word := s.readReg v.bypass x.1 x.2 (s.regOf x.1 x.2 v.a 1)

/-- The shuffle source of lane n (R129, R123): the lane `j` names when the active mask holds it, else lane n itself. -/
def shuffleSrc (s : State) (j : Nat → Nat → Word → Int) : Sources := fun c v sl l =>
  match s.findLane c (j (s.gangLane sl l) (s.slice sl).gslot ((s.valB v s.ext sl l).setWidth 32)) with
  | some x => [x]
  | none => [(sl, l)]

/-- A shuffle (R129). -/
def shuffle (i : Instr) (j : Nat → Nat → Word → Int) (s : State) : Host.Outcome State Fault Refusal :=
  issue i s (fun c v sl =>
    let src := shuffleSrc s j
    match s.crossTrap c v src sl with
    | some t => .error t
    | none =>
      .ok (s.writeActs v s.ext sl ((s.activeLanes sl v.pg).flatMap (fun l =>
        s.destWrites v sl l ((((src c v sl l).head?.map (s.laneA v)).getD 0).setWidth 64)))))

/-- SHFL.IDX (R129). -/
def execShflIdx (f : RF) (s : State) : Host.Outcome State Fault Refusal := shuffle (.shflIdx f) (fun _ _ b => b.toNat % 32) s
/-- SHFL.UP (R129). -/
def execShflUp (f : RF) (s : State) : Host.Outcome State Fault Refusal := shuffle (.shflUp f) (fun n _ b => Int.ofNat n - b.toNat) s
/-- SHFL.DOWN (R129). -/
def execShflDown (f : RF) (s : State) : Host.Outcome State Fault Refusal := shuffle (.shflDown f) (fun n _ b => Int.ofNat n + b.toNat) s
/-- SHFL.XOR (R129). -/
def execShflXor (f : RF) (s : State) : Host.Outcome State Fault Refusal := shuffle (.shflXor f) (fun n _ b => Int.ofNat (n ^^^ (b.toNat % 32))) s
/-- LSWZ (R129): a 2-bit field of B for each lane of the slice. -/
def execLswz (f : RF) (s : State) : Host.Outcome State Fault Refusal :=
  shuffle (.lswz f) (fun n g b => 4 * g + b.toNat / 4 ^ (n % 4) % 4) s

/-- The sources of a reduction: every active lane of the split. -/
def reduceSrc (s : State) : Sources := fun c v _ _ => s.splitLanes c v.pg
/-- The sources of the scan: the active lanes m ≤ n. -/
def scanSrc (s : State) : Sources := fun c v sl l =>
  (s.splitLanes c v.pg).filter (fun x => decide (s.gangLane x.1 x.2 ≤ s.gangLane sl l))

/-- A reduction or scan (R130): a function of the sources' values, and flags for FPCTL. -/
def reduce (i : Instr) (src : State → Sources) (r : Slice → List Word → Word × BitVec 8) (s : State) : Host.Outcome State Fault Refusal :=
  issue i s (fun c v sl =>
    match s.crossTrap c v (src s) sl with
    | some t => .error t
    | none =>
      let outs := (s.activeLanes sl v.pg).map (fun l => (l, r (s.slice sl) ((src s c v sl l).map (s.laneA v))))
      let fl := outs.foldl (fun acc o => acc ||| o.2.2) (0 : BitVec 8)
      .ok (s.writeActs v s.ext sl (outs.flatMap (fun o => s.destWrites v sl o.1 (o.2.1.setWidth 64)))
        ++ s.flagActs v sl fl))

/-- The 32-bit wrapped sum (R130). -/
def sumWords (l : List Word) : Word := l.foldl (· + ·) 0
/-- The FP32 maximum of a list (R130): the FMax rule from left to right, under the reading slice's FTZ. -/
def fmaxWords (x : Slice) (l : List Word) : Word × BitVec 8 :=
  let ftz := ftzOf x.fpctl
  match l with
  | [] => (0, 0)
  | a :: rest =>
    let m := rest.foldl (fun acc b => (f32.maxOp ftz false acc b.toNat).1) a.toNat
    let m' := if f32.isNan m then f32.nanCode else f32.flush ftz m
    (BitVec.ofNat 32 m', flagIf (l.any (fun w => f32.isSnan w.toNat)) flagNV)

/-- GRED.IADD (R130). -/
def execGredIadd (f : RF) (s : State) : Host.Outcome State Fault Refusal := reduce (.gredIadd f) reduceSrc (fun _ l => (sumWords l, 0)) s
/-- GRED.FMAX (R130). -/
def execGredFmax (f : RF) (s : State) : Host.Outcome State Fault Refusal := reduce (.gredFmax f) reduceSrc fmaxWords s
/-- GSCAN.IADD (R130). -/
def execGscanIadd (f : RF) (s : State) : Host.Outcome State Fault Refusal := reduce (.gscanIadd f) scanSrc (fun _ l => (sumWords l, 0)) s

end Sys2Proof.Machine
end

