-- ==== Sys2Proof/Machine/Remote.lean ====
section
/-! DEFINITION. Remote accesses, bulk operations, names and register messages (13_remote R317 to R346), from both ends: what the device sends and waits for, and what arrives from other devices. -/
namespace Sys2Proof.Machine

/-! ### RSTATUS and capabilities (R323, R326) -/

/-- The device's pod and device number (R17). -/
def State.podNo (s : State) : Nat := s.maps.devid / 2 ^ 12
/-- Its device number. -/
def State.devNo (s : State) : Nat := s.maps.devid % 2 ^ 12

/-- The flag an RCODE sets (R326). -/
def rcodeFlag (code : Nat) : Nat :=
  if code = 7 ∨ code = 8 then 1 else if code = 1 ∨ code = 4 then 2 else if code = 2 ∨ code = 3 ∨ code = 5 then 4 else 0

/-- An event is recorded in the RSTATUS of a slice's gang (R326): the sticky flags stay, and the latest code replaces the one before. -/
def State.statusActs (s : State) (sl code : Nat) : List Act :=
  if code = 0 then [] else [.rstatus (s.gangKey sl) 7#32 (BitVec.ofNat 32 (rcodeFlag code + code % 256 * 2 ^ 8))]

/-- The entry a CAP under way puts in an entry's place, when the hardware has the instruction use it (R365). (DESIGN CHOICE, assumption log 88) -/
def State.newCap (s : State) (p c : Nat) : Option CapEntry := (Sparse.get none s.fab.fresh (p * 64 + c)).filter (fun _ => decide (s.pick 0 2 = 1))
/-- A capability entry of a pack as an instruction uses it: before a CAP's completion the old one or the new one, chosen by the hardware (R365). -/
def State.cap (s : State) (p c : Nat) : CapEntry := (s.newCap p c).getD (Sparse.get {} s.fab.caps (p * 64 + c))
/-- The entry used is charged (R323). -/
def State.capActs (s : State) (p c : Nat) (v : CapEntry) : List Act :=
  (if (s.newCap p c).isSome then [.fresh (p * 64 + c) (some v)] else [.cap (p * 64 + c) v]) ++ (if Sparse.get none s.fab.fresh (p * 64 + c) = none then [] else [.draw 1])
/-- Bits hi..lo of CTL. -/
def CapEntry.bits (e : CapEntry) (hi lo : Nat) : Nat := bitsOf e.ctl hi lo
/-- No limit on the bytes sent. -/
def noLimit : Nat := 2 ^ 64 - 1

/-- An entry refuses a use (R323): the kinds that serve it, its permission bit, target pod and device, remote range or core, and bytes. -/
def CapEntry.refuses (e : CapEntry) (kinds : List Nat) (perm own pod dev : Nat) (range : Option (Nat × Nat)) (core : Option Nat) (bytes : Nat) : Bool :=
  let kind := e.bits 2 1
  !flagOf e.ctl 0 || !kinds.contains kind || !flagOf e.ctl perm
    || decide (pod < e.bits 23 16) || decide (e.bits 31 24 < pod) || (decide (pod ≠ own) && !flagOf e.ctl 7)
    || (decide (kind ≠ 1) && (decide (dev < e.bits 43 32) || decide (e.bits 55 44 < dev)))
    || (match range with
      | some (va, n) => decide (va < e.base) || decide (e.base + e.len < va + n)
      | none => false)
    || (match core with
      | some k => decide (k < e.base % 2 ^ 8) || decide (e.base / 2 ^ 8 % 2 ^ 8 < k)
      | none => false)
    || (decide (e.allow ≠ noLimit) && decide (e.allow < bytes))

/-- ALLOW after a use. -/
def CapEntry.charge (e : CapEntry) (bytes : Nat) : CapEntry := if e.allow = noLimit then e else { e with allow := e.allow - bytes }

/-! ### Bulk operations at their source (R327 to R333) -/

/-- Element size of a reduction (R327). -/
def redSize : Nat → Nat
  | 0 => 4
  | 1 => 2
  | 2 => 4
  | _ => 1

/-- Multiplication by x in GF(2^8) (R159). -/
def gfDouble (a : Nat) : Nat := if a < 128 then 2 * a else (2 * a) ^^^ 0x11D
/-- Mul of R159. -/
def gfMul (c d : Nat) : Nat := ((List.range 8).foldl (fun (acc : Nat × Nat) k => (if d / 2 ^ k % 2 = 1 then acc.1 ^^^ acc.2 else acc.1, gfDouble acc.2)) (0, c)).1

/-- The pages of a range, each by an address in it. -/
def pagesOf (va n : Nat) : List Nat := (List.range ((va + n - 1) / 65536 - va / 65536 + 1)).map (fun i => max va ((va / 65536 + i) * 65536))

/-- Step 6 of R329: the pod and device every page of the remote range names, or the trap. -/
def State.bulkTarget (s : State) (asid va n : Nat) : Except Trap (Nat × Nat) :=
  let frames := (pagesOf va n).map (fun x => match s.walk asid x with
    | .ok p => if p.tier = 3 then some (p.frame % 2 ^ 20) else none
    | .error _ => none)
  match frames with
  | [] => .ok (0, 0)
  | f :: _ =>
    if frames.any (fun x => x.isNone) then .error { code := 0x0D, info := 0, addr := BitVec.ofNat 64 va }
    else if frames.any (fun x => decide (x ≠ f)) then .error { code := 0x0D, info := 1, addr := BitVec.ofNat 64 va }
    else .ok (f.getD 0 / 2 ^ 12, f.getD 0 % 2 ^ 12)

/-- The checks of R329 and the operation they admit. -/
def State.bulkChecks (s : State) (v : View) (sl op : Nat) : Except Trap CopyRes :=
  let w := fun (k : Nat) => (s.descWords v sl).getD k 0
  let p := s.packOf sl
  let remote := w 0 + w 1 * 2 ^ 32
  let loc := w 2 + w 3 * 2 ^ 32
  let len := w 4
  let red := w 5 / 2 ^ 28
  let coef := w 6 / 2 ^ 24
  let es := if op = 2 then redSize red else 1
  let law := flagOf (w 6) 16
  let word := p.arrvBase + 8 * (w 6 % 2 ^ 16)
  if w 7 ≠ 0 ∨ bitsOf (w 5) 27 24 ≠ 0 ∨ bitsOf (w 5) 7 0 ≠ 0 ∨ bitsOf (w 6) 23 19 ≠ 0 ∨ 2 ^ 30 < len ∨ 5 ≤ red ∨ (op ≠ 2 ∧ (red ≠ 0 ∨ coef ≠ 0)) ∨ (op = 2 ∧ red ≠ 4 ∧ coef ≠ 0) then
    .error { code := 0x01, info := v.op }
  else if remote % es ≠ 0 ∨ loc % es ≠ 0 ∨ len % es ≠ 0 then .error { code := 0x0F, info := 2, addr := BitVec.ofNat 64 (if remote % es ≠ 0 then remote else loc) }
  else
    match beyond remote [(remote, len)] <|> beyond loc [(loc, len)] with
    | some a => .error { code := 0x0D, info := 2, addr := BitVec.ofNat 64 a }
    | none =>
      if law ∧ p.scratch < word + 8 then .error { code := 0x16, info := 1, addr := BitVec.ofNat 64 word }
      else if len = 0 then .ok (.go [] none)
      else
        let e := s.cap (packKey sl) v.b
        let multi := decide (e.bits 2 1 = 1)
        match (if e.bits 2 1 = 0 then s.bulkTarget p.asid remote len else .ok (s.podNo, 0)) with
        | .error t => .error t
        | .ok (pod, dev) =>
          if e.refuses (if op = 0 then [0, 1] else [0]) (3 + op) s.podNo pod dev (some (remote, len)) none len then
            .error { code := 0x11, info := v.b, addr := BitVec.ofNat 64 remote }
          else
            .ok (.go (s.capActs (packKey sl) v.b (e.charge len) ++ [
              .bulkOp { pack := packKey sl, slice := sl, chan := v.b, op := op, red := red, coef := coef, remote := remote, loc := loc, len := len,
                        rword := if flagOf (w 6) 17 then some (bitsOf (w 5) 23 8) else none, lword := if law then some (w 6 % 2 ^ 16) else none, low := flagOf (w 6) 18, iid := (s.run.cur.map (fun c => c.iid)).getD 0,
                        pod := pod, dev := dev, group := if multi then some (e.bits 43 32) else none, ck := (s.core p.core).ck }]) none)

/-- RPUT (R333). Checks, charges and begins a bulk put of local bytes to a remote VA. -/
def execRput (f : XF) (s : State) : Host.Outcome State Fault Refusal :=
  issueAll (.rput f) s (fun c v => s.copyClass c v (fun sl => s.bulkChecks v sl 0))
/-- RGET (R333). Checks, charges and begins a bulk get of remote bytes into local memory. -/
def execRget (f : XF) (s : State) : Host.Outcome State Fault Refusal :=
  issueAll (.rget f) s (fun c v => s.copyClass c v (fun sl => s.bulkChecks v sl 1))
/-- RRED (R333). Checks, charges and begins a bulk reduction of local elements into a remote buffer. -/
def execRred (f : XF) (s : State) : Host.Outcome State Fault Refusal :=
  issueAll (.rred f) s (fun c v => s.copyClass c v (fun sl => s.bulkChecks v sl 2))

/-- Packets of an operation: one for each 4 KiB of the remote VA it touches (R330). -/
def BulkOp.count (b : BulkOp) : Nat := (b.remote + b.len - 1) / 4096 - b.remote / 4096 + 1
/-- Packet n of an operation. -/
def BulkOp.packet (b : BulkOp) (n : Nat) : BulkPkt :=
  let lo := max b.remote ((b.remote / 4096 + n) * 4096)
  let hi := min (b.remote + b.len) ((b.remote / 4096 + n + 1) * 4096)
  { no := n, va := lo, loc := b.loc + (lo - b.remote), len := hi - lo, stage := .reading }

/-- A range cut at its lines: offset, address and length. -/
def linePieces (a n : Nat) : List (Nat × Nat × Nat) :=
  (List.range ((a + n - 1) / 64 - a / 64 + 1)).map (fun i =>
    let lo := max a ((a / 64 + i) * 64)
    let hi := min (a + n) ((a / 64 + i + 1) * 64)
    (lo - a, lo, hi - lo))

/-- The local side of a packet, translated (R330): as a chunk of a copy. -/
def State.bulkParts (s : State) (b : BulkOp) (p : BulkPkt) (data : Option (List Byte × Bool)) : ChunkRes :=
  joinRuns ((linePieces p.loc p.len).map (fun x =>
    match s.copyPlace b.slice 0 x.2.1 x.2.2 data.isSome with
    | .park => .park
    | .fault c => .fault c
    | .at_ key id ty psn pe hb acts =>
      .parts [{ pos := x.1, len := x.2.2, va := x.2.1, src := if data.isSome then none else some ⟨key, x.2.2, id, ty, psn⟩, dst := if data.isSome then [(key, b.pack)] else [],
                keyid := id, persist := pe, hb := hb, lapped := [], data := data.map (fun d => ((d.1.drop x.1).take x.2.2, d.2)) }] acts))

/-- An operation by number. -/
def State.bulk? (s : State) (id : Nat) : Option BulkOp := s.fab.bulk.find? (fun b => decide (b.id = id))
/-- An operation with its packets changed; one whose packets are all done is gone. -/
def State.setBulk (s : State) (b : BulkOp) : Act :=
  .fab { s.fab with bulk := s.fab.bulk.filterMap (fun x => if x.id = b.id then (if b.pkts = [] ∧ b.count ≤ b.next then none else some b) else some x) }
/-- One packet changed or gone. -/
def BulkOp.setPkt (b : BulkOp) (no : Nat) (v : Option BulkPkt) : BulkOp := { b with pkts := b.pkts.filterMap (fun p => if p.no = no then v else some p) }

/-- A raise of a local arrival word by a packet's payload bytes (R330). -/
def State.localRaise (s : State) (b : BulkOp) (n tc : Nat) : List Act :=
  match b.lword with
  | none => []
  | some i =>
    if (s.pack b.pack).here && (s.slicesOf b.pack).any (fun x => !(s.slice x).gone) then
      match s.arrvKey b.pack i with
      | some key => [.raise key n, .tc (2 ^ 60 + key) tc, .raiseObsv (s.pack b.pack).core tc]
      | none => []
    else []

/-- The packet whose local side is to be translated next: data of an RGET that has arrived, or the next to be sent, when the operations before it on its channel have sent theirs (R319, R330, R331). -/
def State.nextLocal (s : State) (b : BulkOp) : Option (BulkPkt × Option (List Byte × Bool)) :=
  match b.pkts.findSome? (fun p => match p.stage with
    | .arrived d psn => some (p, some (d, psn))
    | _ => none) with
  | some x => some x
  | none =>
    let busy := fun (x : BulkOp) => x.pkts.any (fun p => decide (p.stage = .reading))
    if b.next < b.count ∧ !busy b ∧ s.fab.bulk.all (fun x => !(decide (x.id < b.id) && decide (x.pack = b.pack) && decide (x.chan = b.chan) && (decide (x.next < x.count) || busy x))) then
      some (b.packet b.next, none)
    else none

/-- An operation's local side has a step, its pack is resident, and it is not parked. -/
def State.bulkGoes (s : State) (core : Nat) (b : BulkOp) : Bool :=
  decide ((s.pack b.pack).core = core) && !(s.pack b.pack).saved && !(s.pack b.pack).freeze && !b.park && (s.nextLocal b).isSome

/-- An operation's local side can go on: a low-priority one waits for the core's other copies and bulk operations (R330). -/
def State.bulkReady (s : State) (core : Nat) (b : BulkOp) : Bool :=
  s.bulkGoes core b && (!b.low || (s.nextQueue core = none && !s.fab.bulk.any (fun x => !x.low && s.bulkGoes core x)))

/-- The request by which a packet waits for its acknowledgement. -/
def State.bulkReq (s : State) (b : BulkOp) (p : BulkPkt) (data : List Byte) : Req :=
  { slice := b.slice, lane := 0, iid := s.run.count, core := (s.pack b.pack).core, kind := .bulk b.id p.no, state := .queued, va := p.va, key := farBase, size := p.len, data := data,
    tier := 3, asid := (s.pack b.pack).asid, due := some s.remoteDue, dev := b.pod * 2 ^ 12 + b.dev, chan := some b.chan }

/-- The local side of a bulk operation's next packet is translated: an RGET packet goes out at once; an unresolvable fault leaves the packet unsent or unwritten with RCODE 0x0B (R331), and a malformed entry an error record (R192). -/
def State.bulkStart (s : State) (b : BulkOp) : List Act :=
  match s.nextLocal b with
  | none => []
  | some (p, data) =>
    if data = none ∧ b.op = 1 then [.addReq (s.bulkReq b p []), s.setBulk { b with next := b.next + 1, sent := true, pkts := b.pkts ++ [{ p with stage := .sent }] }]
    else
      match s.bulkParts b p data with
      | .park => [s.setBulk { b with park := true }]
      | .fault c =>
        c.note (s.pack b.pack).asid ++ s.statusActs b.slice 0x0B ++ s.localRaise b p.len 0
          ++ [s.setBulk (if data = none then { b with next := b.next + 1, sent := true } else b.setPkt p.no none)]
      | .parts ps acts =>
        acts.eraseDups ++ [s.setBulk (if data = none then { b with next := b.next + 1, pkts := b.pkts ++ [{ p with parts := ps }] }
          else b.setPkt p.no (some { p with parts := ps, stage := .writing }))]

/-- A parked operation's pages are there. -/
def State.bulkResume (s : State) (b : BulkOp) : Bool :=
  b.park && (match s.nextLocal b with
    | some (p, data) => decide (s.bulkParts b p data ≠ .park)
    | none => true)

/-- The pages a parked operation needs. -/
def State.bulkWants (s : State) (b : BulkOp) : List (Nat × Nat) :=
  if b.park then (match s.nextLocal b with
    | some (p, _) => (linePieces p.loc p.len).map (fun x => ((s.pack b.pack).asid, x.2.1))
    | none => []) else []

/-- What one local step may be: (packet, position). -/
def State.bulkMoves (s : State) (b : BulkOp) : List (Nat × Nat) :=
  b.pkts.flatMap (fun p => match p.stage with
    | .reading => (p.parts.filter (fun q => q.data = none)).map (fun q => (p.no, q.pos))
    | .writing => (p.parts.filter (fun q => q.dst.all (fun d => decide (dspKey ≤ d.1) || !s.snapKey d.1 && s.wsFits (lineOf d.1) (max b.ck (s.rtsOf (lineOf d.1) + 1))))).map (fun q => (p.no, q.pos))
    | _ => [])

/-- The payload a packet sends: for a GF(2^8) reduction, Mul(c, d) of each byte (R327). -/
def BulkOp.payload (b : BulkOp) (data : List Byte) : List Byte :=
  if b.op = 2 ∧ b.red = 4 then data.map (fun d => BitVec.ofNat 8 (gfMul b.coef d.toNat)) else data

/-- A part of a packet is read; with the last one the packet is sent. -/
def State.bulkRead (s : State) (b : BulkOp) (p : BulkPkt) (q : Part) : List Act :=
  let core := (s.pack b.pack).core
  match q.src with
  | none => []
  | some r =>
    let (bs, psn, cached) := s.copyRead core r
    let parts := p.parts.map (fun x => if x.pos = q.pos then { x with data := some (bs, psn) } else x)
    let all := parts.filterMap (fun x => x.data)
    let acts := (if cached then [] else s.copyLease core b.ck r.key) ++ [.draw 2]
    if all.length < parts.length then acts ++ [s.setBulk (b.setPkt p.no (some { p with parts := parts }))]
    else acts ++ [.addReq { s.bulkReq b p (b.payload (all.flatMap (fun x => x.1))) with marks := (parts.filter (fun x => (x.data.getD ([], false)).2)).map (fun x => (x.pos, x.len)) },
      s.setBulk { b.setPkt p.no (some { p with parts := [], stage := .sent }) with sent := true }]

/-- A part of an RGET packet is written; with the last one the local word is raised. -/
def State.bulkWrite (s : State) (b : BulkOp) (p : BulkPkt) (q : Part) : List Act :=
  match q.data, q.dst with
  | some (bs, psn), d :: _ =>
    let (acts, ws) := s.agentWrite b.ck d.1 q.keyid bs psn q.persist q.hb false
    let tc := max p.tc ws
    let left := p.parts.filter (fun x => decide (x.pos ≠ q.pos))
    let persist : List Act := if q.persist then [.addPersist { line := lineOf d.1, cells := bs.zipIdx.map (fun x => (d.1 % 64 + x.2, x.1)), mark := psn || s.marked (lineOf d.1), die := dieOfCore (s.pack b.pack).core }] else []
    acts ++ (if p.bad then [.undefMem d.1 bs.length] else []) ++ persist ++ (if left = [] then s.localRaise b p.len tc ++ [s.setBulk (b.setPkt p.no none)] else [s.setBulk (b.setPkt p.no (some { p with parts := left, tc := tc }))]) ++ [.draw 1]
  | _, _ => []

/-- One local step of a bulk operation, chosen by the hardware (R330). -/
def State.bulkStep (s : State) (b : BulkOp) : List Act :=
  let ms := s.bulkMoves b
  match ms[s.pick 0 ms.length]? with
  | none => []
  | some m =>
    match b.pkts.find? (fun p => decide (p.no = m.1)) with
    | none => []
    | some p =>
      match p.parts.find? (fun q => decide (q.pos = m.2)) with
      | none => []
      | some q => if p.stage = .writing then s.bulkWrite b p q else s.bulkRead b p q

/-- The answer to a packet (R330, R331): its code enters RSTATUS; the local word of a put or reduction is raised; the bytes of a get go on to their local write, undefined when the packet failed. (DESIGN CHOICE, assumption log 37) -/
def State.bulkAnswer (s : State) (id : Nat) (r : Req) (op pkt rcode : Nat) (data : List Byte) (psn : Bool) : List Act :=
  match s.bulk? op with
  | none => [.setReq id none]
  | some b =>
    match b.pkts.find? (fun p => decide (p.no = pkt)) with
    | none => [.setReq id none]
    | some p =>
      if b.fw.isSome then .setReq id none :: (if rcode = 0 ∨ rcode = 6 then [s.setBulk (b.setPkt pkt none)] else [])
      else
      .setReq id none :: s.statusActs r.slice rcode
        ++ (if b.op = 1 then
            let good := decide (rcode = 0) || decide (rcode = 6)
            let bytes := if good then (List.range p.len).map (fun i => data.getD i 0) else (List.range p.len).map (fun i => Config.undefByte s.run.draws i)
            (if good then [] else [.draw 1]) ++ [s.setBulk (b.setPkt pkt (some { p with stage := .arrived bytes (psn && good), bad := !good }))]
          else s.localRaise b p.len 0 ++ [s.setBulk (b.setPkt pkt none)])

/-- BULK_ACK (R330). A bulk packet's acknowledgement returns; bit 8 of the code marks poisoned data (R100). (DESIGN CHOICE, assumption log 37) (DEDUCED, assumption log 52) -/
def execBulkAck (op packet rcode : Nat) (data : List Byte) (s : State) : Host.Outcome State Fault Refusal :=
  match s.reqs.find? (fun e => decide (e.2.kind = .bulk op packet)) with
  | some (id, r) => event s (s.bulkAnswer id r op packet (rcode % 256) data (decide (256 ≤ rcode)))
  | none => event s []

/-! ### Answers to remote accesses and messages (R325, R326) -/

/-- Every register of a lane's destination becomes 0xFFFF_FFFF (R325). -/
def State.onesActs (s : State) (id : Nat) (r : Req) : List Act := s.deliver r.slice (s.lastOf id r) [(r.lane, r.dsts, r.dsts.map (fun _ => 0xFFFFFFFF#32), false, r.va)]

/-- A remote write may have left the device (R239): the earlier epochs that pod-scope PBARs ended are closed. -/
def State.mayLeave (s : State) (r : Req) : Bool :=
  !r.writes || ((r.slice, r.epoch) :: r.also).all (fun y => (s.slice y.1).pbars.all (fun b => decide (y.2 ≤ b.1) || decide (b.2 ≠ 5) || s.epochClosed y.1 b.1 5))

/-- REMOTE_RESPONSE (R325). The answer to a remote access or message: data or an acknowledgement (code 0, bit 8 marks poisoned data), or a refusal. (DESIGN CHOICE, assumption log 39) -/
def execRemoteResponse (req rcode : Nat) (data : List Byte) (s : State) : Host.Outcome State Fault Refusal :=
  match s.req req with
  | none => event s []
  | some r =>
    let code := rcode % 256
    if r.tier ≠ 3 ∨ !r.waiting ∨ !s.mayLeave r then event s []
    else
      match r.kind with
      | .bulk op pkt => event s (s.bulkAnswer req r op pkt code data (decide (256 ≤ rcode)))
      | .message => event s (.setReq req none :: s.statusActs r.slice code)
      | .load _ _ => event s (if code = 0 then [.setReq req (some { r with state := .served ((List.range r.size).map (fun i => data.getD i 0)) 0 (decide (256 ≤ rcode)) })]
          else s.onesActs req r ++ [.setReq req none] ++ s.statusActs r.slice code)
      | .atom _ _ dst => event s (if code = 0 then (if dst = [] then [.setReq req none] else [.setReq req (some { r with state := .done 0 ((List.range r.size).map (fun i => data.getD i 0)) (decide (256 ≤ rcode)) })])
          else s.onesActs req r ++ [.setReq req none] ++ s.statusActs r.slice code)
      | _ => event s (.setReq req none :: s.statusActs r.slice code)

/-- What a lapsed or dropped request leaves (R325, R331, R345). (DESIGN CHOICE, assumption log 63) -/
def State.lapseActs (s : State) (id : Nat) (r : Req) : List Act :=
  match r.kind with
  | .bulk op pkt => s.bulkAnswer id r op pkt 8 [] false
  | _ => if r.dsts = [] ∨ r.kind = .message then .setReq id none :: s.statusActs r.slice 8
    else s.onesActs id r ++ [.setReq id none] ++ s.statusActs r.slice 7

/-- REMOTE_TIMEOUT can act on a request. -/
def State.timeoutReady (s : State) (id : Nat) : Bool :=
  match s.req id with
  | some r => decide (r.tier = 3) && r.waiting && (match r.due with
      | some t => decide (t ≤ s.run.time)
      | none => false)
  | none => false

/-- REMOTE_TIMEOUT (R325). No answer within T_F: a load or atomic writes all ones with RCODE 0x07; any other sets RCODE 0x08; both set RTO. -/
def execRemoteTimeout (req : Nat) (s : State) : Host.Outcome State Fault Refusal :=
  match s.req req with
  | some r => if s.timeoutReady req then event s (s.lapseActs req r) else event s []
  | none => event s []

/-- DROP_NOTICE (R318). A switch has dropped the packet of a request: as a timeout. -/
def execDropNotice (req : Nat) (s : State) : Host.Outcome State Fault Refusal :=
  match s.req req with
  | some r => if r.tier = 3 ∧ r.waiting then event s (s.lapseActs req r) else event s []
  | none => event s []

/-! ### Accesses of other devices (R324, R439) -/

/-- Translate for a tenant, without a slice (R324): permissions as for a slice of the tenant; a fabric page cannot be reached. -/
def State.tenantPlace (s : State) (asid addr : Nat) (write : Bool) : Place :=
  if 2 ^ 57 ≤ addr then .fault ⟨0x0D, 2, addr⟩
  else if inDsp addr then
    let owner := Sparse.get 0 s.maps.blocks ((addr - dspBase) / 2 ^ 16)
    if 2 ≤ owner ∧ s.ctl.packs.any (fun e => decide (e.2.launch + 2 = owner) && decide (e.2.asid = asid)) then .at_ (dspKey + (addr - dspBase)) 0 0 false false false []
    else .fault ⟨0x0D, 0, addr⟩
  else
    match s.pageOf fabricTlbs 0 asid addr write with
    | .error i => .fault ⟨0x0D, i, addr⟩
    | .ok p =>
      if p.tier = 3 then .fault ⟨0x0D, 1, addr⟩
      else if !p.res then (if s.migratable p then .park else .fault ⟨0x0D, 1, addr⟩)
      else if s.flipping p addr then .park
      else if write ∧ !p.w then .fault ⟨0x0E, 0, addr⟩
      else if write ∧ p.poison then .fault ⟨0x10, 0, addr⟩
      else if write ∧ (p.wpw ∨ s.snapHeld asid addr) then .park
      else .at_ (p.key addr) p.keyid p.ty p.poison (decide (p.tier = 1) && p.p) p.hb (s.pageActsAs fabricTlbs asid write p addr)

/-- An answer leaves the device. -/
def Fab.reply (f : Fab) (r : Reply) : Fab := { f with out := r :: f.out }

/-- Packets of one channel keep their order (R319): the channel is the source device and the upper part of the tag. (DESIGN CHOICE, assumption log 38) -/
def sameChannel (p1 d1 t1 p2 d2 t2 : Nat) : Bool := decide (p1 = p2) && decide (d1 = d2) && decide (t1 / 2 ^ 32 = t2 / 2 ^ 32)

/-- The accesses of the same channel before one are performed. (DESIGN CHOICE, assumption log 38) -/
def State.accessTurn (s : State) (a : RemoteAccess) : Bool :=
  (s.fab.access.takeWhile (fun e => decide (e.1 ≠ a))).all (fun e => e.2.isSome || !sameChannel e.1.pod e.1.device e.1.tag a.pod a.device a.tag)

/-- A performed persist-write has been accepted. -/
def State.accepted (s : State) (id : Nat) : Bool := decide (Sparse.get none s.opq.transit id = none)

/-- A remote access that is here can take its next step. -/
def State.accessReady (s : State) (a : RemoteAccess) : Bool :=
  match s.fab.access.find? (fun e => decide (e.1 = a)) with
  | none => false
  | some (_, some id) => s.accepted id
  | some (_, none) => s.accessTurn a && (match s.tenantPlace a.asid a.va (decide (a.kind ≠ 0)) with
      | .park => false
      | .fault _ => true
      | .at_ key _ _ _ _ _ _ => decide (a.kind = 0) || decide (dspKey ≤ key) || s.wsFits (lineOf key) (max s.coh.fck (s.rtsOf (lineOf key) + 1)))

/-- A remote access without its place in the list. -/
def Fab.dropAccess (f : Fab) (a : RemoteAccess) : Fab := { f with access := f.access.filter (fun e => decide (e.1 ≠ a)) }

/-- REMOTE_ACCESS_ARRIVE (R324). A remote load, store, atomic or reduction arrives; in its channel's turn it is performed at its home with the fabric clock, or refused with RCODE 0x09; a persist-write is answered once it has been accepted. -/
def execRemoteAccessArrive (a : RemoteAccess) (s : State) : Host.Outcome State Fault Refusal :=
  let answer := fun (rcode : Nat) (data : List Byte) (psn : Bool) => ({ pod := a.pod, device := a.device, tag := a.tag, rcode := rcode, data := data, psn := psn } : Reply)
  match s.fab.access.find? (fun e => decide (e.1 = a)) with
  | none => event s [.fab { s.fab with access := s.fab.access ++ [(a, none)] }]
  | some (_, some id) => if s.accepted id then event s [.fab ((s.fab.dropAccess a).reply (answer 0 [] false))] else event s []
  | some (_, none) =>
    if !s.accessReady a then event s []
    else
      match s.tenantPlace a.asid a.va (decide (a.kind ≠ 0)) with
      | .park => event s []
      | .fault c => event s (c.note a.asid ++ [.fab ((s.fab.dropAccess a).reply (answer 9 [] false))])
      | .at_ key id _ ppsn persist hb acts =>
        let old := s.bytesAs key a.size id
        let psn := ppsn || s.localPsn key a.size
        let free : List Act := if s.foreign key a.size id then [.draw 1] else []
        if a.kind = 0 then event s (acts ++ free ++ s.suspectActs key a.size id ++ [.fab ((s.fab.dropAccess a).reply (answer 0 old psn))])
        else
          let new := if a.kind = 1 then (List.range a.size).map (fun i => a.data.getD i 0) else atomBytes a.aop a.aw old a.data a.op2
          let (wacts, ws) := s.agentWrite s.coh.fck key id new false persist hb false
          event s (acts ++ wacts ++ free ++ [.agentClock 2 ws]
            ++ (if persist then [.addPersist { line := lineOf key, cells := new.zipIdx.map (fun x => (key % 64 + x.2, x.1)), mark := s.marked (lineOf key), die := homeDie key },
                .fab { s.fab with access := s.fab.access.map (fun e => if e.1 = a then (a, some s.opq.next) else e) }]
              else [.fab ((s.fab.dropAccess a).reply (answer 0 (if a.kind = 2 then old else []) (decide (a.kind = 2) && psn)))]))

/-! ### Bulk packets of other devices (R330) -/

/-- The result of a reduction on the bytes of one line (R159, R327). -/
def redBytes (op : Nat) (old x : List Byte) : List Byte :=
  let n := redSize op
  (List.range (old.length / n)).flatMap (fun i =>
    let a := leNat ((old.drop (n * i)).take n)
    let b := leNat ((x.drop (n * i)).take n)
    leBytes n (match op with
      | 0 => fpAdd f32 a b
      | 1 => fpAdd bf16 a b
      | 2 => (a + b) % 2 ^ 32
      | _ => a ^^^ b))

/-- A packet's lines at the target, translated. -/
def State.inboundParts (s : State) (p : BulkPacket) : ChunkRes :=
  joinRuns ((linePieces p.va p.len).map (fun x =>
    match s.tenantPlace p.asid x.2.1 (decide (p.op ≠ 1)) with
    | .park => .park
    | .fault c => .fault c
    | .at_ key id ty psn pe hb acts =>
      .parts [{ pos := x.1, len := x.2.2, va := x.2.1, src := some ⟨key, x.2.2, id, ty, psn⟩, dst := [], keyid := id, persist := pe, hb := hb, lapped := [] }] acts))

/-- The pack whose arrival word a packet raises (R330): that of linear index 0 of the launch that owns the block, or of the launch of the tenant dispatched first. -/
def State.raisedPack (s : State) (p : BulkPacket) : Option Nat :=
  let launches := (s.ctl.packs.filter (fun e => e.2.here && decide (e.2.asid = p.asid))).map (fun e => e.2.launch)
  let age := fun (l : Nat) => (s.ctl.packs.filter (fun e => decide (e.2.launch = l))).foldl (fun m e => min m e.2.age) (2 ^ 64)
  let launch := if inDsp p.va then some (Sparse.get 0 s.maps.blocks ((p.va - dspBase) / 2 ^ 16) - 2)
    else launches.foldl (fun b l => match b with
      | none => some l
      | some x => some (if age l < age x then l else x)) none
  launch.bind (fun l => (s.ctl.packs.find? (fun e => e.2.here && decide (e.2.launch = l) && decide (e.2.index = 0) && e.2.spawned.isNone)).map (fun e => e.1))

/-- The packets of the same channel before one are done. (DESIGN CHOICE, assumption log 38) -/
def State.inboundTurn (s : State) (p : BulkPacket) : Bool :=
  (s.fab.inbound.takeWhile (fun e => decide (e.p ≠ p))).all (fun e => !sameChannel e.p.pod e.p.device e.p.tag p.pod p.device p.tag)

/-- A line's write can be stamped (R225). -/
def State.lineFits (s : State) (p : BulkPacket) (q : Part) : Bool :=
  match q.src with
  | some r => decide (p.op = 1) || decide (dspKey ≤ r.key) || !s.snapKey r.key && s.wsFits (lineOf r.key) (max s.coh.fck (s.rtsOf (lineOf r.key) + 1))
  | none => true

/-- An inbound packet can take its next step. -/
def State.inboundReady (s : State) (p : BulkPacket) : Bool :=
  match s.fab.inbound.find? (fun e => decide (e.p = p)) with
  | none => false
  | some x => s.inboundTurn p && (if x.started then x.parts.any (fun q => q.data.isNone && s.lineFits p q) || (x.parts.all (fun q => q.data.isSome) && x.pend.all s.accepted)
    else decide (s.inboundParts p ≠ .park))

/-- The bytes that a refused packet should have written hold undefined values, where its tenant maps them (R331). (DESIGN CHOICE, assumption log 37) -/
def State.refusedBytes (s : State) (p : BulkPacket) : List Act :=
  if p.op = 1 then [] else (linePieces p.va p.len).flatMap (fun x => match s.tenantPlace p.asid x.2.1 false with
    | .at_ key _ _ _ _ _ _ => [.undefMem key x.2.2]
    | _ => [])

/-- One line of a packet is performed: read, written, or reduced into; poisoned data leave the line marked (R100, R428). -/
def State.inboundLine (s : State) (x : Inbound) (q : Part) : List Act × Inbound :=
  match q.src with
  | none => ([], x)
  | some r =>
    if x.p.op = 1 then
      let psn := r.psn || s.localPsn r.key r.len
      (if s.foreign r.key r.len r.keyid then [.draw 1] else [], { x with parts := x.parts.map (fun y => if y.pos = q.pos then { y with data := some (s.bytesAs r.key r.len r.keyid, psn) } else y), psn := x.psn || psn })
    else
      let d := (List.range q.len).map (fun i => x.p.data.getD (q.pos + i) 0)
      let new := if x.p.op = 0 then d else redBytes x.p.red (s.bytesAs r.key r.len r.keyid) d
      let sent := x.p.marks.any (fun m => decide (m.1 < q.pos + q.len) && decide (q.pos < m.1 + m.2))
      let psn := sent || (decide (x.p.op = 2) && (r.psn || s.localPsn r.key r.len))
      let (acts, ws) := s.agentWrite s.coh.fck r.key q.keyid new psn q.persist q.hb false
      (acts ++ (if q.persist then [.addPersist { line := lineOf r.key, cells := new.zipIdx.map (fun c => (r.key % 64 + c.2, c.1)), mark := psn || s.marked (lineOf r.key), die := homeDie r.key }] else [])
        ++ (if s.foreign r.key r.len r.keyid then [.draw 1] else []),
       { x with parts := x.parts.filter (fun y => decide (y.pos ≠ q.pos)), ws := max x.ws ws, pend := if q.persist then s.opq.next :: x.pend else x.pend })

/-! ### The engine's chunks (R293, R294, R302, R330) -/

/-- The bulk operation an engine's queue number above 15 stands for. -/
def State.bulkOf (s : State) (core queue : Nat) : Option BulkOp := (s.bulk? (queue - 16)).bind (fun b => if (s.pack b.pack).core = core then some b else none)

/-- CHUNK_START (R294). The engine begins a chunk: of the copy queue whose turn it is, or, for a number above 15, of the local side of a bulk operation (R330). -/
def execChunkStart (core queue : Nat) (s : State) : Host.Outcome State Fault Refusal :=
  if queue < 16 then event s (s.chunkStart core queue)
  else
    match s.bulkOf core queue with
    | some b => if s.bulkReady core b then event s (s.bulkStart b) else event s []
    | none => event s []

/-- COPY_QUEUE_RESUME (R302). A parked queue, or bulk operation, goes on at its chunk. -/
def execCopyQueueResume (core queue : Nat) (s : State) : Host.Outcome State Fault Refusal :=
  if queue < 16 then
    let k := queueKey core queue
    if s.resumeQueue k then event s [.cqueue k { s.cqueue k with park := false }] else event s []
  else
    match s.bulkOf core queue with
    | some b => if s.bulkResume b then event s [s.setBulk { b with park := false }] else event s []
    | none => event s []

/-- CHUNK_END (R293). One read or write of a chunk in flight; the chunk has ended with its last write. -/
def execChunkEnd (core queue : Nat) (s : State) : Host.Outcome State Fault Refusal :=
  if queue < 16 then event s (s.chunkStep core queue)
  else
    match s.bulkOf core queue with
    | some b => event s (s.bulkStep b)
    | none => event s []

/-! ### Names (R334, R335, R338) -/

/-- The name of a slice's home gang. (DESIGN CHOICE, assumption log 7) -/
def State.nameOf (s : State) (sl : Nat) : Dword :=
  let p := s.packOf sl
  BitVec.ofNat 64 (s.devNo * 2 ^ 52 + p.core0 * 2 ^ 44 + p.slot0 * 2 ^ 40 + (s.slice sl).home * 2 ^ 36 + p.gen * 2 ^ 12)

/-- NAME (R338). Writes the name of the slice's home gang into a pair of every active lane. -/
def execName (f : RF) (s : State) : Host.Outcome State Fault Refusal :=
  issue (.name f) s (fun _ v sl =>
    let ls := s.activeLanes sl v.pg
    s.tested v sl ls (fun _ => .ok (fileWrites sl (ls.flatMap (fun l =>
      let r := s.regOf sl l v.d 2
      [(l, r, (s.nameOf sl).setWidth 32), (l, r + 1, (s.nameOf sl).extractLsb' 32 32)])))))

/-! ### Register messages (R339 to R346) -/

/-- Parked parts of a core, oldest first. -/
def State.inbox (s : State) (core : Nat) : List PartMsg := Sparse.get [] s.fab.inbox core

/-- The largest ws the device's homes have assigned (R343). -/
def State.largestWs (s : State) : Nat := maxOf (s.mem.wts.map (fun e => e.2))

/-- A part is applied (R340, R343): the masked lanes are written, the hold on the register goes, and ck follows the release it carries. -/
def State.applyPart (s : State) (m : PartMsg) (holds : List Hold) : List Act :=
  let core := s.coreOf m.slice
  (maskLanes m.mask).flatMap (fun l => [.reg (laneKey m.slice l) m.reg (m.vals.getD l 0) (m.psn.getLsbD l)])
    ++ s.loadTag m.slice true ((maskLanes m.mask).map (fun l => (l, m.reg, m.vals.getD l 0))) ++ [.slice m.slice (.holds (holds.filter (fun h => decide (h.reg ≠ m.reg))))]
    ++ (match m.tm with
      | some t => [.raiseCk core t]
      | none => [])
    ++ (if m.rel then [.raiseCk core s.largestWs] else [])

/-- RRCV (R344). Arms n registers of the slice; a register with a parked part receives the oldest at once; more than eight holds take the illegal-instruction trap. -/
def execRrcv (f : RF) (s : State) : Host.Outcome State Fault Refusal :=
  issue (.rrcv f) s (fun _ v sl =>
    match s.activeLanes sl v.pg with
    | [] => .ok []
    | _ =>
      let x := s.slice sl
      let regs := (List.range (v.b % 8 + 1)).map (fun k => v.d + k)
      let new := regs.filter (fun r => !x.holds.any (fun h => decide (h.reg = r)))
      if 8 < x.holds.length + new.length then .error (s.illegal sl v.op)
      else
        let box := s.inbox (s.coreOf sl)
        let got := new.filterMap (fun r => box.find? (fun m => decide (m.slice = sl) && decide (m.reg = r)))
        let holds := x.holds ++ (new.filter (fun r => !got.any (fun m => decide (m.reg = r)))).map (fun r => { reg := r, mask := 15 })
        .ok (.slice sl (.holds holds) :: got.flatMap (fun m => s.applyPart m holds ++ [.unpark (s.coreOf sl) sl m.reg])))

/-- The mask and the 32 values of a message: bit n and value n come from active gang lane n of the sender (R122, R340). -/
def State.messageVals (s : State) (v : View) (act : List MLane) : BitVec 32 × List Word :=
  let vals := (List.range 32).map (fun n => match act.find? (fun a => decide (a.n = n)) with
    | some a => ((s.valA v a.sl a.l).setWidth 32 : Word)
    | none => 0)
  (act.foldl (fun m a => m ||| BitVec.ofNat 32 (2 ^ a.n)) 0, vals)

/-- RSTV (R345). Sends vA of the active lanes to register D of the named gang: within the device as a message of its own, to another device through the fabric. REL is set when any active slice has released at pod or sys scope since its previous RSTV. (R343; DEDUCED, assumption log 41) -/
def execRstv (f : RF) (s : State) : Host.Outcome State Fault Refusal :=
  issueAll (.rstv f) s (fun c v =>
    let lanes := fun (sl : Nat) => s.activeLanes sl v.pg
    let noB : View := { v with form := { v.form with b := .non } }
    let badA := c.slices.filterMap (fun sl => (s.operandTrap noB none sl (lanes sl)).map (fun t => (sl, t)))
    let rest := c.slices.filter (fun sl => !(badA.any (fun e => decide (e.1 = sl))))
    let act := s.mlanes rest v.pg
    match act with
    | [] => sliceEffs c v (fun sl => match badA.find? (fun e => decide (e.1 = sl)) with
        | some e => .error e.2
        | none => .ok [])
    | a :: _ =>
      let byp := v.bypass
      let badB := (s.boundsTrap a.sl v.form.b v.b [a.l]) <|> s.psnTrap a.sl v.b (s.psnLanes byp a.sl v.form.b v.b [a.l])
      let name := (s.fieldVal byp a.sl a.l v.form.b v.b).toNat
      let dev := bitsOf name 63 52
      let cap := extPay s.ext % 64
      let e := s.cap (packKey a.sl) cap
      let all := fun (t : Trap) => (act.map (fun x => x.sl)).eraseDups.map (fun sl => (sl, { t with lanes := laneMask (lanes sl) }))
      let traps : Traps := match badB with
        | some t => [(a.sl, t)]
        | none =>
          if 55 < v.d ∨ name % 2 ^ 12 ≠ 0 then all { code := 0x01, info := v.op }
          else if e.refuses [2] 6 s.podNo s.podNo dev none (some (bitsOf name 51 44)) 128 then all { code := 0x11, info := cap, addr := BitVec.ofNat 64 name }
          else []
      let core := s.coreOf a.sl
      let (mask, vals) := s.messageVals v act
      let local_ := decide (dev = s.devNo)
      let senders := (act.map (fun x => x.sl)).eraseDups
      let m : Message := { tag := s.coh.nextReq, sender := (s.nameOf a.sl).toNat, name := BitVec.ofNat 64 name, reg := v.d, mask := mask, vals := vals, psn := 0,
                           tm := if local_ then some (s.core core).ck else none, rel := !local_ && senders.any (fun sl => (s.slice sl).podRel) }
      let r : Req := { s.mkReq c a.sl a.l name farBase 128 .message .queued with tier := 3, dev := s.podNo * 2 ^ 12 + dev, data := vals.flatMap (fun w => leBytes 4 w.toNat), due := if local_ then none else some s.remoteDue, chan := some cap }
      let bad := badA ++ traps
      sliceEffs c v (fun sl => match bad.find? (fun x => decide (x.1 = sl)) with
          | some x => .error x.2
          | none => .ok [])
        ++ (if traps = [] then plain (s.capActs (packKey a.sl) cap (e.charge 128) ++ [.addReq r] ++ senders.map (fun sl => .slice sl (.podRel false)) ++ (if local_ then [.message m] else [])) else []))

/-- The pack a name names: alive, and with this first residency (R335, R337). -/
def State.named (s : State) (name : Dword) : Option Nat :=
  let n := name.toNat
  (s.ctl.packs.find? (fun e => (e.2.here || e.2.saved) && decide (e.2.core0 = bitsOf n 51 44) && decide (e.2.slot0 = bitsOf n 43 40) && decide (e.2.gen = bitsOf n 35 12)
    && (s.slicesOf e.1).any (fun x => !(s.slice x).gone))).map (fun e => e.1)

/-- The parts of a message for a pack (R340). -/
def State.partsFor (s : State) (m : Message) (p : Nat) : List PartMsg :=
  let k := s.pack p
  let gang := bitsOf m.name.toNat 39 36
  ((s.slicesOf p).filter (fun x => !(s.slice x).gone && decide ((s.slice x).home = gang))).filterMap (fun x =>
    let base := 4 * (if k.spawned.isSome then (s.slice x).gslot else (s.slice x).sid % k.nsl)
    let mask := laneMask (lanes4.filter (fun l => m.mask.getLsbD (base + l)))
    if mask = 0 then none
    else some { slice := x, reg := m.reg, mask := mask, vals := lanes4.map (fun l => m.vals.getD (base + l) 0), psn := laneMask (lanes4.filter (fun l => m.psn.getLsbD (base + l))), tm := m.tm, rel := m.rel })

/-- Deliver parts to a resident pack (R340): RCODE 0x01 when its core's inbox has no room for those that park. (DEDUCED, assumption log 41) -/
def State.deliverParts (s : State) (p : Nat) (ps : List PartMsg) : Nat × List Act :=
  let core := (s.pack p).core
  let armed := fun (m : PartMsg) => (s.slice m.slice).holds.any (fun h => decide (h.reg = m.reg))
  let parked := ps.filter (fun m => !armed m)
  if 64 < (s.inbox core).length + parked.length then (1, [])
  else (0, (ps.filter armed).flatMap (fun m => s.applyPart m (s.slice m.slice).holds)
    ++ (if parked = [] then [] else [.fab { s.fab with inbox := Sparse.set [] s.fab.inbox core (s.inbox core ++ parked) }]))

/-- A message is resolved (R337) and delivered, parked or refused: its code and acts. (DEDUCED, assumption log 41) -/
def State.resolveMessage (s : State) (m : Message) : Nat × List Act :=
  let n := m.name.toNat
  match s.named m.name with
  | some p =>
    let gang := bitsOf n 39 36
    if (s.slicesOf p).all (fun x => (s.slice x).gone || decide ((s.slice x).home ≠ gang)) then (5, [])
    else
      let ps := s.partsFor m p
      if (s.pack p).here then s.deliverParts p ps
      else
        let area := Sparse.get [] s.fab.saved p
        if 512 < area.length + ps.length then (4, []) else (0, [.fab { s.fab with saved := Sparse.set [] s.fab.saved p (area ++ ps) }])
  | none =>
    let now := Sparse.get 0 s.fab.gens (bitsOf n 51 44 * 16 + bitsOf n 43 40)
    let age := (now + 2 ^ 24 - bitsOf n 35 12) % 2 ^ 24
    (if 0 < age ∧ age ≤ 2 ^ 23 then 2 else 3, [])

/-- A message of this device is the oldest of its sender to its target (R341). -/
def State.messageTurn (s : State) (m : Message) : Bool :=
  (s.fab.msgs.takeWhile (fun x => decide (x ≠ m))).all (fun x => !(decide (x.sender = m.sender) && decide (x.name = m.name)))

/-- MESSAGE_ARRIVE (R340). A message of this device reaches its target, and its acknowledgement or refusal its sender; or one of another device arrives and is answered. -/
def execMessageArrive (m : Message) (s : State) : Host.Outcome State Fault Refusal :=
  let r := s.resolveMessage m
  if s.fab.msgs.contains m then
    if !s.messageTurn m then event s []
    else
      let back := match s.req m.tag with
        | some q => .setReq m.tag none :: s.statusActs q.slice r.1
        | none => []
      let fab := fun (f : Fab) => ({ f with msgs := f.msgs.filter (fun x => decide (x ≠ m)) } : Fab)
      event s (r.2.map (fun a => match a with
        | .fab f => .fab (fab f)
        | a => a) ++ (if r.2.any (fun a => match a with
          | .fab _ => true
          | _ => false) then [] else [.fab (fab s.fab)]) ++ back)
  else
    let rep : Reply := { pod := s.podNo, device := m.sender, tag := m.tag, rcode := r.1 }
    event s (r.2.map (fun a => match a with
      | .fab f => .fab (f.reply rep)
      | a => a) ++ (if r.2.any (fun a => match a with
        | .fab _ => true
        | _ => false) then [] else [.fab (s.fab.reply rep)]))

/-- The wait of RSTAT at issue (R346): an earlier remote access or message of the slice is unanswered. -/
def State.remoteWait (s : State) (sl : Nat) (v : View) : Bool :=
  decide (v.op = 0x3D) && decide (v.fn = 3) && decide (s.activeLanes sl v.pg ≠ [])
    && s.reqs.any (fun e => e.2.of sl && decide (e.2.tier = 3) && (match e.2.kind with
      | .bulk _ _ => false
      | .prefetch _ => false
      | _ => true))

/-- RSTAT (R346). Writes the gang's RSTATUS into vD of every active lane and clears it. -/
def execRstat (f : RF) (s : State) : Host.Outcome State Fault Refusal :=
  issue (.rstat f) s (fun _ v sl =>
    let ls := s.activeLanes sl v.pg
    s.tested v sl ls (fun _ =>
      let g := s.gangKey sl
      .ok (s.putD v sl ls (fun _ => (s.gang g).rstatus) ++ (if ls = [] then [] else [.rstatus g 0 0]))))

end Sys2Proof.Machine
end

