-- ==== Sys2Proof/Machine/Agent.lean ====
section
/-! DEFINITION. Sundesh's own accesses (14_queues R349 to R360, R386, R439): reads and writes of an address space, and notifications. -/
namespace Sys2Proof.Machine

/-! ### Translation for Sundesh -/

/-- A host physical address. (DESIGN CHOICE, assumption log 15) -/
def hostPlace (pa : Nat) : Place := if pa < 2 ^ 52 then .at_ (hostBase + pa) 0 0 false false false [] else .fault ⟨0x0D, 2, pa⟩

/-- A host address lies in a region the driver has registered (R386). (DESIGN CHOICE, assumption log 42) -/
def State.mayWriteHost (s : State) (pa : Nat) : Bool := s.sun.regions.any (fun r => decide (r.1 ≤ pa) && decide (pa < r.1 + r.2))

/-- Where Sundesh's access goes: a VA of an address space; a host physical address where no address space is named, or where the ASID has no page table yet (DESIGN CHOICE, assumption log 15). A write to host memory outside the registered regions is refused (R386). -/
def State.sunPlace (s : State) (asid : Option Nat) (va : Nat) (write : Bool) : Place :=
  let p := match asid with
    | none => hostPlace va
    | some a => if Sparse.get none s.maps.roots a = none then hostPlace va else s.tenantPlace a va write
  match p with
  | .at_ key _ _ _ _ _ _ => if hostKey key && (s.dev.ide || (write && !s.mayWriteHost (key - hostBase))) then .fault ⟨0x0D, 0, va⟩ else p
  | _ => p

/-- What a read answers. -/
inductive Got where
  | ok (bs : List Byte) (acts : List Act)
  /-- the page at this VA is being made resident, or its writes wait -/
  | wait (va : Nat)
  /-- no translation, with the error record of a malformed entry (R192), or poisoned data -/
  | bad (notes : List Act := [])
  deriving DecidableEq, Repr

/-- Pieces in order. -/
def Got.join : List Got → Got
  | [] => .ok [] []
  | .ok bs as :: r => (match Got.join r with
    | .ok bs' as' => .ok (bs ++ bs') (as ++ as')
    | x => x)
  | .wait va :: _ => .wait va
  | .bad ns :: _ => .bad ns

/-- Bytes through a mapping, numbered from i for their free values (R205). -/
def State.bytesFrom (s : State) (key n keyid i : Nat) : List Byte :=
  (List.range n).map (fun j => if s.foreign (key + j) 1 keyid then Config.undefByte s.run.draws (i + j) else s.byte (key + j))

/-- Sundesh reads n bytes at their homes. -/
def State.sunRead (s : State) (asid : Option Nat) (va n : Nat) : Got :=
  if n = 0 then .ok [] []
  else
    Got.join ((linePieces va n).map (fun x =>
      match s.sunPlace asid x.2.1 false with
      | .park => .wait x.2.1
      | .fault c => .bad (c.note (asid.getD 0))
      | .at_ key id _ psn _ _ acts =>
        if psn || s.localPsn key x.2.2 then .bad [] else .ok (s.bytesFrom key x.2.2 id x.1) (acts ++ (if s.foreign key x.2.2 id then [.draw 1] else []))))

/-- Sundesh writes bytes at their homes with its agent clock (R439); a write to a persist page is a persist-write of the epochs named. -/
def State.sunWriteAs (s : State) (asid : Option Nat) (va : Nat) (bs : List Byte) (psn : List Nat) (mine : List (Nat × Nat)) : Got :=
  if bs = [] then .ok [] []
  else
    match Got.join ((linePieces va bs.length).map (fun x =>
      match s.sunPlace asid x.2.1 true with
      | .park => .wait x.2.1
      | .fault c => .bad (c.note (asid.getD 0))
      | .at_ key id _ _ persist hb acts =>
        let piece := (bs.drop x.1).take x.2.2
        let mark := psn.contains (x.2.1 / 64)
        let w := s.agentWrite s.coh.sck key id piece mark persist hb false
        .ok [] (acts ++ w.1 ++ (if persist then [.addPersist { slices := mine, line := lineOf key, cells := piece.zipIdx.map (fun c => (key % 64 + c.2, c.1)), mark := mark || (s.marked (lineOf key) && decide (piece.length < 64)), die := homeDie key }] else [])
          ++ [.agentClock 0 w.2]))) with
    | .ok _ as => .ok [] as
    | x => x

/-- An ordinary write of Sundesh. -/
def State.sunWrite (s : State) (asid : Option Nat) (va : Nat) (bs : List Byte) : Got := s.sunWriteAs asid va bs [] []

/-- The acts of a write; one that cannot be made is not made. -/
def Got.acts : Got → List Act
  | .ok _ as => as
  | _ => []
/-- A read or write cannot be made yet. -/
def Got.waits : Got → Bool
  | .wait _ => true
  | _ => false
/-- The bytes read, none when the read cannot be made. -/
def Got.bytes? : Got → Option (List Byte)
  | .ok bs _ => some bs
  | _ => none

/-- A sys-scope release by Sundesh raises SCK to the largest ws the homes have assigned (R439). -/
def State.sunRelease (s : State) : List Act := [.agentClock 0 s.largestWs]

/-! ### Reading with checks -/

/-- Why a packet cannot go on: an error completion, with the error record of a malformed entry it met (R192), or a page that is not there yet. -/
inductive SunErr where
  | code (c detail : Nat) (notes : List Act := [])
  | wait (va : Nat)
  deriving DecidableEq, Repr

/-- Steps of Sundesh that read memory; the acts of the reads are collected. -/
abbrev Sd (α : Type) := StateT (List Act) (Except SunErr) α

/-- Stop with a code. -/
def sdFail {α : Type} (c detail : Nat) : Sd α := fun _ => .error (.code c detail)
/-- Stop with a code unless a test holds. -/
def sdNeed (b : Bool) (c detail : Nat) : Sd Unit := if b then pure () else sdFail c detail
/-- Read bytes, or stop with CODE 0x05 and the offset of the field that names the VA (R356). -/
def State.sdRead (s : State) (asid va n field : Nat) : Sd (List Byte) := fun acts =>
  match s.sunRead (some asid) va n with
  | .ok bs as => .ok (bs, acts ++ as)
  | .wait v => .error (.wait v)
  | .bad ns => .error (.code 0x05 field ns)

/-- Zero bytes. -/
def zeros (n : Nat) : List Byte := List.replicate n 0

/-- The number at an offset of some bytes. -/
def numAt (bs : List Byte) (off n : Nat) : Nat := leNat ((bs.drop off).take n)

/-! ### Notifications (R360) -/

/-- PAGE and CTL of a slot of the notification table. (DESIGN CHOICE, assumption log 42) -/
def State.noteSlot (s : State) (slot : Nat) : Nat × Nat :=
  let at_ := hostBase + s.sun.table + 16 * slot
  (leNat (s.bytes at_ 8), leNat (s.bytes (at_ + 8) 4))

/-- A message leaves for the host. -/
def State.toHost (s : State) (m : HostMsg) : Act := .dev { s.dev with out := m :: s.dev.out }

/-- A notification is posted (R360): the record, the count with a sys-scope release, and the interrupt when RUN is 0. -/
def State.notify (s : State) (queue tag value slot : Nat) : List Act :=
  let page := (s.noteSlot slot).1
  let n := leNat (s.bytes (hostBase + page) 8)
  s.chain
    [fun s => (s.sunWrite none (page + 16 * (1 + n % 255)) (leBytes 4 queue ++ leBytes 4 tag ++ leBytes 8 value)).acts,
     State.sunRelease,
     fun s => (s.sunWrite none page (leBytes 8 (n + 1))).acts,
     fun s => if flagOf (s.noteSlot slot).2 11 then [] else [s.toHost (.msix ((s.noteSlot slot).2 % 2 ^ 11))]]

/-- The owner of a slot. -/
def State.noteOwner (s : State) (slot : Nat) : Nat := bitsOf (s.noteSlot slot).2 23 12

end Sys2Proof.Machine
end

