-- ==== Sys2Proof/Machine/Queue.lean ====
section
/-! DEFINITION. Queues and packets (14_queues R349 to R360): the queue table, doorbells and the mailbox's queue commands, starting and completing packets, and NOP, WAIT, BARRIER and SIGNAL. -/
namespace Sys2Proof.Machine

/-! ### The queue table (R350 to R353) -/

/-- A queue. -/
def State.queue (s : State) (q : Nat) : Queue := Sparse.get {} s.sun.queues q
/-- A launch. -/
def State.launch (s : State) (no : Nat) : Launch := Sparse.get {} s.sun.launches no
/-- The launches that have started and not completed. -/
def State.launches (s : State) : List (Nat × Launch) := s.sun.launches.filter (fun e => e.2.here)

/-- A queue's launch is pre-empted (R377). -/
def State.queuePaused (s : State) (q : Nat) : Bool := s.launches.any (fun e => decide (e.2.queue = q) && decide (e.2.gen = (s.queue q).gen) && e.2.stop.isSome)

/-- The STATE word of a descriptor (R351). -/
def State.stateWord (s : State) (q : Nat) : Nat :=
  match (s.queue q).halted with
  | some c => 1 + c * 2 ^ 8
  | none => if s.queuePaused q then 2 else 0

/-- RDIDX, DONEIDX and STATE are written into the descriptor (R351). -/
def State.descActs (s : State) (q : Nat) : List Act :=
  let x := s.queue q
  if x.here then (s.sunWrite x.space (x.desc + 0x10) (leBytes 8 x.rd ++ leBytes 8 x.done ++ leBytes 8 (s.stateWord q))).acts else []

/-- A queue has pending packets (R352). -/
def Queue.pending (x : Queue) : Bool := x.here && decide (x.rd < x.door)

/-- Queues that own a thread. -/
def State.threads (s : State) : List Nat := (s.sun.queues.filter (fun e => e.2.mapped)).map (fun e => e.1)

/-- Packet i's place in the ring (R352). -/
def Queue.slot (x : Queue) (i : Nat) : Nat := x.ring + 64 * (i % x.size)

/-- The queue is halted with a code (R352, R355). -/
def State.haltActs (s : State) (q code : Nat) : List Act :=
  s.chain [fun s => [.queue q { s.queue q with halted := some code }], fun s => s.descActs q]

/-- DOORBELL (R352). The count of packets written; one below the current count is ignored, and one that would overrun the ring halts the queue with CODE 0x01. A free thread takes the queue. -/
def execDoorbell (queue count : Nat) (s : State) : Host.Outcome State Fault Refusal :=
  let x := s.queue queue
  if !s.dev.ready || !x.here || decide (count ≤ x.door) then event s []
  else if x.done + x.size < count then event s (s.haltActs queue 0x01)
  else event s [.queue queue { x with door := count, since := if x.rd = x.door then s.run.ac else x.since, idle := if x.rd = x.door then s.run.time else x.idle, mapped := x.mapped || decide (s.threads.length < 32) }]

/-- A mailbox command ends with a status (R350); before READY every command returns status 8 (R432). (DESIGN CHOICE, assumption log 50) -/
def State.mailbox (s : State) (status : Nat) (acts : State → List Act) : List Act :=
  if s.dev.ready then s.chain [acts, fun s => [.dev { s.dev with mbstat := status }]] else [.dev { s.dev with mbstat := 8 }]

/-- The address space of a descriptor (DESIGN CHOICE, assumption log 15): the lowest ASID whose page table maps a descriptor that names it, else host physical memory. -/
def State.descSpace (s : State) (va : Nat) : Option Nat :=
  (s.maps.roots.find? (fun e => match s.sunRead (some e.1) va 64 with
    | .ok bs _ => decide (bitsOf (numAt bs 8 4) 23 12 = e.1)
    | _ => false)).map (fun e => e.1)

/-- The tests of R351 on a descriptor: MAINT is firmware's, reserved bits are zero, SZ is at most 12, the ASID is not 0 and the ring is aligned to its size. -/
def descOk (bs : List Byte) : Bool :=
  let ctl := numAt bs 8 4
  !flagOf ctl 7 && decide (bitsOf ctl 6 5 = 0) && decide (bitsOf ctl 31 24 = 0) && decide (numAt bs 0x0C 4 = 0) && decide (numAt bs 0x28 24 = 0)
    && decide (bitsOf ctl 11 8 ≤ 12) && decide (bitsOf ctl 23 12 ≠ 0) && decide (numAt bs 0 8 % (64 * 2 ^ (bitsOf ctl 11 8 + 4)) = 0)

/-- The queue a descriptor describes. -/
def queueOf (bs : List Byte) (va : Nat) (space : Option Nat) (gen : Nat) (mapped : Bool) : Queue :=
  let ctl := numAt bs 8 4
  { here := true, desc := va, space := space, ring := numAt bs 0 8, prio := bitsOf ctl 4 0, size := 2 ^ (bitsOf ctl 11 8 + 4), asid := bitsOf ctl 23 12, gen := gen, mapped := mapped }

/-- QREG (R350, R351). Registers a queue from its descriptor; a bad descriptor, number or address fails with status 1. (DESIGN CHOICE, assumption log 15) -/
def execQreg (queue va : Nat) (s : State) : Host.Outcome State Fault Refusal :=
  let space := s.descSpace va
  match s.sunRead space va 64 with
  | .ok bs as =>
    if queue < 1024 ∧ !(s.queue queue).here ∧ va % 64 = 0 ∧ descOk bs then
      event s (s.mailbox 0 (fun s => s.chain
        [fun _ => as, fun s => [.queue queue (queueOf bs va space (s.queue queue).gen (decide (s.threads.length < 32)))], fun s => s.descActs queue]))
    else event s (s.mailbox 1 (fun _ => []))
  | _ => event s (s.mailbox 1 (fun _ => []))

/-- The status word of a completed packet (R356). -/
def statusWord (code detail : Nat) : List Byte := leBytes 8 (1 + code % 256 * 2 ^ 8 + detail % 2 ^ 32 * 2 ^ 32)

/-- CST of packet i of a queue, 0 when it cannot be read. -/
def State.cstAt (s : State) (x : Queue) (i : Nat) : Nat :=
  match s.sunRead (some x.asid) (x.slot i) 64 with
  | .ok bs _ => numAt bs 8 8
  | _ => 0

/-- QUNREG (R350). Packets not yet started complete with CODE 0x09, and the queue number is free; what has started goes on. -/
def execQunreg (queue : Nat) (s : State) : Host.Outcome State Fault Refusal :=
  let x := s.queue queue
  if !x.here then event s (s.mailbox 1 (fun _ => []))
  else
    event s (s.mailbox 0 (fun s => s.chain
      (State.sunRelease :: (List.range (x.door - x.rd)).map (fun k s =>
          let cst := s.cstAt x (x.rd + k)
          if cst = 0 then [] else (s.sunWrite (some x.asid) cst (statusWord 0x09 0)).acts)
        ++ [fun _ => [.queue queue { gen := x.gen + 1 }]])))

/-- QRESUME (R355, R378). The queue leaves the halted state, its error is forgotten, and what PREEMPT stopped may go on. -/
def execQresume (queue : Nat) (s : State) : Host.Outcome State Fault Refusal :=
  let x := s.queue queue
  if !x.here then event s (s.mailbox 1 (fun _ => []))
  else
    event s (s.mailbox 0 (fun s => s.chain
      [fun _ => .queue queue { x with halted := none, err := none }
        :: (s.launches.filter (fun e => decide (e.2.queue = queue) && decide (e.2.gen = x.gen))).map (fun e =>
          .launch e.1 { e.2 with want := none, stop := e.2.stop.map (fun st => { st with cmd := false }) }),
       fun s => s.descActs queue]))

/-- PREEMPT (R350, R377). The queue's running launches are to be pre-empted, by drain (mode 0) or hard (mode 1); DRAIN_PREEMPTION and HARD_PREEMPTION do it. -/
def execPreempt (queue mode : Nat) (s : State) : Host.Outcome State Fault Refusal :=
  let x := s.queue queue
  if !x.here || decide (1 < mode) then event s (s.mailbox 1 (fun _ => []))
  else
    event s (s.mailbox 0 (fun s => (s.launches.filter (fun e => decide (e.2.queue = queue) && decide (e.2.gen = x.gen))).map (fun e => .launch e.1 { e.2 with want := some (decide (mode = 1)) })))

/-! ### Packets (R354) -/

/-- What a packet asks for: the rows of the opcode table. -/
inductive Row where
  | nop | launch | graphSeal | graphLaunch | wait | signalWrite | signalAdd | barrier | mapRoot | mapSync | dspalloc | dspfree | migreg | mcgroup | mcfree
  | unmap | bias | cap | step | snapregionAdd | snapregionRemove | rebuild | persist | attest
  deriving DecidableEq, Repr

/-- A packet as read from its ring. -/
structure Packet where
  queue : Nat
  index : Nat
  asid : Nat
  gen : Nat
  raw : List Byte
  deriving DecidableEq, Repr

/-- A field of a packet. -/
def Packet.num (p : Packet) (off n : Nat) : Nat := numAt p.raw off n
/-- TYPE. -/
def Packet.type (p : Packet) : Nat := p.num 0 1
/-- BAR. -/
def Packet.bar (p : Packet) : Bool := flagOf (p.num 0 4) 8
/-- HOE. -/
def Packet.hoe (p : Packet) : Bool := flagOf (p.num 0 4) 9
/-- TAG. -/
def Packet.tag (p : Packet) : Nat := p.num 4 4
/-- CST. -/
def Packet.cst (p : Packet) : Nat := p.num 8 8

/-- The row of a packet: by TYPE, and by OP where the type has operations. A packet of no row is malformed and runs as a NOP row would. -/
def Packet.row (p : Packet) : Row :=
  match p.type with
  | 0x01 => .launch
  | 0x02 => if p.num 0x10 4 = 0 then .graphSeal else if p.num 0x10 4 = 1 then .graphLaunch else .nop
  | 0x03 => .wait
  | 0x04 => if flagOf (p.num 0x20 4) 0 then .signalAdd else .signalWrite
  | 0x05 => .barrier
  | 0x06 => [Row.mapRoot, .mapSync, .dspalloc, .dspfree, .migreg, .mcgroup, .mcfree].getD (p.num 0x10 4) .nop
  | 0x07 => .unmap
  | 0x08 => .bias
  | 0x09 => .cap
  | 0x0A => .step
  | 0x0B => if flagOf (p.num 0x28 4) 0 then .snapregionRemove else .snapregionAdd
  | 0x0C => .rebuild
  | 0x0D => .persist
  | 0x0E => .attest
  | _ => .nop

/-- The named fields of each row's body: offset, size, and the bits that must be zero (R357 to R382). -/
def Row.fields : Row → List (Nat × Nat × Nat)
  | .nop => []
  | .launch => [(0x10, 8, 0), (0x18, 40, 2 ^ 320 - 1)]
  | .graphSeal => [(0x10, 4, 0), (0x14, 4, 2 ^ 32 - 1), (0x18, 8, 63), (0x20, 8, 0), (0x28, 8, 0)]
  | .graphLaunch => [(0x10, 4, 0), (0x14, 4, 2 ^ 32 - 1), (0x18, 8, 63), (0x20, 8, 0), (0x28, 8, 0)]
  | .wait => [(0x10, 8, 7), (0x18, 8, 0), (0x20, 8, 0), (0x28, 4, 2 ^ 32 - 4), (0x2C, 4, 0)]
  | .signalWrite => [(0x10, 8, 7), (0x18, 8, 0), (0x20, 4, 2 ^ 32 - 2 ^ 14), (0x24, 28, 2 ^ 224 - 1)]
  | .signalAdd => [(0x10, 8, 7), (0x18, 8, 0), (0x20, 4, 2 ^ 32 - 2 ^ 14), (0x24, 28, 2 ^ 224 - 1)]
  | .barrier => [(0x10, 8, 0xF800), (0x18, 8, 0xF800), (0x20, 8, 0xF800), (0x28, 8, 0xF800), (0x30, 8, 0xF800), (0x38, 8, 2 ^ 64 - 1)]
  | .mapRoot => [(0x10, 4, 0), (0x18, 8, 2 ^ 21 - 1)]
  | .mapSync => [(0x10, 4, 0), (0x18, 8, 0), (0x20, 8, 0)]
  | .dspalloc => [(0x10, 4, 0), (0x18, 8, 0), (0x20, 8, 2 ^ 64 - 1 - (3 + 0x1FF0 + 0x1FF0000))]
  | .dspfree => [(0x10, 4, 0), (0x18, 8, 0), (0x20, 8, 2 ^ 64 - 1 - (3 + 0x1FF0 + 0x1FF0000))]
  | .migreg => [(0x10, 4, 0), (0x18, 8, 2 ^ 64 - 2 ^ 36), (0x20, 8, 2 ^ 64 - 1 - (3 + 0xFFFFFFFFF0000))]
  | .mcgroup => [(0x10, 4, 0), (0x18, 8, 0), (0x20, 8, 2 ^ 64 - 1 - (0xFFF + 0xFFF0000))]
  | .mcfree => [(0x10, 4, 0), (0x20, 8, 2 ^ 64 - 1 - 0xFFF)]
  | .unmap => [(0x10, 8, 2 ^ 16 - 1), (0x18, 8, 2 ^ 16 - 1)]
  | .bias => [(0x10, 8, 0), (0x18, 8, 0), (0x20, 8, 2 ^ 64 - 2)]
  | .cap => [(0x10, 8, 0), (0x18, 4, 0), (0x1C, 4, 0), (0x20, 8, 0)]
  | .step => [(0x10, 8, 0), (0x18, 8, 0)]
  | .snapregionAdd => [(0x10, 8, 2 ^ 16 - 1), (0x18, 8, 2 ^ 16 - 1), (0x20, 8, 2 ^ 16 - 1), (0x28, 4, 2 ^ 32 - 2)]
  | .snapregionRemove => [(0x10, 8, 2 ^ 16 - 1), (0x18, 8, 2 ^ 16 - 1), (0x20, 8, 0), (0x28, 4, 2 ^ 32 - 2)]
  | .rebuild => [(0x10, 4, 2 ^ 32 - 2 ^ 20), (0x14, 4, 2 ^ 32 - 2 ^ 12), (0x18, 8, 0)]
  | .persist => [(0x10, 8, 0), (0x18, 8, 0)]
  | .attest => [(0x10, 8, 0), (0x18, 8, 63), (0x20, 16, 0)]

/-- The first offending field of a malformed packet (R354, R356): HDR's reserved bits or a reserved TYPE, a misaligned CST, a reserved operation, a named field's reserved bits, or a byte that no field names. -/
def Packet.bad (p : Packet) : Option Nat :=
  let fs := p.row.fields
  if 2 ^ 10 ≤ p.num 0 4 ∨ 0x0E < p.type then some 0
  else if p.cst % 8 ≠ 0 then some 8
  else if p.row = .nop ∧ p.type ≠ 0 then some 0x10
  else
    let offs := (fs.filter (fun f => decide (p.num f.1 f.2.1 &&& f.2.2 ≠ 0))).map (fun f => f.1)
      ++ ((List.range 48).map (fun i => 0x10 + i)).filter (fun o => decide (p.num o 1 ≠ 0) && fs.all (fun f => !(decide (f.1 ≤ o) && decide (o < f.1 + f.2.1))))
    offs.foldl (fun m o => match m with
      | none => some o
      | some x => some (min x o)) none

/-! ### Starting and completing (R355, R356) -/

/-- The packets of a queue that have started and not completed. -/
def State.activeOf (s : State) (q : Nat) : List Active := s.sun.active.filter (fun a => decide (a.queue = q) && decide (a.gen = (s.queue q).gen))

/-- A packet's queue blocks on it (R349, R355, R388): WAIT, BARRIER, STEP, and a LAUNCH without a dispatched pack. -/
def State.blocks (s : State) (a : Active) : Bool :=
  match a.work with
  | .wait _ _ _ _ _ => true
  | .barrier _ => true
  | .step _ _ _ => true
  | .launch _ => decide ((s.queue a.queue).rd ≤ a.index)
  | _ => false

/-- A launch is stopped for a hard pre-emption. -/
def Launch.hard (l : Launch) : Bool := match l.stop with
  | some st => st.hard
  | none => false
/-- Some hard pre-emption is to come or under way (R379): packets do not start until it is over. -/
def State.saving (s : State) : Bool :=
  s.launches.any (fun e => decide (e.2.want = some true) || (e.2.hard && s.ctl.packs.any (fun p => p.2.here && decide (p.2.launch = e.1))))

/-- Packet i of a queue as it stands in the ring. (DESIGN CHOICE, assumption log 53) -/
def State.packetAt (s : State) (q i : Nat) : Option (Packet × List Act) :=
  let x := s.queue q
  match s.sunRead (some x.asid) (x.slot i) 64 with
  | .ok bs as => some ({ queue := q, index := i, asid := x.asid, gen := x.gen, raw := bs }, as)
  | _ => none

/-- A packet that can start now (R349, R355, R379, R384): the next of a mapped queue that is neither halted nor blocked; with BAR, and a STEP or ATTEST, after every earlier one has completed. (DESIGN CHOICE, assumption log 53) -/
def State.startable (s : State) (q i : Nat) : Option (Packet × List Act) :=
  let x := s.queue q
  if !s.dev.ready || !x.pending || !x.mapped || x.halted.isSome || decide (x.rd ≠ i) || (s.activeOf q).any s.blocks || s.saving || s.dev.act.isSome || s.dev.heart.isSome then none
  else
    match s.packetAt q i with
    | none => none
    | some (p, as) => if (p.bar || decide (p.row = .step) || decide (p.row = .attest)) && decide (x.done < i) then none else some (p, as)

/-- DONEIDX passes the completed packets. -/
def Queue.advance (x : Queue) : Nat → Queue
  | 0 => x
  | n + 1 => if x.fin.contains x.done then Queue.advance { x with done := x.done + 1, fin := x.fin.filter (fun k => decide (k ≠ x.done)) } n else x
/-- A packet of the queue has completed. -/
def Queue.finish (x : Queue) (i code : Nat) : Queue :=
  Queue.advance { x with fin := i :: x.fin, err := if code = 0 then x.err else x.err.or (some code) } (x.fin.length + 1)

/-- A packet completes (R356): a sys-scope release for its own effects, its status word, and DONEIDX. -/
def State.complete (s : State) (a : Active) (code detail : Nat) : List Act :=
  s.chain
    [State.sunRelease,
     fun s => if a.cst = 0 then [] else (s.sunWrite (some a.asid) a.cst (statusWord code detail)).acts,
     fun s => .dropActive a.queue a.index :: (if (s.queue a.queue).here ∧ (s.queue a.queue).gen = a.gen then [.queue a.queue ((s.queue a.queue).finish a.index code)] else []),
     fun s => if (s.queue a.queue).gen = a.gen then s.descActs a.queue else []]

/-- The status word of a packet can be written, or never could: its page is not on its way. -/
def State.cstReady (s : State) (asid cst : Nat) : Bool := decide (cst = 0) || !(s.sunWrite (some asid) cst (statusWord 0 0)).waits

/-- A packet's entry among those that have started. -/
def Packet.active (p : Packet) (w : Work) : Active := { queue := p.queue, index := p.index, tag := p.tag, cst := p.cst, asid := p.asid, gen := p.gen, work := w }

/-- A packet completes at its start. -/
def State.completeNow (s : State) (p : Packet) (code detail : Nat) : List Act := s.complete (p.active .rebuild) code detail

/-- The queue's RDIDX passes a packet that has started (R351). -/
def State.startActs (s : State) (q i : Nat) : List Act :=
  let x := s.queue q
  s.chain [fun _ => [.queue q { x with rd := i + 1, since := s.run.ac }, .ran q (Config.sha384 (Sparse.get [] s.dev.images s.dev.fw))], fun s => s.descActs q]

/-- What a packet does: acts, an error code, or a page to wait for. -/
abbrev Body := Packet → State → Except SunErr (List Act)

/-- A body from steps that read and the acts after them. -/
def bodyOf (f : Packet → State → Sd (State → List Act)) : Body := fun p s =>
  match (f p s) [] with
  | .ok (g, as) => .ok (s.chain [fun _ => as, g])
  | .error e => .error e

/-- What starting a packet does (R355): HOE halts the queue after an error; a malformed packet completes with CODE 0x01; else its body's acts, or its error. None: it cannot start yet. -/
def State.startPacket (s : State) (p : Packet) (reads : List Act) (passes : Bool) (body : Body) : Option (List Act) :=
  if p.hoe && (s.queue p.queue).err.isSome then some (s.haltActs p.queue ((s.queue p.queue).err.getD 0))
  else if !s.cstReady p.asid p.cst then none
  else
    let start := fun (s : State) => reads ++ s.startActs p.queue p.index
    match p.bad with
    | some off => some (s.chain [start, fun s => s.completeNow p 0x01 off])
    | none =>
      match body p s with
      | .error (.wait _) => none
      | .error (.code c d ns) => some (s.chain [start, fun _ => ns, fun s => s.completeNow p c d])
      | .ok _ => some (s.chain [if passes then start else fun _ => reads, fun s => match body p s with
        | .ok as => as
        | .error (.code c d ns) => ns ++ s.completeNow p c d
        | .error (.wait _) => []])

/-- The event of a packet's row: Sundesh starts packet i of a queue when it is that row's and can start. -/
def State.packet (s : State) (q i : Nat) (row : Row) (passes : Bool) (body : Body) : Host.Outcome State Fault Refusal :=
  match s.startable q i with
  | none => event s []
  | some (p, as) => if p.row = row then event s ((s.startPacket p as passes body).getD []) else event s []

/-! ### NOP, WAIT, BARRIER, SIGNAL (R357 to R359) -/

/-- A NOP completes when it starts (R358). -/
def nopBody : Body := fun p s => .ok (s.completeNow p 0 0)
/-- NOP_PACKET (R358). Completes when it starts; a packet that is no row's completes with CODE 0x01. -/
def execNopPacket (queue index : Nat) (s : State) : Host.Outcome State Fault Refusal := s.packet queue index .nop true nopBody

/-- The condition of a WAIT (R357). -/
def waitHolds (word value mask cond : Nat) : Bool :=
  let x := word &&& mask
  match cond with
  | 0 => decide (x = value)
  | 1 => decide (x ≠ value)
  | 2 => decide (value ≤ x)
  | _ => decide (x < value)

/-- A WAIT that has started: it completes when its condition holds, with CODE 0x05 when its word cannot be read; else it waits (R357). -/
def State.waitStep (s : State) (a : Active) : Option (List Act) :=
  match a.work with
  | .wait addr value mask cond _ =>
    (match s.sunRead (some a.asid) addr 8 with
      | .ok bs as => if waitHolds (leNat bs) value mask cond then some (s.chain [fun _ => as, fun s => s.complete a 0 0]) else none
      | .bad ns => some (ns ++ s.complete a 0x05 0x10)
      | .wait _ => none)
  | _ => none

/-- WAIT's body. -/
def waitBody : Body := fun p s =>
  let tmo := p.num 0x2C 4
  let a := p.active (.wait (p.num 0x10 8) (p.num 0x18 8) (p.num 0x20 8) (p.num 0x28 4) (if tmo = 0 then none else some (s.run.time + tmo * usec)))
  .ok ((s.waitStep a).getD [.active a])
/-- WAIT (R357). Keeps its queue from starting later packets until a 64-bit word meets a condition. -/
def execWait (queue index : Nat) (s : State) : Host.Outcome State Fault Refusal := s.packet queue index .wait true waitBody

/-- A WAIT's time is over. -/
def State.waitLate (s : State) (a : Active) : Bool :=
  match a.work with
  | .wait _ _ _ _ (some t) => decide (t ≤ s.run.time)
  | _ => false

/-- WAIT_TIMEOUT (R357). TMO lapses first: the WAIT of a queue completes with CODE 0x07. -/
def execWaitTimeout (queue : Nat) (s : State) : Host.Outcome State Fault Refusal :=
  match s.sun.active.find? (fun a => decide (a.queue = queue) && s.waitLate a && s.cstReady a.asid a.cst) with
  | some a => event s (s.complete a 0x07 0)
  | none => event s []

/-- The named queues have completed what a BARRIER names (R358). -/
def State.depsDone (s : State) (deps : List (Nat × Nat)) : Bool := deps.all (fun d => !(s.queue d.1).here || decide (d.2 ≤ (s.queue d.1).done))
/-- A BARRIER that has started. -/
def State.barrierStep (s : State) (a : Active) : Option (List Act) :=
  match a.work with
  | .barrier deps => if s.depsDone deps then some (s.complete a 0 0) else none
  | _ => none
/-- BARRIER's body. -/
def barrierBody : Body := fun p s =>
  let deps := (List.range 5).filterMap (fun k => let d := p.num (0x10 + 8 * k) 8; if flagOf d 10 then some (d % 2 ^ 10, d / 2 ^ 16) else none)
  let a := p.active (.barrier deps)
  .ok ((s.barrierStep a).getD [.active a])
/-- BARRIER (R358). Completes when each named queue has completed every packet below the named index. -/
def execBarrier (queue index : Nat) (s : State) : Host.Outcome State Fault Refusal := s.packet queue index .barrier true barrierBody

/-- SIGNAL (R359, R360): a sys-scope release, the write or atomic add, the notification, and completion. -/
def signalBody (add : Bool) : Body := bodyOf (fun p s => do
  let addr := p.num 0x10 8
  let op := p.num 0x20 4
  let old ← if addr = 0 then pure [] else s.sdRead p.asid addr 8 0x10
  let new := leBytes 8 (if add then leNat old + p.num 0x18 8 else p.num 0x18 8)
  let slot := op / 4 % 2 ^ 12
  let note := flagOf op 1
  match (if addr = 0 then .ok [] [] else s.sunWrite (some p.asid) addr new) with
  | .wait va => fun _ => .error (.wait va)
  | .bad ns => fun _ => .error (.code 0x05 0x10 ns)
  | .ok _ _ =>
    pure (fun s => s.chain
      [State.sunRelease,
       fun s => if addr = 0 then [] else (s.sunWrite (some p.asid) addr new).acts,
       fun s =>
        if !note then s.completeNow p 0 0
        else if s.noteOwner slot ≠ p.asid then s.completeNow p 0x06 0x20
        else s.chain [fun s => s.notify p.queue p.tag (p.num 0x18 8) slot, fun s => s.completeNow p 0 0]]))
/-- SIGNAL_WRITE (R359). Releases at sys scope, writes a completion word and may post a notification. -/
def execSignalWrite (queue index : Nat) (s : State) : Host.Outcome State Fault Refusal := s.packet queue index .signalWrite true (signalBody false)
/-- SIGNAL_ADD (R359). Releases at sys scope, atomically adds to a completion word and may post a notification. -/
def execSignalAdd (queue index : Nat) (s : State) : Host.Outcome State Fault Refusal := s.packet queue index .signalAdd true (signalBody true)

/-! ### Threads (R353) -/

/-- A queue may lose its thread: it is empty, halted or blocked, or the other has pending packets and no lower priority. -/
def State.mayUnmap (s : State) (out into : Nat) : Bool :=
  let x := s.queue out
  !x.pending || x.halted.isSome || (s.activeOf out).any s.blocks || decide (x.prio ≤ (s.queue into).prio)

/-- The unmapped queue with pending packets that comes next: higher PRIO, then the longest wait. -/
def State.nextMapped (s : State) : Option Nat :=
  (s.sun.queues.filter (fun e => e.2.pending && !e.2.mapped && e.2.halted.isNone)).foldl (fun b e => match b with
    | none => some e.1
    | some x => some (if (s.queue x).prio < e.2.prio ∨ ((s.queue x).prio = e.2.prio ∧ e.2.since < (s.queue x).since) then e.1 else x)) none

/-- The rotations possible now: (out, into), out = into when a thread is free. -/
def State.rotations (s : State) : List (Nat × Nat) :=
  match s.nextMapped with
  | none => []
  | some q => if s.threads.length < 32 then [(q, q)] else (s.threads.filter (fun o => s.mayUnmap o q)).map (fun o => (o, q))

/-- Rotations that the bound of 100 µs makes due (R353). -/
def State.rotationsDue (s : State) : List (Nat × Nat) := s.rotations.filter (fun x => decide ((s.queue x.2).idle + 100 * usec ≤ s.run.time))

/-- QUEUE_ROTATION (R353). A queue with pending packets takes a free thread (out = into), or that of another queue. -/
def execQueueRotation (out into : Nat) (s : State) : Host.Outcome State Fault Refusal :=
  if s.rotations.contains (out, into) then
    event s ((if out = into then [] else [.queue out { s.queue out with mapped := false, idle := s.run.time }]) ++ [.queue into { s.queue into with mapped := true }])
  else event s []

end Sys2Proof.Machine
end

