-- ==== Sys2Proof/Machine/Launch.lean ====
section
/-! DEFINITION. Launches and graphs (14_queues R367 to R376): the checks of a launch record, work-graph versions, placing packs, and completion. -/
namespace Sys2Proof.Machine

/-! ### Room on a core (R15) -/

/-- What a pack asks of a core: gangs, slices of a gang, registers, tiles of a gang, scratchpad bytes. -/
structure PackShape where
  gangs : Nat
  slices : Nat
  regs : Nat
  acc : Nat
  scratch : Nat
  /-- gangs that stand on each quadrant, of a pack that comes back -/
  now : List Nat := []
  /-- of a pack that comes back: split-table entries it takes on each quadrant, and parts that would be parked -/
  entries : List Nat := []
  parked : Nat := 0
  deriving DecidableEq, Repr

/-- The shape of a pack. -/
def Pack.shape (k : Pack) : PackShape := { gangs := k.ngang, slices := k.nsl, regs := k.regs, acc := k.tiles, scratch := k.scratch }
/-- The shape of a launch's grid packs. -/
def Launch.shape (l : Launch) : PackShape := { gangs := l.gangs, slices := l.slices, regs := l.regs, acc := l.acc, scratch := l.scratch }
/-- The shape of a gang that a graph's node spawns from k records (R78). -/
def Kernel.shape (x : Kernel) (k : Nat) : PackShape := { gangs := 1, slices := (k + 3) / 4, regs := x.regs, acc := 0, scratch := x.scratch }
/-- Gangs on quadrant q: gang g goes to quadrant g mod 4 (R372). -/
def PackShape.gangsOn (x : PackShape) (q : Nat) : Nat := (x.gangs + 3 - q) / 4
/-- Gangs that stand on quadrant q: those of the dispatch, or of a pack that comes back the ones it now has (R59, R379). -/
def PackShape.standing (x : PackShape) (q : Nat) : Nat := x.now.getD q (x.gangsOn q)
/-- Their tiles: a gang keeps its tiles until it ends (R112), and a pack with tiles forms no other gangs (R61). -/
def PackShape.tilesOn (x : PackShape) (q : Nat) : Nat := x.standing q * x.acc

/-- The packs resident on a core. -/
def State.packsOn (s : State) (core : Nat) : List (Nat × Pack) := s.ctl.packs.filter (fun e => e.2.here && decide (e.2.core = core))
/-- A pack that has exited keeps its scratchpad allocation while another pack of its cluster set is resident (R185). -/
def State.lingers (s : State) (k : Pack) : Bool :=
  !k.here && !k.saved && k.cluster.isSome && s.ctl.packs.any (fun e => e.2.here && decide (e.2.launch = k.launch) && decide (e.2.cluster = k.cluster))
/-- The packs that hold scratchpad on a core. -/
def State.claims (s : State) (core : Nat) : List (Nat × Pack) := s.ctl.packs.filter (fun e => decide (e.2.core = core) && (e.2.here || s.lingers e.2))
/-- Bytes of scratchpad that are claimed on a core. -/
def State.claimed (s : State) (core : Nat) : Nat := ((s.claims core).map (fun e => e.2.scratch)).foldl (fun a b => a + b) 0
/-- Slots of a core that no pack holds; a saved pack without a redirect entry keeps its slot (R336). -/
def State.freeSlots (s : State) (core : Nat) : List Nat :=
  (List.range 16).filter (fun k => s.ctl.packs.all (fun e => !(decide (e.2.core = core) && decide (e.2.slot = k) && (e.2.here || (e.2.saved && !s.fab.redirect.contains e.1)))))
/-- Resident gangs of a quadrant. -/
def State.gangsAt (s : State) (quad : Nat) : Nat :=
  (((s.ctl.slices.filter (fun e => e.2.here && !e.2.gone && (s.packOf e.1).here && decide (s.quadOf e.1 = quad))).map (fun e => s.gangKey e.1)).eraseDups).length
/-- A gang holds its tiles: it has a slice left, or a matrix operation of it is outstanding (R112). -/
def State.holdsTiles (s : State) (g : Nat) : Bool :=
  !(s.pack (g / 128)).saved && (s.ctl.slices.any (fun e => e.2.here && !e.2.gone && decide (s.gangKey e.1 = g))
    || s.mat.mmas.any (fun e => e.2.any (fun m => decide (m.gang = g))) || s.mat.drains.any (fun d => decide (d.gang = g)))
/-- Tiles in use on a quadrant. -/
def State.tilesAt (s : State) (quad : Nat) : Nat :=
  ((s.ctl.gangs.filter (fun e => decide (e.2.quad = quad) && decide ((s.pack (e.1 / 128)).tiles ≠ 0) && s.holdsTiles e.1)).map (fun e => (s.pack (e.1 / 128)).tiles)).foldl (fun a b => a + b) 0

/-- A pack of a shape fits a core beside its packs and some others that are to come (R15). -/
def State.coreRoom (s : State) (extra : List (Nat × PackShape)) (core : Nat) (x : PackShape) : Bool :=
  let mine := (extra.filter (fun e => decide (e.1 = core))).map (fun e => e.2)
  let all := (s.packsOn core).map (fun e => e.2.shape) ++ mine
  let sum := fun (l : List PackShape) (f : PackShape → Nat) => (l.map f).foldl (fun a b => a + b) 0
  decide (mine.length < (s.freeSlots core).length) && decide (s.claimed core + sum mine (fun y => y.scratch) + x.scratch ≤ 917504)
    && (List.range 4).all (fun q =>
      decide (sum all (fun y => y.gangsOn q * (128 * y.regs)) + x.gangsOn q * (128 * x.regs) ≤ 131072)
        && decide (s.tilesAt (core * 4 + q) + sum mine (fun y => y.tilesOn q) + x.tilesOn q ≤ 4)
        && decide (s.gangsAt (core * 4 + q) + sum mine (fun y => y.standing q) + x.standing q ≤ 16))

/-- Packs of a shape that an idle core holds. -/
def PackShape.perCore (x : PackShape) : Nat :=
  let n := x.gangsOn 0
  let lim := fun (room need : Nat) => if need = 0 then 16 else room / need
  min (min 16 (lim 16 n)) (min (lim 131072 (n * (128 * x.regs))) (min (lim 4 (n * x.acc)) (lim 917504 x.scratch)))

/-! ### Which packs go together (R372) -/

/-- Packs of the grid. -/
def Launch.total (l : Launch) : Nat := l.gx * l.gy * l.gz
/-- A pack has been dispatched. -/
def Launch.isOut (l : Launch) (i : Nat) : Bool := decide (i < l.next) || l.early.contains i
/-- The cluster set of a pack: eight consecutive indices. -/
def Launch.setOf (l : Launch) (i : Nat) : List Nat := if l.cset then ((List.range 8).map (fun k => i / 8 * 8 + k)).filter (fun k => decide (k < l.total)) else [i]
/-- The groups of a pack, ascending. -/
def Launch.groupsOf (l : Launch) (i : Nat) : List Nat := (List.range l.groups.length).filter (fun g => (l.groups.getD g []).contains i)
/-- Some packs with their partners: cluster sets and groups. (DESIGN CHOICE, assumption log 44) -/
def Launch.close (l : Launch) : Nat → List Nat → List Nat
  | 0, xs => xs
  | n + 1, xs => Launch.close l n ((xs.flatMap (fun i => l.setOf i ++ (l.groupsOf i).flatMap (fun g => l.groups.getD g []))).eraseDups)
/-- The packs dispatched together with pack i, ascending. (DESIGN CHOICE, assumption log 44) -/
def Launch.unit (l : Launch) (i : Nat) : List Nat :=
  let xs := l.close (l.groups.length + 1) [i]
  (List.range l.total).filter (fun k => xs.contains k && !l.isOut k)

/-- The unit cut into the pieces that are placed one by one: cluster sets, or single packs. -/
def Launch.pieces (l : Launch) (xs : List Nat) : List (List Nat) :=
  if l.cset then ((xs.map (fun i => i / 8)).eraseDups).map (fun k => xs.filter (fun i => decide (i / 8 = k))) else xs.map (fun i => [i])

/-- A piece placed from a core on: the packs of a cluster set go to the cores of one cluster, one each. -/
def piecePlaces (core : Nat) (xs : List Nat) : List (Nat × Nat) := xs.zipIdx.map (fun e => (e.1, core / 8 * 8 + (core + e.2) % 8))

/-- A core is offered for a piece. -/
def State.pieceFits (s : State) (extra : List (Nat × PackShape)) (x : PackShape) (core : Nat) (xs : List Nat) : Bool :=
  (piecePlaces core xs).all (fun e => s.coreRoom extra e.2 x)

/-- Place pieces one after another, each on a core the hardware chooses; the first on one of the cores named. -/
def State.placePieces (s : State) (x : PackShape) : Nat → List Nat → List (Nat × PackShape) → List (List Nat) → Option (List (Nat × Nat))
  | _, _, _, [] => some []
  | k, cores, extra, xs :: rest =>
    let ok := cores.filter (fun c => s.pieceFits extra x c xs)
    match ok[s.pick k ok.length]? with
    | none => none
    | some c =>
      let here := piecePlaces c xs
      (State.placePieces s x (k + 1) (List.range 160) (extra ++ here.map (fun e => (e.2, x))) rest).map (fun l => here ++ l)

/-- Where the next packs of a launch would go, the first on one of some cores. -/
def State.placeNext (s : State) (l : Launch) (cores : List Nat) : Option (List (Nat × Nat)) :=
  if l.total ≤ l.next then none else s.placePieces l.shape 0 cores [] (l.pieces (l.unit l.next))

/-! ### Preparing a pack (R371) -/

/-- The live packs of a launch, resident or saved. -/
def State.packsOf (s : State) (no : Nat) : List (Nat × Pack) := s.ctl.packs.filter (fun e => (e.2.here || e.2.saved) && decide (e.2.launch = no))

/-- Bytes of the lane-private area that one pack of a launch takes. -/
def Launch.areaBytes (l : Launch) : Nat :=
  max (l.gangs * l.slices * 4 * l.lanepriv) (match l.graph with
    | some g => 32 * g.kernel.lanepriv
    | none => 0)
/-- The parts of the lane-private area that the next m packs of a launch take: the lowest ones that no live pack of it uses. -/
def State.freeAreas (s : State) (no m : Nat) : List Nat :=
  let l := s.launch no
  let used := (s.packsOf no).map (fun e => e.2.lpbase)
  (((List.range (used.length + m)).map (fun k => l.lparea + k * l.areaBytes)).filter (fun b => !used.contains b)).take m
/-- The lane-private base Sundesh assigns (R186): the lowest part of the area that no live pack of the launch uses. -/
def State.freeArea (s : State) (no : Nat) : Nat := (s.freeAreas no 1).headD (s.launch no).lparea

/-- The windows into which the arguments of m packs are copied (R371): their first bytes. -/
def State.argPlaces (s : State) (no m lanes lanepriv : Nat) : List Nat :=
  if (s.launch no).arglen = 0 then [] else (s.freeAreas no m).flatMap (fun b => (List.range lanes).map (fun k => b + k * lanepriv))
/-- The arguments of m packs can be copied: neither their page nor a window's is still to come. (DESIGN CHOICE, assumption log 92) -/
def State.argsReady (s : State) (no m lanes lanepriv : Nat) : Bool :=
  let l := s.launch no
  !(s.sunRead (some l.asid) l.argsAt l.arglen).waits && (s.argPlaces no m lanes lanepriv).all (fun va => !(s.sunWrite (some l.asid) va (zeros l.arglen)).waits)

/-- A pack's values that its slices start with. -/
structure Start where
  px : Word
  py : Word
  pz : Word
  index : Nat
  shape : PackShape
  lanepriv : Nat
  text : Nat
  entry : Nat
  bars : Nat
  sched : List SchedEntry := []
  groups : List Nat := []
  cluster : Option Nat := none
  spawned : Option (Nat × Nat) := none
  /-- records of a spawned gang, one for each live lane -/
  recs : List (List Word) := []

/-- The live lanes of slice i: all, or those that received a record (R77). -/
def Start.live (x : Start) (i : Nat) : BitVec 4 := if x.spawned.isSome then laneMask (lanes4.filter (fun l => decide (4 * i + l < x.recs.length))) else 15

/-- The L1 lines of a core that a new allocation of some bytes takes with the lent units it needs (R190); which lines lie in a unit the hardware chooses. (DESIGN CHOICE, assumption log 7) -/
def State.reclaimActs (s : State) (core bytes : Nat) : List Act :=
  let units := fun (n : Nat) => (n + 65535) / 65536
  if units (s.claimed core + bytes) = units (s.claimed core) then []
  else
    let mine := s.coh.copies.filter (fun e => decide (e.1 / 2 ^ 128 = core) && e.2.isSome)
    (mine.zipIdx.filter (fun e => decide (s.pick (32 + e.2) 2 = 0))).map (fun e => .copy e.1.1 none)

/-- Sundesh may set the core's lease length, 4 to 256 ticks, as it prepares a pack (R219): 0 leaves it. (DESIGN CHOICE, assumption log 19) -/
def State.leaseSet (s : State) (core : Nat) : List Act :=
  match s.pick 24 254 with
  | 0 => []
  | n + 1 => [.core core { s.core core with lease := n + 4 }]

/-- A new pack on a core (R115, R250, R371): its name, slices, gangs, barriers, capability table and arguments; the core's instruction cache is discarded and the stage counter is 0. A kernel object holds no capability entries: a spawned gang too has the launch's table (DESIGN CHOICE, assumption log 88). (DESIGN CHOICE, assumption log 5) (DESIGN CHOICE, assumption log 7) -/
def State.newPack (s : State) (no : Nat) (x : Start) (core : Nat) : List Act :=
  let l := s.launch no
  let p := s.ctl.nextPack
  let slot := (s.freeSlots core).headD 0
  let gen := Sparse.get 0 s.fab.gens (core * 16 + slot)
  let n := x.shape.gangs * x.shape.slices
  let base := s.freeArea no
  let win : Window := ⟨56, x.shape.regs - 56⟩
  let halt := ((l.debug).map (fun d => d.step)).getD false
  let pack : Pack := {
    here := true, core := core, slot := slot, gen := gen, core0 := core, slot0 := slot, launch := no, launchId := BitVec.ofNat 32 no, queue := l.queue, asid := l.asid, prio := l.prio,
    index := x.index, px := x.px, py := x.py, pz := x.pz, ngang := x.shape.gangs, nsl := x.shape.slices, regs := x.shape.regs, tiles := x.shape.acc, scratch := x.shape.scratch,
    lpsize := x.lanepriv, lpbase := base, groups := x.groups, groupEntries := l.groups.length, textBase := x.text, entry := x.entry, handler := l.handler, arrvBase := l.arrvBase,
    barriers := x.bars, cluster := x.cluster, age := s.ctl.nextAge, spawned := x.spawned, debug := l.debug,
    quota := (List.range 4).map (fun q => x.shape.gangsOn q * x.shape.slices), sched := x.sched, maint := l.maint }
  let slice := fun (i : Nat) => ({
    here := true, sid := i, gslot := i % x.shape.slices, gang := i / x.shape.slices, home := i / x.shape.slices, live := x.live i, pc := x.entry,
    w0 := win, w1 := win, w2 := win, w3 := win, sptop := x.lanepriv, stepped := halt } : Slice)
  let recs := x.recs.zipIdx.flatMap (fun e => e.1.zipIdx.map (fun w => Act.reg (laneKey (p * 128 + e.2 / 4) (e.2 % 4)) w.2 w.1 false))
  let width := (x.recs.headD []).length
  let tags := (List.range (if x.spawned.isSome then n else 0)).flatMap (fun i => (List.range width).map (fun r =>
    let vals := ((x.recs.drop (4 * i)).take 4).map (fun v => v.getD r 0)
    Act.untag (p * 128 + i) r (!(vals.all (fun v => decide (v = vals.headD 0)) && decide (s.pick (8 + i) 2 = 1)))))
  s.chain
    [fun _ => .newPack :: .pack p pack :: .icacheDrop core :: s.reclaimActs core x.shape.scratch ++ s.leaseSet core
        ++ (List.range n).map (fun i => .slice (p * 128 + i) (.replace (slice i)))
        ++ (List.range x.shape.gangs).map (fun g => .gang (p * 128 + g) { quad := core * 4 + g % 4, accmap := 2 ^ x.shape.acc - 1, age := s.ctl.nextAge, nsl := x.shape.slices })
        ++ (List.range 16).map (fun b => .bar (p * 16 + b) { exp := n })
        ++ l.caps.zipIdx.map (fun c => .cap (p * 64 + c.2) c.1)
        ++ recs ++ tags,
     fun s => match s.sunRead (some l.asid) l.argsAt l.arglen with
        | .ok args as => s.chain ((fun _ => as) :: (List.range (4 * n)).map (fun k s => (s.sunWrite (some l.asid) (base + k * x.lanepriv) args).acts))
        | _ => [],
     fun _ => (List.range x.shape.gangs).map (fun g => .enter ((List.range x.shape.slices).map (fun j => p * 128 + g * x.shape.slices + j))),
     fun s => (if x.cluster.isSome then (List.range 8).map (fun k => .slots (slotKey core k) 15 (15 - min 15 l.mcslots)) else []) ++ [.stage p 0]
        ++ (if x.spawned.isSome then [.raiseCk core (s.core core).obsv] else [])]

/-- What a grid pack starts with. -/
def Launch.start (l : Launch) (i : Nat) : Start :=
  { px := BitVec.ofNat 32 (i % l.gx), py := BitVec.ofNat 32 (i / l.gx % l.gy), pz := BitVec.ofNat 32 (i / (l.gx * l.gy)), index := i, shape := l.shape, lanepriv := l.lanepriv,
    text := l.text, entry := l.entry, bars := l.bars, sched := l.sched, groups := l.groupsOf i, cluster := if l.cset then some (i / 8 * 8) else none }

/-- NEXTPACK passes the packs that are out. -/
def Launch.advance (l : Launch) : Nat → Launch
  | 0 => l
  | n + 1 => if l.early.contains l.next then Launch.advance { l with next := l.next + 1, early := l.early.filter (fun k => decide (k ≠ l.next)) } n else l
/-- Some packs have been dispatched. (DESIGN CHOICE, assumption log 44) -/
def Launch.took (l : Launch) (xs : List Nat) : Launch := Launch.advance { l with early := l.early ++ xs } (l.early.length + xs.length + 1)

/-! ### Dispatch (R372, R377 to R379) -/

/-- Launches of the same queue before this one still have packs to dispatch. -/
def State.behind (s : State) (no : Nat) : Bool :=
  s.launches.any (fun e => decide (e.1 < no) && decide (e.2.queue = (s.launch no).queue) && decide (e.2.gen = (s.launch no).gen) && decide (e.2.next < e.2.total))
/-- Saved packs of a launch are still to be restored. -/
def State.hasSaved (s : State) (no : Nat) : Bool := (s.packsOf no).any (fun e => e.2.saved)
/-- A launch has something to place: grid packs, or saved ones. -/
def State.hungry (s : State) (no : Nat) : Bool :=
  let l := s.launch no
  l.here && ((decide (l.next < l.total) && !s.behind no) || s.hasSaved no) && l.want.isNone && !s.ctl.fatal.any (fun f => decide (f.1 = no)) && l.broken.isNone
/-- Nothing keeps a launch's packs away (R353, R378): it is not stopped by a command, no save is under way, and no launch of higher priority waits. -/
def State.unheld (s : State) (no : Nat) : Bool :=
  let l := s.launch no
  !s.saving && (match l.stop with
      | some st => !st.cmd
      | none => true)
    && s.launches.all (fun e => !(decide (l.prio < e.2.prio) && s.hungry e.1 && e.2.stop.isNone))
/-- A launch may dispatch, or restore. -/
def State.mayDispatch (s : State) (no : Nat) : Bool := s.hungry no && s.unheld no

/-! ### Bins (R76 to R80) -/

/-- Key of a bin. -/
def binKey (no die node : Nat) : Nat := (no * 4 + die) * 64 + node
/-- A bin. -/
def State.bin (s : State) (k : Nat) : Bin := Sparse.get {} s.sun.bins k
/-- The node of a bin. -/
def State.binNode (s : State) (k : Nat) : Option (Graph × Node) := (s.launch (k / 256)).graph.bind (fun g => (g.nodes[k % 64]?).map (fun n => (g, n)))
/-- A bin's oldest record has waited the node's timer (R77). -/
def State.binLate (s : State) (k : Nat) : Bool :=
  match s.binNode k, (s.bin k).recs with
  | some (_, n), r :: _ => decide (r.1 + n.timer ≤ s.run.ac)
  | _, _ => false
/-- A bin has a gang to launch. -/
def State.binDue (s : State) (k : Nat) : Bool := decide (32 ≤ (s.bin k).recs.length) || s.binLate k
/-- A pre-empted launch goes on (R378): its queue's STATE no longer says so. -/
def State.resumeLaunch (s : State) (no : Nat) : List Act :=
  if (s.launch no).stop.isNone then [] else s.chain [fun s => [.launch no { s.launch no with stop := none }], fun s => s.descActs (s.launch no).queue]

/-- A bin launches a gang on a core of its die (R77, R78): of its 32 oldest records, or of all. -/
def State.launchBin (s : State) (k core : Nat) : List Act :=
  match s.binNode k with
  | none => []
  | some (g, n) =>
    let b := s.bin k
    let recs := b.recs.take 32
    let x : Start := { px := BitVec.ofNat 32 (k % 64), py := BitVec.ofNat 32 b.count, pz := 0xFFFFFFFF#32, index := 0, shape := g.kernel.shape recs.length, lanepriv := g.kernel.lanepriv,
                       text := g.kernel.text, entry := n.entry, bars := g.kernel.bars, spawned := some (g.version, n.depth), recs := recs.map (fun r => r.2) }
    s.chain [fun _ => [.raiseObsv core b.tc], fun s => s.newPack (k / 256) x core ++ [.draw 16], fun _ => [.bin k { b with recs := b.recs.drop 32, count := b.count + 1 }],
      fun s => if (s.launch (k / 256)).hard then s.resumeLaunch (k / 256) else []]

/-- A bin can launch on a core: it has a gang, the core is on its die and has room. -/
def State.binFits (s : State) (k core : Nat) : Bool :=
  s.binDue k && decide (dieOfCore core = k / 64 % 4) && (!(s.launch (k / 256)).hard || s.unheld (k / 256))
    && !s.ctl.fatal.any (fun f => decide (f.1 = k / 256))
    && (match s.binNode k with
      | some (g, _) => s.coreRoom [] core (g.kernel.shape (min 32 (s.bin k).recs.length)) && s.argsReady (k / 256) 1 (min 32 (s.bin k).recs.length) g.kernel.lanepriv
      | none => false)

/-- No bin of a deeper node of its launch has a gang that some core could take (R80). -/
def State.binFirst (s : State) (k : Nat) : Bool :=
  let depth : Nat → Nat := fun j => ((s.binNode j).map (fun x => x.2.depth)).getD 0
  (s.sun.bins.map (fun e => e.1)).all (fun j => !(decide (j / 256 = k / 256) && decide (depth k < depth j) && s.binDue j && (List.range 160).any (s.binFits j)))
/-- The bins of a launch whose gangs come first: they have one to launch, and none deeper could be placed (R80). -/
def State.dueBins (s : State) (no : Nat) : List Nat := (s.sun.bins.map (fun e => e.1)).filter (fun k => decide (k / 256 = no) && s.binDue k && s.binFirst k)

/-- BIN_TIMER can act (R77, R80). -/
def State.timerReady (s : State) (k : Nat) : Bool := s.binLate k && s.binFirst k && (List.range 160).any (s.binFits k)

/-- BIN_TIMER (R77). The oldest record has waited the node's timer: the bin launches a gang of its records, on a core with room that the hardware chooses; gangs of deeper nodes go first (R80). -/
def execBinTimer (bin : Nat) (s : State) : Host.Outcome State Fault Refusal :=
  let ok := (List.range 160).filter (s.binFits bin)
  match ok[s.pick 0 ok.length]? with
  | some c => if s.timerReady bin then event s (s.launchBin bin c) else event s []
  | none => event s []

/-- PACK_DISPATCH can place the next packs of a launch with the first on a core; a gang of its bins that some core could take goes first (R80). -/
def State.dispatchPlan (s : State) (no core : Nat) : Option (List (Nat × Nat)) :=
  if s.mayDispatch no && !s.hasSaved no && decide (core < 160) && (s.dueBins no).all (fun k => !(List.range 160).any (s.binFits k)) then (s.placeNext (s.launch no) [core]).bind (fun ps => if s.argsReady no ps.length ((s.launch no).gangs * (s.launch no).slices * 4) (s.launch no).lanepriv then some ps else none) else none

/-- The dispatch of grid packs: each is prepared in turn; with the first pack its packet has started (R355). -/
def State.dispatchActs (s : State) (no : Nat) (places : List (Nat × Nat)) : List Act :=
  let l := s.launch no
  s.chain
    ((fun s => [.draw 64, .launch no ((s.launch no).took (places.map (fun e => e.1)))]) :: (fun s => s.resumeLaunch no)
      :: places.map (fun e s => s.newPack no (l.start e.1) e.2 ++ [.draw 64])
      ++ [fun s => if (s.queue l.queue).here ∧ (s.queue l.queue).gen = l.gen ∧ (s.queue l.queue).rd = l.index then s.startActs l.queue l.index else []])

/-- PACK_DISPATCH (R371, R372). Sundesh places the next packs of a launch, the first on the core named; gangs its bins have to launch go first (R80). -/
def execPackDispatch (launch core : Nat) (s : State) : Host.Outcome State Fault Refusal :=
  match (s.dueBins launch).find? (fun k => s.binFits k core) with
  | some k => event s (s.launchBin k core)
  | none =>
    match s.dispatchPlan launch core with
    | some ps => event s (s.dispatchActs launch ps)
    | none => event s []

/-! ### Reading tables (R322, R369, R103, R306) -/

/-- Cut bytes into entries of n. -/
def entriesOf (n : Nat) (bs : List Byte) : List (List Byte) := (List.range (bs.length / n)).map (fun i => (bs.drop (n * i)).take n)

/-- A capability entry (R322). -/
def capOf (bs : List Byte) : CapEntry := { ctl := numAt bs 0 8, base := numAt bs 8 8, len := numAt bs 16 8, allow := numAt bs 24 8 }
/-- The offset of the first field of a table whose test fails. -/
def firstOf (checks : List (Nat × Bool)) : Option Nat := (checks.find? (fun f => f.2)).map (fun f => f.1)

/-- The first field of a capability entry that R322 does not allow: CTL, WBASE or WLEN. (DEDUCED, assumption log 46) -/
def CapEntry.wrong (e : CapEntry) : Option Nat :=
  firstOf [(0, decide (e.bits 63 56 ≠ 0) || decide (e.bits 15 8 ≠ 0) || decide (e.bits 2 1 = 3) || (decide (e.bits 2 1 = 1) && decide (e.bits 55 44 ≠ 0))),
    (8, decide (e.bits 2 1 = 2) && decide (2 ^ 16 ≤ e.base)), (0x10, decide (e.bits 2 1 = 2) && decide (e.len ≠ 0))]
/-- The reserved fields of a capability entry are zero and its KIND is not 3 (R322). -/
def CapEntry.legal (e : CapEntry) : Bool := e.wrong.isNone
/-- The offset in a capability table of the first field that is not allowed. -/
def capFault (es : List CapEntry) : Option Nat := es.zipIdx.findSome? (fun c => c.1.wrong.map (fun off => 32 * c.2 + off))

/-- The first field of a debug block that R103 does not allow; the length of a watchpoint that is off is tested too. -/
def debugFault (bs : List Byte) : Option Nat :=
  firstOf ((List.range 4).map (fun k => (8 * k, flagOf (numAt bs (8 * k) 8) 1 || decide (numAt bs (8 * k) 8 / 2 ^ 57 ≠ 0)))
    ++ (List.range 4).map (fun k => (0x40 + k, decide (128 ≤ numAt bs (0x40 + k) 1) || decide (bitsOf (numAt bs (0x40 + k) 1) 4 0 < 2) || decide (16 < bitsOf (numAt bs (0x40 + k) 1) 4 0)))
    ++ [(0x44, decide (numAt bs 0x44 4 % 4 = 3) || decide (16 ≤ numAt bs 0x44 4)), (0x48, decide (2 ^ 13 ≤ numAt bs 0x48 4)), (0x4C, decide (numAt bs 0x4C 4 ≠ 0))])
/-- A debug block (R103), none when a field of it is not allowed. -/
def debugOf (bs : List Byte) (va : Nat) : Option Debug :=
  let wpctl := fun (k : Nat) => numAt bs (0x40 + k) 1
  let ctl := numAt bs 0x44 4
  let note := numAt bs 0x48 4
  if (debugFault bs).isSome then none
  else
    some { bps := (List.range 4).map (fun k => let b := numAt bs (8 * k) 8; if flagOf b 0 then some (b / 4 * 4) else none)
           wps := (List.range 4).map (fun k => let n := 2 ^ bitsOf (wpctl k) 4 0; (numAt bs (0x20 + 8 * k) 8 / n * n, n, bitsOf (wpctl k) 6 5))
           scope := ctl % 4, attach := flagOf ctl 2, step := flagOf ctl 3, note := if flagOf note 12 then some (note % 2 ^ 12) else none, va := va }

/-- A copy-schedule entry (R306). -/
def schedOf (bs : List Byte) : SchedEntry :=
  let ctl := numAt bs 0x28 4
  { desc := (List.range 8).map (fun k => numAt bs (4 * k) 4), sstep := numAt bs 0x20 4, dstep := numAt bs 0x24 4, stage := ctl % 2 ^ 8, queue := bitsOf ctl 11 8, ss := bitsOf ctl 13 12, sd := bitsOf ctl 15 14,
    refill := flagOf ctl 16, cons := numAt bs 0x2C 4 % 2 ^ 16 }
/-- The first field of a schedule entry that the limits of R306 or the static checks of R300 do not allow, for packs of a launch with these scratchpad bytes, ARRVBASE, barriers and pack count. -/
def schedFault (bs : List Byte) (scratch arrv bars total : Nat) (cset : Bool) : Option Nat :=
  let e := schedOf bs
  let ctl := numAt bs 0x28 4
  let cons := numAt bs 0x2C 4
  let d := e.descOf 0
  let odd := fun (x : Int) => d.t32 && decide (x % 4 ≠ 0)
  let inside := fun (sp : Nat) (rs : List (Nat × Nat)) => match sp with
    | 0 => rs.all (fun r => decide (r.1 + r.2 ≤ 2 ^ 57))
    | 1 => rs.all (fun r => decide (r.1 + r.2 ≤ scratch))
    | _ => cset && rs.all (fun r => decide (r.1 < 2 ^ 23) && decide (r.1 % 2 ^ 20 + r.2 ≤ scratch))
  let all := fun (f : Desc → Bool) => (List.range total).all (fun i => f (e.descOf i))
  firstOf [(0x28, decide (2 ^ 17 ≤ ctl) || decide (e.ss = 3) || decide (e.sd = 3)), (0x2C, decide (2 ^ 16 ≤ cons) || (if e.refill then decide (cons = 0) else decide (cons ≠ 0))),
    (0x14, decide (2 < d.kind) || (d.t32 && d.zero)), (0x10, decide (2 ^ 24 < d.len)), (0x14, decide (d.kind = 1) && decide (bars ≤ d.tgt)),
    (0x00, odd d.src), (0x08, odd d.dst), (0x10, odd d.len), (0x18, odd d.sstr), (0x1C, odd d.dstr), (0x20, decide (1 < total) && odd e.sstep), (0x24, decide (1 < total) && odd e.dstep),
    (0x00, !all (fun d => d.zero || inside e.ss (d.srcRanges e.ss))), (0x08, !all (fun d => inside e.sd (d.dstRanges e.sd))), (0x14, decide (d.kind = 2) && decide (scratch < arrv + 8 * d.tgt + 8))]

/-- The schedule at a VA: its entries' bytes, or the offset of the header's field that is not allowed (R306). -/
def State.sdSched (s : State) (asid va field : Nat) : Sd (Except Nat (List (List Byte))) := do
  let h ← s.sdRead asid va 16 field
  let n := numAt h 0 4
  match firstOf [(0, decide (n = 0) || decide (256 < n)), (4, decide (numAt h 4 12 ≠ 0))] with
  | some off => pure (.error off)
  | none =>
    let bs ← s.sdRead asid (va + 16) (48 * n) field
    pure (.ok (entriesOf 48 bs))

/-- A SHAPE word's fields: register count, gangs, slices, tiles, barriers. -/
def shapeRegs (w : Nat) : Nat := 64 + 32 * (w % 8)
/-- GANGS. -/
def shapeGangs (w : Nat) : Nat := bitsOf w 7 4 + 1
/-- SLICES. -/
def shapeSlices (w : Nat) : Nat := bitsOf w 10 8 + 1
/-- ACC. -/
def shapeAcc (w : Nat) : Nat := bitsOf w 14 12
/-- BARS. -/
def shapeBars (w : Nat) : Nat := bitsOf w 28 24
/-- A SHAPE is not below another in any field (R370). -/
def shapeCovers (w k : Nat) : Bool :=
  decide (k % 8 ≤ w % 8) && decide (shapeGangs k ≤ shapeGangs w) && decide (shapeSlices k ≤ shapeSlices w) && decide (shapeAcc k ≤ shapeAcc w) && decide (shapeBars k ≤ shapeBars w)

/-- The first field of a kernel object that is not allowed: MAGIC or a reserved one (R368). The spec states no outcome for a reserved bit of SHAPEMIN that is set: it is ignored here (DESIGN CHOICE, assumption log 84). -/
def kobjFault (k : List Byte) : Option Nat := firstOf [(0, decide (numAt k 0 4 ≠ 0x9C900)), (0x14, decide (numAt k 0x14 4 ≠ 0)), (0x38, decide (numAt k 0x38 8 ≠ 0))]

/-- What spawned gangs take from a kernel object. -/
def kernelOf (k : List Byte) : Kernel :=
  { regs := shapeRegs (numAt k 4 4), scratch := numAt k 8 4, lanepriv := max 4096 (numAt k 0xC 4), bars := shapeBars (numAt k 4 4), text := numAt k 0x18 8 }

/-- The offset of the first reserved field of a launch record that is not zero, or of SHAPE when REGS is 7 (R368, R370 step 1). -/
def recReserved (r : List Byte) : Option Nat :=
  ([(0x08, 4, 2 ^ 32 - 1 - (7 + 0xF0 + 0x700 + 0x800 + 0x7000 + 0x1F0000 + 0x400000 + 0x1F000000)), (0x44, 4, 2 ^ 32 - 16), (0x74, 4, 2 ^ 32 - 1), (0x88, 56, 2 ^ 448 - 1)].find? (fun f =>
    decide (numAt r f.1 f.2.1 &&& f.2.2 ≠ 0) || (decide (f.1 = 8) && decide (numAt r 8 4 % 8 = 7)))).map (fun f => f.1)

/-- The offset of the first field of a record whose value the record's table does not allow (R368). (DEDUCED, assumption log 55) -/
def recRange (r : List Byte) : Option Nat :=
  let n := fun (o k : Nat) => numAt r o k
  firstOf [(0x08, decide (16 < shapeBars (n 8 4)) || decide (4 < shapeAcc (n 8 4))), (0x0C, decide (n 0xC 4 % 256 ≠ 0)), (0x10, decide (n 0x10 4 % 4096 ≠ 0) || decide (n 0x10 4 < 4096) || decide (65536 < n 0x10 4)),
    (0x14, decide (n 0x14 4 % 8 ≠ 0) || decide (256 < n 0x14 4)), (0x20, decide (n 0x20 4 = 0)), (0x24, decide (n 0x24 4 = 0)), (0x28, decide (n 0x28 4 = 0) || decide (2 ^ 32 ≤ n 0x20 4 * n 0x24 4 * n 0x28 4)),
    (0x2C, decide (n 0x2C 4 % 8 ≠ 0)), (0x38, decide (n 0x40 4 = 0) && decide (n 0x38 8 ≠ 0)), (0x40, decide (256 < n 0x40 4)), (0x60, decide (n 0x60 8 % 65536 ≠ 0))]

/-- The minimum CSALEN (R381). -/
def csaNeed (x : PackShape) (packs nodes : Nat) : Nat :=
  65536 + 65536 * nodes + packs * (90112 + x.gangs * (128 * x.regs + 32768 * x.acc) + 512 * x.gangs * x.slices + x.scratch * 33 / 32)

/-- Bit 31 of DETAIL: the field lies in a table the record names (R356). -/
def inTable (off : Nat) : Nat := off + 2 ^ 31

/-- Strictly ascending. -/
def ascending : List Nat → Bool
  | a :: b :: l => decide (a < b) && ascending (b :: l)
  | _ => true

/-- The members of every group (R369), or the failure. (DESIGN CHOICE, assumption log 43) -/
def State.sdGroups (s : State) (asid gt ng total : Nat) : Sd (List (List Nat)) := do
  let bs ← s.sdRead asid gt (16 * ng) 0x38
  let lists ← (entriesOf 16 bs).zipIdx.mapM (fun e => do
    let n := numAt e.1 8 4
    sdNeed (decide (1 ≤ n) && decide (n ≤ 4096)) 0x03 (inTable (16 * e.2 + 8))
    sdNeed (decide (numAt e.1 12 4 = 0)) 0x03 (inTable (16 * e.2 + 12))
    let l ← s.sdRead asid (numAt e.1 0 8) (4 * n) 0x38
    let xs := (entriesOf 4 l).map leNat
    sdNeed (ascending xs && xs.all (fun i => decide (i < total))) 0x03 (inTable (16 * e.2))
    pure xs)
  sdNeed (lists.all (fun l => l.all (fun i => decide ((lists.filter (fun m => m.contains i)).length ≤ 4)))) 0x03 (inTable 0)
  pure lists

/-- The checks of R370 on a launch record, in its order, and the launch they admit. (DESIGN CHOICE, assumption log 43) (DEDUCED, assumption log 55) -/
def State.sdLaunch (s : State) (p : Packet) (va field : Nat) (graph : Option Graph) : Sd Launch := do
  let q := s.queue p.queue
  let r ← s.sdRead p.asid va 192 field
  let n := fun (o k : Nat) => numAt r o k
  let shape := n 8 4
  match recReserved r with
  | some off => sdFail 0x01 off
  | none => pure ()
  sdNeed (!flagOf shape 22 || q.maint) 0x06 0x08
  let k ← s.sdRead p.asid (n 0 8) 64 0x00
  let _ ← s.sdRead p.asid (n 0x18 8) 1 0x18
  let _ ← if n 0x30 8 = 0 then pure [] else s.sdRead p.asid (n 0x30 8) 64 0x30
  let _ ← if n 0x40 4 = 0 then pure [] else s.sdRead p.asid (n 0x38 8) (16 * min 256 (n 0x40 4)) 0x38
  let capBs ← if n 0x48 8 = 0 then pure [] else s.sdRead p.asid (n 0x48 8) 2048 0x48
  let schedVa := if n 0x50 8 = 0 then numAt k 0x30 8 else n 0x50 8
  let sched ← if schedVa = 0 then pure (.ok []) else s.sdSched p.asid schedVa 0x50
  let dbg ← if n 0x58 8 = 0 then pure [] else s.sdRead p.asid (n 0x58 8) 80 0x58
  let _ ← s.sdRead p.asid (n 0x60 8) 64 0x60
  let _ ← if n 0x78 8 = 0 then pure [] else s.sdRead p.asid (n 0x78 8) 256 0x78
  let args := n 0x80 8
  let _ ← s.sdRead p.asid args (n 0x14 4) 0x80
  match kobjFault k with
  | some off => sdFail 0x03 (inTable off)
  | none => pure ()
  match recRange r with
  | some off => sdFail 0x03 off
  | none => pure ()
  sdNeed (shapeCovers shape (numAt k 4 4)) 0x03 0x08
  sdNeed (decide (numAt k 8 4 ≤ n 0xC 4)) 0x03 0x0C
  sdNeed (decide (numAt k 0xC 4 ≤ n 0x10 4)) 0x03 0x10
  sdNeed (decide (numAt k 0x10 2 ≤ n 0x40 4)) 0x03 0x40
  sdNeed (decide (n 0x14 4 ≤ n 0x10 4)) 0x03 0x14
  let total := n 0x20 4 * n 0x24 4 * n 0x28 4
  let groups ← if n 0x40 4 = 0 then pure [] else s.sdGroups p.asid (n 0x38 8) (n 0x40 4) total
  let caps := (entriesOf 32 capBs).map capOf
  match capFault caps with
  | some off => sdFail 0x03 (inTable off)
  | none => pure ()
  let x : PackShape := { gangs := shapeGangs shape, slices := shapeSlices shape, regs := shapeRegs shape, acc := shapeAcc shape, scratch := n 0xC 4 }
  let bars := shapeBars (numAt k 4 4)
  let entries ← match sched with
    | .error off => sdFail 0x03 (inTable off)
    | .ok es => match es.zipIdx.findSome? (fun e => (schedFault e.1 x.scratch (n 0x2C 4) bars total (flagOf shape 11)).map (fun off => 16 + 48 * e.2 + off)) with
      | some off => sdFail 0x03 (inTable off)
      | none => pure es
  match (if dbg = [] then none else debugFault dbg) with
  | some off => sdFail 0x03 (inTable off)
  | none => pure ()
  sdNeed (decide (1 ≤ x.perCore)) 0x02 (if 917504 < x.scratch then 0x0C else 0x08)
  sdNeed (groups.all (fun g => decide (g.length ≤ 160 * x.perCore))) 0x02 0x38
  sdNeed (decide (csaNeed x (min total (160 * x.perCore)) ((graph.map (fun g => g.nodes.length)).getD 0) ≤ n 0x68 8)) 0x02 0x68
  pure { here := true, queue := p.queue, index := p.index, gen := p.gen, tag := p.tag, asid := p.asid, record := va, text := numAt k 0x18 8, entry := numAt k 0x18 8 + numAt k 0x20 8,
         regs := x.regs, gangs := x.gangs, slices := x.slices, acc := x.acc, prio := min (bitsOf shape 20 16) q.prio, bars := bars, cset := flagOf shape 11, maint := flagOf shape 22,
         scratch := x.scratch, lanepriv := n 0x10 4, argsAt := args, arglen := n 0x14 4, lparea := n 0x18 8, gx := n 0x20 4, gy := n 0x24 4, gz := n 0x28 4, arrvBase := n 0x2C 4,
         handler := n 0x30 8, groups := groups, mcslots := n 0x44 4 % 16, caps := caps, sched := entries.map schedOf, debugAt := n 0x58 8, debug := if dbg = [] then none else debugOf dbg (n 0x58 8),
         csa := n 0x60 8, csalen := n 0x68 8, errrec := n 0x78 8, next := n 0x70 4, graph := graph }

/-- The number a launch takes: one that DSPALLOC has promised to its record, or the next (R361). -/
def State.launchNo (s : State) (asid record : Nat) : Nat :=
  ((s.sun.names.find? (fun e => decide (e.2.1 = asid) && decide (e.2.2.1 = record) && !e.2.2.2)).map (fun e => e.1)).getD s.sun.nextLaunch

/-- A checked launch begins: it takes its number, and its packs may be dispatched. A grid without packs to dispatch has started at once. -/
def State.beginLaunch (s : State) (p : Packet) (l : Launch) : List Act :=
  let no := s.launchNo p.asid l.record
  let names := if s.sun.names.any (fun e => decide (e.1 = no)) then s.sun.names.map (fun e => if e.1 = no then (no, e.2.1, e.2.2.1, true) else e) else s.sun.names ++ [(no, p.asid, l.record, true)]
  s.chain [fun s => [.sun { s.sun with launches := Sparse.set {} s.sun.launches no l, names := names, nextLaunch := max s.sun.nextLaunch (no + 1) }, .active (p.active (.launch no))],
    fun s => if l.total ≤ l.next then s.startActs p.queue p.index else []]

/-- LAUNCH's body (R367, R370). -/
def launchBody : Body := bodyOf (fun p s => do
  sdNeed (decide (p.num 0x10 8 % 64 = 0)) 0x01 0x10
  let l ← s.sdLaunch p (p.num 0x10 8) 0x10 none
  pure (fun s => s.beginLaunch p l))
/-- LAUNCH (R370). Checks a launch record; an accepted launch's packs are then dispatched (PACK_DISPATCH), a refused one completes with its code. -/
def execLaunch (queue index : Nat) (s : State) : Host.Outcome State Fault Refusal := s.packet queue index .launch false launchBody

/-! ### Graphs (R374 to R376) -/

/-- One round of longest paths: a node is one deeper than its deepest predecessor. -/
def deeper (succ : List Nat) (d : List Nat) : List Nat :=
  (List.range succ.length).map (fun j => (List.range succ.length).foldl (fun m i => if flagOf (succ.getD i 0) j then max m (d.getD i 0 + 1) else m) 0)
/-- Depths after n rounds. -/
def depths (succ : List Nat) : Nat → List Nat
  | 0 => succ.map (fun _ => 0)
  | n + 1 => deeper succ (depths succ n)
/-- The successor relation has no cycle: depths settle within as many rounds as there are nodes. -/
def acyclic (succ : List Nat) : Bool := decide (depths succ (succ.length + 1) = depths succ succ.length)

/-- Key of a graph object in the seal counters. -/
def sealKey (asid va : Nat) : Nat := asid * 2 ^ 57 + va
/-- A version has a running instance. -/
def State.graphRuns (s : State) (g : Graph) : Bool :=
  s.launches.any (fun e => match e.2.graph with
    | some x => decide (x.asid = g.asid) && decide (x.va = g.va) && decide (x.version = g.version)
    | none => false)

/-- The nodes of a kernel object (R368). -/
def nodesOf (text : Nat) (bs : List Byte) (succ : List Nat) : List Node :=
  let ds := depths succ succ.length
  (entriesOf 16 bs).zipIdx.map (fun e => { entry := text + numAt e.1 0 8, words := numAt e.1 8 4, timer := numAt e.1 12 4, succ := succ.getD e.2 0, depth := ds.getD e.2 0 })

/-- GRAPH SEAL's body (R375): the checks, the store of 256 versions, and VERSION. (DESIGN CHOICE, assumption log 43) -/
def sealBody : Body := bodyOf (fun p s => do
  let va := p.num 0x18 8
  let h ← s.sdRead p.asid va 32 0x18
  let n := numAt h 0 4
  sdNeed (decide (numAt h 4 4 = 0)) 0x03 (inTable 0x04)
  sdNeed (decide (numAt h 0x18 8 = 0)) 0x03 (inTable 0x18)
  sdNeed (decide (1 ≤ n) && decide (n ≤ 64)) 0x03 (inTable 0)
  let masks ← s.sdRead p.asid (va + 32) (8 * n) 0x18
  let succ := (entriesOf 8 masks).map leNat
  match succ.zipIdx.find? (fun m => decide (2 ^ n ≤ m.1)) with
  | some m => sdFail 0x03 (inTable (0x20 + 8 * m.2))
  | none => pure ()
  sdNeed (acyclic succ) 0x03 (inTable 0x20)
  let k ← s.sdRead p.asid (numAt h 8 8) 64 0x18
  match kobjFault k with
  | some off => sdFail 0x03 (inTable off)
  | none => pure ()
  sdNeed (decide (numAt k 4 4 % 8 ≠ 7)) 0x03 (inTable 4)
  sdNeed (decide (numAt k 0x13 1 = n)) 0x03 (inTable 0x13)
  let ns ← s.sdRead p.asid (numAt k 0x28 8) (16 * n) 0x18
  let full := decide (256 ≤ s.sun.graphs.length)
  let out := s.sun.graphs.find? (fun g => !s.graphRuns g)
  sdNeed (!full || out.isSome) 0x0A 0
  let ver := Sparse.get 0 s.sun.seals (sealKey p.asid va) + 1
  let g : Graph := { asid := p.asid, va := va, version := ver, nodes := nodesOf (numAt k 0x18 8) ns succ, kernel := kernelOf k }
  match s.sunWrite (some p.asid) (va + 0x10) (leBytes 8 ver) with
  | .wait v => fun _ => .error (.wait v)
  | .bad ns => fun _ => .error (.code 0x05 0x18 ns)
  | .ok _ _ =>
    pure (fun s => s.chain
      [fun s => [.sun { s.sun with graphs := (if full then s.sun.graphs.filter (fun x => decide (some x ≠ out)) else s.sun.graphs) ++ [g], seals := Sparse.set 0 s.sun.seals (sealKey p.asid va) ver }],
       fun s => (s.sunWrite (some p.asid) (va + 0x10) (leBytes 8 ver)).acts,
       fun s => s.completeNow p 0 0]))
/-- GRAPH_SEAL (R375). Checks a graph object and copies it into the graph store as its next version. -/
def execGraphSeal (queue index : Nat) (s : State) : Host.Outcome State Fault Refusal := s.packet queue index .graphSeal true sealBody

/-- Free 64 KiB blocks of a die scratchpad for the bins of an instance (R76, R187): 256 records for each node. -/
def State.binBlocks (s : State) (g : Graph) (die : Nat) : Option (List Nat) :=
  let need := ((g.nodes.map (fun n => 1024 * n.words)).foldl (fun a b => a + b) 0 + 65535) / 65536
  let free := ((List.range 512).map (fun b => die * 512 + b)).filter (fun b => decide (Sparse.get 0 s.maps.blocks b = 0))
  if free.length < need then none else some (free.take need)

/-- GRAPH LAUNCH's body (R376). -/
def graphBody : Body := bodyOf (fun p s => do
  let va := p.num 0x18 8
  let ver := p.num 0x20 8
  match s.sun.graphs.find? (fun g => decide (g.asid = p.asid) && decide (g.va = va) && decide (g.version = ver)) with
  | none => sdFail 0x08 ver
  | some g =>
    let l ← s.sdLaunch p (p.num 0x28 8) 0x28 (some g)
    match (List.range 4).mapM (s.binBlocks g) with
    | none => sdFail 0x0A 0
    | some bs =>
      let blocks := bs.flatten
      pure (fun s => s.chain
        [fun s => [.maps { s.maps with blocks := blocks.foldl (fun m b => Sparse.set 0 m b 1) s.maps.blocks }],
         fun s => s.beginLaunch p { l with blocks := blocks }]))
/-- GRAPH_LAUNCH (R376). Creates an instance of a sealed version with its own bins and dispatches its grid. -/
def execGraphLaunch (queue index : Nat) (s : State) : Host.Outcome State Fault Refusal := s.packet queue index .graphLaunch false graphBody

/-! ### Completion (R373) -/

/-- The outstanding requests of a launch. -/
def State.launchReqs (s : State) (no : Nat) : List (Nat × Req) := s.reqs.filter (fun e => decide ((s.packOf e.2.slice).launch = no) && e.2.of e.2.slice)
/-- The copies and bulk operations of a launch have completed; those of packs that stay saved away in a dead launch never do. -/
def State.copiesDone (s : State) (no : Nat) (dead : Bool) : Bool :=
  s.jobs.all (fun j => decide ((s.pack j.pack).launch ≠ no))
    && s.fab.bulk.all (fun b => decide ((s.pack b.pack).launch ≠ no) || decide (b.pack = 0) || (dead && (s.pack b.pack).saved))
    && (dead || (s.packsOf no).all (fun e => decide ((Sparse.get {} s.sun.saves e.1).jobs = [])))
/-- A launch has a fatal trap (R98). -/
def State.fatalOf (s : State) (no : Nat) : Option Nat := (s.ctl.fatal.find? (fun f => decide (f.1 = no))).map (fun f => f.2)

/-- LAUNCH_COMPLETE can act: with every pack dispatched and exited, bins empty, copies done and every write performed; or, after a fatal trap or a bad digest, when the resident packs have stopped. -/
def State.launchOver (s : State) (no : Nat) : Bool :=
  let l := s.launch no
  let dead := (s.fatalOf no).isSome || l.broken.isSome
  l.here && s.copiesDone no dead
    && (if dead then (s.launchReqs no).all (fun e => decide (e.2.state = .parked) || (match e.2.kind with
          | .ldfe _ => true
          | _ => false)) && s.mmas.all (fun m => decide ((s.pack (m.2.gang / 128)).launch ≠ no) || (s.pack (m.2.gang / 128)).saved)
        else decide (l.total ≤ l.next) && (s.packsOf no).isEmpty && (s.launchReqs no).isEmpty && s.sun.bins.all (fun b => decide (b.1 / 256 ≠ no) || decide (b.2.recs = [])))

/-- The error record of a launch (R373): its first trapping slice's name, SID, LANE and trap registers, the TAG and the queue. -/
def State.errorRecord (s : State) (no sl : Nat) : List Byte :=
  let x := s.slice sl
  let l := s.launch no
  let lane := (maskLanes (x.traplanes.setWidth 4)).headD 0
  (leBytes 8 (s.nameOf sl).toNat ++ leBytes 4 x.sid ++ leBytes 4 lane ++ leBytes 4 x.trapcause.toNat ++ leBytes 4 x.trappc.toNat ++ leBytes 8 x.trapaddr.toNat ++ leBytes 8 x.traplanes.toNat
    ++ leBytes 4 l.tag ++ leBytes 4 l.queue) ++ List.replicate 208 0

/-- Everything of a launch leaves the device. -/
def State.endLaunch (s : State) (no : Nat) : List Act :=
  let l := s.launch no
  s.chain
    [fun s => (s.launchReqs no).map (fun e => .setReq e.1 none),
     fun s => (s.packsOf no).flatMap (fun e => (s.slicesOf e.1).flatMap (fun sl => [.slice sl (.status .exited), .slice sl (.holds [])]) ++ [.vacate e.1] ++ (if e.2.here then [.endPack e.1] else [])),
     fun s => (s.packsOf no).map (fun e => .pack e.1 { s.pack e.1 with saved := false }),
     fun s => [.fab { s.fab with bulk := s.fab.bulk.filter (fun b => decide (b.pack = 0) || decide ((s.pack b.pack).launch ≠ no)), redirect := s.fab.redirect.filter (fun p => decide ((s.pack p).launch ≠ no)), saved := s.fab.saved.filter (fun e => decide ((s.pack e.1).launch ≠ no)) }]
        ++ (s.mmas.filter (fun m => decide ((s.pack (m.2.gang / 128)).launch = no))).map (fun m => .setMma m.1 none),
     fun s => [.maps { s.maps with blocks := l.blocks.foldl (fun m b => Sparse.set 0 m b 0) s.maps.blocks },
               .sun { s.sun with launches := Sparse.set {} s.sun.launches no {}, bins := s.sun.bins.filter (fun b => decide (b.1 / 256 ≠ no)), saves := s.sun.saves.filter (fun e => decide ((s.pack e.1).launch ≠ no)) }],
     fun s => s.descActs l.queue]

/-- LAUNCH_COMPLETE (R373). The launch's packs have exited, its copies and bulk operations completed and its writes been performed; or it ends with CODE 0x04 after a fatal trap, or with CODE 0x0B. -/
def execLaunchComplete (launch : Nat) (s : State) : Host.Outcome State Fault Refusal :=
  if !s.launchOver launch then event s []
  else
    let l := s.launch launch
    match s.sun.active.find? (fun a => decide (a.work = .launch launch)) with
    | none => event s (s.endLaunch launch)
    | some a =>
      if !s.cstReady a.asid a.cst then event s []
      else
        match s.fatalOf launch, l.broken with
        | some sl, _ =>
          let core := s.coreOf sl
          event s (s.chain
            [fun s => if l.errrec = 0 then [] else (s.sunWrite (some l.asid) l.errrec (s.errorRecord launch sl)).acts,
             fun s => s.endLaunch launch, fun s => s.complete a 0x04 core])
        | none, some i => event s (s.chain [fun s => s.endLaunch launch, fun s => s.complete a 0x0B i])
        | none, none => event s (s.chain [fun s => s.endLaunch launch, fun s => s.complete a 0 0])

end Sys2Proof.Machine
end

