-- ==== Sys2Proof/Machine/Preempt.lean ====
section
/-! DEFINITION. Pre-emption (14_queues R377 to R381, 03_control R87, 04_system R99, 11_matrix R277, 12_copy R304, 13_remote R332, R336, R342): stopping a launch, saving its packs into its context save area, and restoring them. -/
namespace Sys2Proof.Machine

/-! ### Room for a launch -/

/-- The state without some packs, for asking what would fit. -/
def State.without (s : State) (gone : Nat × Pack → Bool) : State :=
  { s with ctl := { s.ctl with packs := s.ctl.packs.map (fun e => if gone e then (e.1, { e.2 with here := false, saved := false }) else e) } }

/-- The saved packs that are restored with a pack (R379): its group and cluster-set partners that are saved too; a spawned gang comes alone. -/
def State.restoreUnit (s : State) (p : Nat) : List Nat :=
  let k := s.pack p
  let l := s.launch k.launch
  if k.spawned.isSome then [p]
  else
    let xs := l.close (l.groups.length + 1) [k.index]
    ((s.packsOf k.launch).filter (fun e => e.2.saved && e.2.spawned.isNone && xs.contains e.2.index)).map (fun e => e.1)

/-- The pieces of a unit: the members of one cluster set, or one pack. -/
def State.restorePieces (s : State) (ps : List Nat) : List (List Nat) :=
  ((ps.map (fun p => (s.pack p).cluster.elim (2 ^ 40 + p) (fun c => c))).eraseDups).map (fun c => ps.filter (fun p => decide ((s.pack p).cluster.elim (2 ^ 40 + p) (fun c => c) = c)))

/-- Where a piece placed at a core goes: the packs of a cluster set keep their positions in the cluster (R185). -/
def State.pieceHomes (s : State) (core : Nat) (ps : List Nat) : List (Nat × Nat) :=
  ps.map (fun p => (p, if (s.pack p).cluster.isSome then core / 8 * 8 + (s.pack p).place else core))

/-- Save-area entries of a pack that would be parked at once on restoration (R342): all but the oldest for each register that is armed. -/
def State.parkedParts (s : State) (p : Nat) : List PartMsg :=
  ((Sparse.get [] s.fab.saved p).foldl (fun (acc : List (Nat × Nat) × List PartMsg) m =>
    if (s.slice m.slice).holds.any (fun h => decide (h.reg = m.reg)) ∧ !acc.1.contains (m.slice, m.reg) then ((m.slice, m.reg) :: acc.1, acc.2) else (acc.1, acc.2 ++ [m])) ([], [])).2

/-- The split-table entries that a saved pack takes on each quadrant. -/
def State.savedEntries (s : State) (p : Nat) : List Nat :=
  (List.range 4).map (fun q => ((Sparse.get {} s.sun.saves p).splits.filter (fun x => decide ((s.gang x.gang).quad % 4 = q))).length)

/-- The shape of a saved pack with the gangs it has now (R379), its splits, and its parts for the inbox (R342). -/
def State.nowShape (s : State) (p : Nat) : PackShape :=
  { (s.pack p).shape with entries := s.savedEntries p, parked := (s.parkedParts p).length, now := (List.range 4).map (fun q =>
      (((s.slicesOf p).filter (fun x => !(s.slice x).gone && decide ((s.gang (s.gangKey x)).quad % 4 = q))).map s.gangKey).eraseDups.length) }

/-- A saved pack can be restored to a core (R15, R336, R342): room beside some others, free split-table entries for its splits, inbox room, and its original slot when it has no redirect entry. -/
def State.restoreFits (s : State) (extra : List (Nat × PackShape)) (p core : Nat) : Bool :=
  let k := s.pack p
  let near := (extra.filter (fun e => decide (e.1 = core))).map (fun e => e.2)
  let sum := fun (f : PackShape → Nat) => (near.map f).foldl (fun a b => a + b) 0
  (s.without (fun e => decide (e.1 = p))).coreRoom extra core (s.nowShape p)
    && (s.fab.redirect.contains p || decide (core = k.core0))
    && (List.range 4).all (fun q => decide ((s.savedEntries p).getD q 0 + sum (fun x => x.entries.getD q 0) ≤ (s.freeEntries (core * 4 + q)).length))
    && decide ((s.inbox core).length + (s.parkedParts p).length + sum (fun x => x.parked) ≤ 64)

/-- Place pieces one after another, the first on one of the cores named. -/
def State.restorePlaces (s : State) : Nat → List Nat → List (Nat × PackShape) → List (List Nat) → Option (List (Nat × Nat))
  | _, _, _, [] => some []
  | k, cores, extra, ps :: rest =>
    let ok := cores.filter (fun c => (s.pieceHomes c ps).all (fun e => s.restoreFits extra e.1 e.2))
    match ok[s.pick k ok.length]? with
    | none => none
    | some c =>
      let here := s.pieceHomes c ps
      (State.restorePlaces s (k + 1) (List.range 160) (extra ++ here.map (fun e => (e.2, s.nowShape e.1))) rest).map (fun l => here ++ l)

/-- The places of a saved pack and its partners, the pack itself on a core. -/
def State.restorePlan (s : State) (p : Nat) (cores : List Nat) : Option (List (Nat × Nat)) :=
  let us := s.restorePieces (s.restoreUnit p)
  s.restorePlaces 0 cores [] (us.filter (fun x => x.contains p) ++ us.filter (fun x => !x.contains p))

/-- The next packs of a launch, saved or not yet dispatched, fit somewhere. -/
def State.roomFor (s : State) (no : Nat) : Bool :=
  match (s.packsOf no).filter (fun e => e.2.saved) with
  | [] => (s.placeNext (s.launch no) (List.range 160)).isSome
  | ps => ps.any (fun e => (s.restorePlan e.1 (List.range 160)).isSome)
/-- A launch waits for room: nothing stops it, and its next packs fit nowhere. -/
def State.waitsForRoom (s : State) (no : Nat) : Bool := s.hungry no && (s.launch no).stop.isNone && !s.roomFor no

/-! ### Who is pre-empted (R377) -/

/-- Launches with resident packs. -/
def State.residents (s : State) : List (Nat × Launch) := s.launches.filter (fun e => s.ctl.packs.any (fun p => p.2.here && decide (p.2.launch = e.1)))

/-- The launches a waiting launch pre-empts: of lower effective priority, lowest first, until it fits when those already stopped have gone. -/
def State.victimsOf (s : State) (w : Nat) : List Nat :=
  let prio := (s.launch w).prio
  let hard := decide (prio = 31)
  let stopped := fun (l : Launch) => if hard then l.hard else l.stop.isSome
  let lower := s.residents.filter (fun e => decide (e.2.prio < prio) && (s.fatalOf e.1).isNone)
  let after := s.without (fun e => lower.any (fun x => decide (x.1 = e.2.launch) && stopped x.2))
  if after.roomFor w then []
  else
    let left := lower.filter (fun e => !stopped e.2)
    (left.filter (fun e => left.all (fun x => decide (e.2.prio ≤ x.2.prio)))).map (fun e => e.1)

/-- Launches that pre-emption by priority stops now, hard or by drain. -/
def State.victims (s : State) (hard : Bool) : List Nat :=
  (((s.launches.filter (fun e => s.waitsForRoom e.1 && decide (hard = decide (e.2.prio = 31)))).map (fun e => s.victimsOf e.1)).flatten).eraseDups

/-- NEXTPACK is written into the launch record (R378). (DESIGN CHOICE, assumption log 64) -/
def State.nextpackActs (s : State) (no : Nat) : List Act :=
  let l := s.launch no
  (s.sunWrite (some l.asid) (l.record + 0x70) (leBytes 4 l.next)).acts

/-- A launch's dispatch stops (R378, R379). -/
def State.stopActs (s : State) (no : Nat) (hard cmd : Bool) : List Act :=
  s.chain
    [fun s => [.launch no { s.launch no with want := none, stop := some { hard := hard, cmd := cmd } }],
     fun s => s.nextpackActs no, fun s => s.descActs (s.launch no).queue,
     fun s => if hard then ((s.packsOf no).filter (fun e => e.2.here)).map (fun e => .pack e.1 { e.2 with freeze := true }) else []]

/-- DRAIN_PREEMPTION can act on a launch. (DEDUCED, assumption log 70) -/
def State.drainDue (s : State) (no : Nat) : Bool :=
  (s.launch no).here && (s.fatalOf no).isNone && (decide ((s.launch no).want = some false) || ((s.launch no).want.isNone && (s.launch no).stop.isNone && (s.victims false).contains no))

/-- DRAIN_PREEMPTION (R378). Dispatch of the launch stops and NEXTPACK is written; its resident packs and bins run on. (DEDUCED, assumption log 70) -/
def execDrainPreemption (launch : Nat) (s : State) : Host.Outcome State Fault Refusal :=
  if !s.drainDue launch then event s []
  else
    let l := s.launch launch
    if l.hard then event s [.launch launch { l with want := none }]
    else event s (s.stopActs launch false (decide (l.want = some false)))

/-! ### Saving (R379 to R381) -/

/-- The engine of a quadrant runs an MMA of a pack whose block has begun: the MMA ends that block first (R277). -/
def State.midBlock (s : State) (p q : Nat) : Bool :=
  match (s.engine q).running with
  | none => false
  | some id => (s.mma? id).any (fun m => decide (m.gang / 128 = p) && !s.drainsBefore id m)

/-- Nothing of a pack is on its way (R277, R304, R332): no access but those parked, waiting for a full word, held in a window or not yet formed, no chunk, no packet, no block of an MMA. -/
def State.packStill (s : State) (p : Nat) : Bool :=
  s.reqs.all (fun e => decide (packKey e.2.slice ≠ p) || decide (e.2.state = .parked) || decide (e.2.state = .forming) || e.2.window || decide (e.2.tier = 6) || (match e.2.kind with
      | .ldfe _ => true
      | .message => true
      | _ => false))
    && s.jobs.all (fun j => decide (j.pack ≠ p) || j.flight.isEmpty)
    && s.fab.bulk.all (fun b => decide (b.pack ≠ p) || b.pkts.isEmpty)
    && (List.range 4).all (fun q => !s.midBlock p ((s.pack p).core * 4 + q))

/-- No packet but launches and those that only wait is being executed. -/
def State.packetsStill (s : State) : Bool :=
  s.sun.active.all (fun a => match a.work with
    | .launch _ => true
    | .wait _ _ _ _ _ => true
    | .barrier _ => true
    | _ => false)

/-- The bytes of a pack's section: its share of the minimum CSALEN (R381), in whole lines. -/
def Pack.sectionLen (k : Pack) : Nat :=
  (90112 + k.ngang * (128 * k.regs + 32768 * k.tiles) + 512 * k.ngang * k.nsl + k.scratch * 33 / 32) / 64 * 64

/-- Where the sections of a launch's save area begin (R380). -/
def Launch.sections (l : Launch) : Nat := l.csa + 0x1040 + 65536 * ((l.graph.map (fun g => g.nodes.length)).getD 0)

/-- The VA of each pack's section: the lowest place from a base on beside the sections already there. -/
def placeSections : Nat → List (Nat × Nat) → List (Nat × Pack) → List (Nat × Nat × Nat)
  | _, _, [] => []
  | base, there, e :: rest =>
    let n := e.2.sectionLen
    let fits := fun (a : Nat) => decide (base ≤ a) && there.all (fun x => decide (a + n ≤ x.1) || decide (x.1 + x.2 ≤ a))
    let va := (((base :: there.map (fun x => x.1 + x.2)).filter fits).min?).getD base
    (e.1, va, n) :: placeSections base ((va, n) :: there) rest

/-- The sections of a launch's packs that are saved already. -/
def State.oldSections (s : State) (no : Nat) : List (Nat × Nat) :=
  ((s.packsOf no).filter (fun e => e.2.saved)).map (fun e => ((Sparse.get {} s.sun.saves e.1).va, (Sparse.get {} s.sun.saves e.1).len))

/-- The LAYOUT the firmware in charge writes (R380, R383): this generation's, or WRITELAYOUT of an image that FWSTAGE brought. -/
def State.layout (s : State) : Nat :=
  match Sparse.get [] s.dev.images s.dev.fw with
  | [] => 7
  | im => numAt im 24 4

/-- The header of a save area (R380). -/
def Launch.header (l : Launch) (layout no packs used : Nat) : List Byte :=
  leBytes 4 layout ++ leBytes 4 (bit (decide (0 < packs)) + 2 * bit l.graph.isSome) ++ leBytes 4 no ++ leBytes 4 packs ++ leBytes 8 used ++ leBytes 8 l.record ++ leBytes 4 l.next ++ List.replicate 28 0

/-- A section (R381): name, linear index, length and redirect entry, digest, and a body whose bytes belong to the firmware. (DESIGN CHOICE, assumption log 45) -/
def State.sectionBytes (s : State) (k : Pack) (redirect : Bool) : List Byte :=
  let body := (List.range (k.sectionLen - 64)).map (fun i => Config.undefByte s.run.draws i)
  let name := s.devNo * 2 ^ 52 + k.core0 * 2 ^ 44 + k.slot0 * 2 ^ 40 + k.gen * 2 ^ 12
  leBytes 8 name ++ leBytes 4 k.index ++ leBytes 4 (k.sectionLen / 64 + bit redirect * 2 ^ 20) ++ leBytes 48 (Config.sha384 body).toNat ++ body

/-- A split of a pack as it is saved. -/
def State.savedSplits (s : State) (p : Nat) : List Split :=
  (s.ctl.splits.filter (fun e => decide (e.1 / 256 = (s.pack p).core))).filterMap (fun e =>
    let mine := fun (l : List Nat) => l.filter (fun x => decide (packKey x = p))
    let held := (e.2.held.map (fun h => { h with slices := mine h.slices })).filter (fun h => !h.slices.isEmpty)
    match mine e.2.slices, held with
    | [], [] => none
    | [], h :: hs => some { e.2 with slices := h.slices, held := hs, gang := s.gangKey (h.slices.headD 0), promoted := false }
    | x :: xs, hs => some { e.2 with slices := x :: xs, held := hs, gang := s.gangKey x, promoted := false })

/-- An engine without the MMAs of a pack (R277). -/
def State.clearEngine (s : State) (p q : Nat) : List Act :=
  let e := s.engine q
  let mine := fun (id : Nat) => match s.mma? id with
    | some m => decide (m.gang / 128 = p)
    | none => false
  let run := (e.running.map mine).getD false
  if !run && !e.queue.any mine then []
  else
    s.chain [fun _ => [.engine q { e with queue := e.queue.filter (fun id => !mine id) }],
      fun s => if run || e.running.isNone then s.engineFree q else []]

/-- A queue without the copies of a pack (R304). -/
def CQueue.without (q : CQueue) (p : Nat) : CQueue :=
  { q with jobs := q.jobs.filter (fun j => decide (j.pack ≠ p)), park := q.park && !((q.jobs.head?.map (fun j => decide (j.pack = p))).getD false) }

/-- FENCE.SP windows of a pack roll back to their fences, and the stores they hold are discarded (R230). -/
def State.saveWindows (s : State) (p : Nat) : List Act :=
  s.ctl.windows.flatMap (fun e => match e.2 with
    | some w => if packKey w.key = p then
        (s.reqs.filter (fun r => r.2.window && w.slices.contains r.2.slice)).map (fun r => .setReq r.1 none) ++ [.rollback w true, .window e.1 none] else []
    | none => [])

/-- MDRAINs of a pack that have begun start again as a whole after restoration (R277, R284). -/
def State.saveDrains (s : State) (p : Nat) : List Act :=
  let mine := s.mat.drains.filter (fun d => decide (d.gang / 128 = p) && d.going)
  if mine = [] then []
  else mine.flatMap (fun d => (s.formedOf d).map (fun e => .setReq e.1 none) ++ s.drainParks d [d.dest])
    ++ [.drains (s.mat.drains.map (fun d => if d.gang / 128 = p then { d with going := false } else d)) s.mat.nextDrain]

/-- The waits of a slice as it is saved: one for space in a queue or bin issues again; an AWAIT.T keeps its remaining timeout (R259). -/
def State.saveWait (s : State) (sl : Nat) : List Act :=
  match (s.slice sl).status with
  | .copySpace _ _ => [.slice sl (.status .run)]
  | .spawnRoom _ _ => [.slice sl (.status .run)]
  | .await xs (some t) dst => [.slice sl (.status (.await xs (some (t - s.run.ac)) dst))]
  | _ => []

/-- A slice with an open transient window goes back to the oldest producer (R39); a broken span is remembered (R40). -/
def State.saveSpan (s : State) (sl : Nat) : List Act :=
  let x := s.slice sl
  match oldestTrans x with
  | none => []
  | some t =>
    let redo := if x.span.broken then some ({ pkt := t.pkt, word := t.word, hm := hmOf x.trapcause, left := t.dist, dsts := x.span.writes } : Redo) else x.redo
    [.slice sl (.replace { x with pc := t.pkt, word := t.word, trans := [], span := {}, spanNext := {}, redo := redo })]

/-- One pack is saved: a slice with an open transient window goes back to the oldest producer (R39); its section, its splits and copies, its engines, its parked parts, and its slot (R379). (DESIGN CHOICE, assumption log 45) -/
def State.savePack (s : State) (p va len : Nat) : List Act :=
  let k := s.pack p
  let entry := decide (s.fab.redirect.length < 4096)
  let queues := (List.range 16).map (fun q => (q, s.cqueue (queueKey k.core q)))
  s.chain
    ([fun s => (s.sunWrite (some k.asid) va (s.sectionBytes k entry)).acts ++ [.draw 1],
      fun s => s.saveWindows p, fun s => s.saveDrains p,
      fun s => (s.slicesOf p).flatMap s.saveWait,
      fun s => (s.slicesOf p).flatMap s.saveSpan]
      ++ (List.range 4).map (fun q s => s.clearEngine p (k.core * 4 + q))
      ++ [fun s => [.sun { s.sun with saves := Sparse.set {} s.sun.saves p {
              layout := s.layout,
              splits := s.savedSplits p,
              jobs := queues.flatMap (fun e => (e.2.jobs.filter (fun j => decide (j.pack = p))).map (fun j => (e.1, j))),
              fs := (List.range 8).map (fun i => Sparse.get 0 s.cpy.slots (slotKey k.core i)), va := va, len := len } }]
            ++ (queues.filter (fun e => e.2.jobs.any (fun j => decide (j.pack = p)))).map (fun e => .cqueue (queueKey k.core e.1) (e.2.without p)),
          fun _ => [.vacate p],
          fun s => [.fab { s.fab with
              inbox := Sparse.set [] s.fab.inbox k.core ((s.inbox k.core).filter (fun m => decide (packKey m.slice ≠ p))),
              saved := Sparse.set [] s.fab.saved p ((s.inbox k.core).filter (fun m => decide (packKey m.slice = p)) ++ Sparse.get [] s.fab.saved p),
              gens := Sparse.set 0 s.fab.gens (k.core * 16 + k.slot) ((Sparse.get 0 s.fab.gens (k.core * 16 + k.slot) + 1) % 2 ^ 24),
              redirect := if entry ∧ !s.fab.redirect.contains p then s.fab.redirect ++ [p] else s.fab.redirect }],
          fun s => [.pack p { s.pack p with here := false, saved := true, freeze := false }]])

/-- The save of a launch (R379, R380): header, arrival state of the groups, bins, and a section for each resident pack, beside those of packs that have not come back from an earlier save. (DESIGN CHOICE, assumption log 45) -/
def State.saveActs (s : State) (no : Nat) : List Act :=
  let l := s.launch no
  let ps := (s.packsOf no).filter (fun e => e.2.here)
  let old := s.oldSections no
  let secs := placeSections l.sections old ps
  let used := (l.sections - l.csa) + ((old.map (fun e => e.2)) ++ secs.map (fun e => e.2.2)).foldl (fun a b => a + b) 0
  let open_ := (l.sections - l.csa) - 0x40
  s.chain
    ([fun s => (s.sunWrite (some l.asid) l.csa (l.header s.layout no (old.length + ps.length) used)).acts,
      fun s => (s.sunWrite (some l.asid) (l.csa + 0x40) ((List.range open_).map (fun i => Config.undefByte s.run.draws i))).acts ++ [.draw 1]]
      ++ secs.map (fun e s => s.savePack e.1 e.2.1 e.2.2)
      ++ [fun s => s.nextpackActs no])

/-- Every page of a launch's save area can be written, or never could. -/
def State.csaReady (s : State) (no : Nat) : Bool :=
  let l := s.launch no
  (pagesOf l.csa (max l.csalen 1)).all (fun va => !(s.sunWrite (some l.asid) va [0]).waits)

/-- HARD_PREEMPTION can begin on a launch. -/
def State.hardDue (s : State) (no : Nat) : Bool :=
  (s.launch no).here && (s.fatalOf no).isNone && (decide ((s.launch no).want = some true) || ((s.launch no).want.isNone && !(s.launch no).hard && (s.victims true).contains no))
/-- HARD_PREEMPTION can save a launch's packs. -/
def State.saveDue (s : State) (no : Nat) : Bool :=
  let ps := (s.packsOf no).filter (fun e => e.2.here)
  (s.launch no).here && (s.launch no).hard && (s.fatalOf no).isNone && ps.any (fun e => e.2.freeze) && ps.all (fun e => s.packStill e.1) && s.packetsStill && s.csaReady no

/-- HARD_PREEMPTION (R379). The launch stops and its packs begin nothing more; when what is in flight has ended and other packets have completed, every resident pack is saved. -/
def execHardPreemption (launch : Nat) (s : State) : Host.Outcome State Fault Refusal :=
  let l := s.launch launch
  if s.hardDue launch then event s (s.stopActs launch true (decide (l.want = some true)))
  else if s.saveDue launch then event s (s.saveActs launch)
  else event s []

/-! ### Restoring (R379, R381) -/

/-- A section's bytes still have the digest of its header (R381); none while a page of it is on its way. -/
def State.sectionGood (s : State) (p : Nat) : Option Bool :=
  let sv := Sparse.get {} s.sun.saves p
  match s.sunRead (some (s.pack p).asid) sv.va sv.len with
  | .ok bs _ => some (decide (numAt bs 0x10 48 = (Config.sha384 (bs.drop 64)).toNat))
  | .wait _ => none
  | .bad _ => some false

/-- A saved copy goes behind the copies of its queue that have begun, and behind restored ones before it (R304). -/
def CQueue.insert (q : CQueue) (j : CopyJob) : CQueue :=
  let begun := q.jobs.takeWhile (fun x => decide (0 < x.next) || !x.flight.isEmpty || (x.kept && decide (x.pack = j.pack)))
  { q with jobs := begun ++ [{ j with kept := true }] ++ q.jobs.drop begun.length }

/-- A save-area entry as though it had just arrived (R342). -/
def State.replayPart (s : State) (m : PartMsg) : List Act := (s.deliverParts (packKey m.slice) [m]).2

/-- The live lanes of a slice hold one value in a register. -/
def State.lanesEqual (s : State) (sl r : Nat) : Bool :=
  let vals := (maskLanes (s.slice sl).live).map (fun l => s.file (laneKey sl l) r)
  vals.all (fun v => decide (v = vals.headD 0))

/-- One pack comes back on a core and slot; for each slice the hardware chooses whether the tags of registers with equal lanes are set (R125). -/
def State.restorePack (s : State) (p core slot : Nat) : List Act :=
  let k := s.pack p
  let sv := Sparse.get {} s.sun.saves p
  let old := s.core k.core
  let quadOf := fun (g : Nat) => core * 4 + (s.gang g).quad % 4
  let mine := s.mmas.filter (fun m => decide (m.2.gang / 128 = p))
  s.chain
    ([fun _ => [.pack p { k with here := true, saved := false, core := core, slot := slot }, .icacheDrop core, .raiseCk core old.ck, .raiseObsv core old.obsv]
        ++ (s.ctl.gangs.filter (fun e => decide (e.1 / 128 = p))).map (fun e => .gang e.1 { e.2 with quad := quadOf e.1 })
        ++ (s.slicesOf p).filterMap (fun sl => match (s.slice sl).status with
          | .meet mode m pkt _ => some (.slice sl (.status (.meet mode m pkt s.run.ac)))
          | .await xs (some t) dst => some (.slice sl (.status (.await xs (some (s.run.ac + t)) dst)))
          | _ => none)
        ++ [.drains (s.mat.drains.map (fun d => if d.gang / 128 = p then { d with core := core } else d)) s.mat.nextDrain]
        ++ s.reclaimActs core k.scratch]
      ++ sv.splits.map (fun sp s => match s.freeEntries (quadOf sp.gang) with
        | e :: _ => [.split e { sp with last := s.run.ac, yield := none, held := sp.held.map (fun h => { h with since := s.run.ac }) }]
        | [] => [])
      ++ mine.map (fun m s => .setMma m.1 (some { m.2 with quad := quadOf m.2.gang, core := core, since := s.run.ac })
          :: (if m.2.parked.isNone then [.engine (quadOf m.2.gang) { s.engine (quadOf m.2.gang) with queue := (s.engine (quadOf m.2.gang)).queue ++ [m.1] }] else []))
      ++ sv.jobs.map (fun e s => [.cqueue (queueKey core e.1) ((s.cqueue (queueKey core e.1)).insert e.2)])
      ++ [fun _ => if k.cluster.isSome then (List.range 8).map (fun i => .slots (slotKey core i) 15 (15 - min 15 (sv.fs.getD i 0))) else [],
          fun s => (s.reqs.filter (fun e => decide (packKey e.2.slice = p))).map (fun e => .setReq e.1 (some { e.2 with core := core })),
          fun s => [.fab { s.fab with saved := Sparse.set [] s.fab.saved p [], redirect := if core = k.core0 ∧ slot = k.slot0 then s.fab.redirect.filter (fun x => decide (x ≠ p)) else s.fab.redirect }]]
      ++ (Sparse.get [] s.fab.saved p).map (fun m s => s.replayPart m)
      ++ [fun s => (s.slicesOf p).zipIdx.flatMap (fun e => (List.range k.regs).map (fun r =>
            .untag e.1 r (!(s.lanesEqual e.1 r && decide (s.pick (64 + e.2) 2 = 1))))) ++ [.draw 192],
          fun s => [.sun { s.sun with saves := Sparse.set {} s.sun.saves p {} }]])

/-- The slot a partner takes: its original one where that is free, else the lowest. -/
def State.slotFor (s : State) (p core : Nat) : Nat :=
  let free := (s.without (fun e => decide (e.1 = p))).freeSlots core
  if core = (s.pack p).core0 ∧ free.contains (s.pack p).slot0 then (s.pack p).slot0 else free.headD 0

/-- PACK_RESTORE's places: the pack on the core and slot named, its partners where the hardware chooses. -/
def State.restoreNow (s : State) (p core slot : Nat) : Option (List (Nat × Nat)) :=
  let k := s.pack p
  if k.saved && s.mayDispatch k.launch && decide (core < 160) && (k.cluster.isNone || decide (core % 8 = k.place))
      && ((s.without (fun e => decide (e.1 = p))).freeSlots core).contains slot && (s.fab.redirect.contains p || decide (slot = k.slot0))
  then s.restorePlan p [core] else none

/-- PACK_RESTORE (R379, R381). A saved pack comes back with its saved partners; a section that fails its digest ends the launch with CODE 0x0B. -/
def execPackRestore (pack core slot : Nat) (s : State) : Host.Outcome State Fault Refusal :=
  match s.restoreNow pack core slot with
  | none => event s []
  | some ps =>
    let no := (s.pack pack).launch
    match ps.find? (fun e => s.sectionGood e.1 = none), ps.find? (fun e => s.sectionGood e.1 = some false) with
    | some _, _ => event s []
    | none, some e => event s [.launch no { s.launch no with broken := some (s.pack e.1).index }]
    | none, none =>
      event s (s.chain
        ((fun _ => [.draw 64]) :: (fun s => s.resumeLaunch no)
          :: ps.map (fun e s => s.restorePack e.1 e.2 (if e.1 = pack then slot else s.slotFor e.1 e.2))))

end Sys2Proof.Machine
end

