-- ==== Sys2Proof/Machine/System.lean ====
section
/-! DEFINITION. The SYS group (04_system R109 to R114): NOP, BKPT, YIELD, EXIT, TRAP, RTT, SRD, SWR, and the special registers (R91 to R94). -/
namespace Sys2Proof.Machine

/-- NOP (R109). Occupies the CTL pipe for one ac and has no effect. -/
def execNop (f : RF) (s : State) : Host.Outcome State Fault Refusal := issue (.nop f) s (fun _ _ _ => .ok [])

/-- BKPT and TRAP (R110): a trap with AFT = 1 in the lanes whose guard is true; a slice without one is unaffected. -/
def softTrap (i : Instr) (code : Nat) (s : State) : Host.Outcome State Fault Refusal :=
  issue i s (fun _ v sl =>
    match s.activeLanes sl v.pg with
    | [] => .ok []
    | ls => .error { code := code, info := v.b, lanes := laneMask ls, aft := true })

/-- BKPT (R110). Raises a breakpoint debug event with tag k in the guarded lanes; the resume point is the next instruction. -/
def execBkpt (f : RF) (s : State) : Host.Outcome State Fault Refusal := softTrap (.bkpt f) 0x09 s
/-- TRAP (R110). Raises a software trap with code k in the guarded lanes; the resume point is the next instruction. -/
def execTrap (f : RF) (s : State) : Host.Outcome State Fault Refusal := softTrap (.trap f) 0x08 s

/-- YIELD (R111). Completes at once; its split then gives way to other ready splits for 16 ac. -/
def execYield (f : RF) (s : State) : Host.Outcome State Fault Refusal :=
  issueAll (.yield f) s (fun c v =>
    sliceEffs c v (fun _ => .ok [])
      ++ (if c.slices.any (fun sl => s.activeLanes sl v.pg ≠ []) then [(none, .split c.entry { s.split c.entry with yield := some (s.run.ac + 16) })] else []))

/-- What leaves the machine with a slice (R112): its holds, its outstanding loads, and, with the pack's last slice, the pack's place on its core; its stores go on. (DEDUCED, assumption log 41) -/
def State.exitActs (s : State) (sl : Nat) : List Act :=
  [.slice sl (.status .exited), .slice sl (.holds [])]
    ++ (s.reqs.filter (fun r => decide (r.2.slice = sl) && (match r.2.kind with
      | .load _ _ => true
      | .prefetch _ => true
      | .ldfe _ => true
      | _ => false))).map (fun r => .setReq r.1 none)

/-- EXIT (R112). Ends each slice that has a guarded live lane; the meets of its pack are tested again (R57). -/
def execExit (f : RF) (s : State) : Host.Outcome State Fault Refusal :=
  issueAll (.exit f) s (fun c v =>
    sliceEffs c v (fun sl => .ok (if s.activeLanes sl v.pg = [] then [] else s.exitActs sl))
      ++ [(none, .settle)] ++ ((c.slices.map packKey).eraseDups.map (fun p => (none, Act.meets p false)))
      ++ ((c.slices.map packKey).eraseDups.map (fun p => (none, Act.packEnd p))))

/-- Single-step without a debugger (R104, R107): the slices of the pack trap after each group. -/
def Pack.steps (p : Pack) : Bool := match p.debug with
  | some d => d.step && !d.attach
  | none => false

/-- RTT (R113). Leaves the trap handler; outside one it takes the illegal-instruction trap, and with WORD = 3 a double trap. -/
def execRtt (f : RF) (s : State) : Host.Outcome State Fault Refusal :=
  issue (.rtt f) s (fun _ v sl =>
    let x := s.slice sl
    if !hmOf x.trapcause || decide (wordField x.trapcause = 3) then .error (s.illegal sl 0x00)
    else .ok [.slice sl (.replace ((x.tick v.bypass).rtt (s.packOf sl).textBase (s.packOf sl).steps))])

/-- GMASK (R50): the active mask of the reading split. -/
def State.gmask (s : State) (c : Cur) : Word :=
  BitVec.ofNat 32 (c.slices.foldl (fun acc sl => acc + (s.slice sl).live.toNat * 2 ^ (4 * (s.slice sl).gslot)) 0)

/-- GROUPS (R94): up to four group numbers, ascending from GRP0. -/
def groupsWord (gs : List Nat) : Word :=
  BitVec.ofNat 32 (gs.getD 0 0 + gs.getD 1 0 * 2 ^ 8 + gs.getD 2 0 * 2 ^ 16 + gs.getD 3 0 * 2 ^ 24)

/-- The value a read of special register n returns in a lane (R91 to R94). -/
def State.special (s : State) (c : Cur) (sl ln n : Nat) : Word :=
  let x := s.slice sl
  let p := s.packOf sl
  let k := s.core p.core
  let w := fun (n : Nat) => BitVec.ofNat 32 n
  match n with
  | 0 => w ln
  | 1 => w x.sid
  | 2 => w x.gslot
  | 3 => w x.gang
  | 4 => p.px
  | 5 => p.py
  | 6 => p.pz
  | 7 => p.launchId
  | 8 => w p.core
  | 9 => w (dieOfCore p.core)
  | 10 => w s.maps.devid
  | 11 => w k.ck
  | 12 => x.clkLatch.getD (w (k.ck / 2 ^ 32))
  | 13 => w s.run.ac
  | 14 => x.cycLatch.getD (w (s.run.ac / 2 ^ 32))
  | 15 => s.gmask c
  | 16 => x.fpctl
  | 17 => (s.gang (s.gangKey sl)).rstatus
  | 18 => x.trapcause
  | 19 => x.trappc
  | 20 => x.trapaddr.setWidth 32
  | 21 => x.trapaddr.extractLsb' 32 32
  | 22 => x.traplanes
  | 23 => w x.sptop
  | 24 => w x.splim
  | 25 => groupsWord p.groups
  | 26 => w k.lease
  | 27 => w (s.gang (s.gangKey sl)).accmap
  | 28 => w (p.groups.length * 2 ^ 12 + p.ngang * 2 ^ 4 + (s.gang (s.gangKey sl)).nsl)
  | 29 => w (s.stepOf p.queue)
  | 30 => w ((x.window x.sel).len * 2 ^ 16 + (x.window x.sel).base * 2 ^ 8 + x.sel)
  | 31 => w k.obsv
  | _ => 0

/-- The latches a read of CLKLO, CLKHI, CYCLO or CYCHI sets or spends (R92). -/
def State.latchActs (s : State) (sl n : Nat) : List Act :=
  let k := s.core (s.coreOf sl)
  match n with
  | 11 => [.slice sl (.clkLatch (some (BitVec.ofNat 32 (k.ck / 2 ^ 32))))]
  | 12 => [.slice sl (.clkLatch none)]
  | 13 => [.slice sl (.cycLatch (some (BitVec.ofNat 32 (s.run.ac / 2 ^ 32))))]
  | 14 => [.slice sl (.cycLatch none)]
  | _ => []

/-- SRD (R114). Reads a special register into vD in each active lane, latching CLKHI or CYCHI on reads of the low halves. -/
def execSrd (f : RF) (s : State) : Host.Outcome State Fault Refusal :=
  issue (.srd f) s (fun c v sl =>
    let ls := s.activeLanes sl v.pg
    s.tested v sl ls (fun _ => .ok (s.putD v sl ls (fun l => s.special c sl l v.a) ++ (if ls = [] then [] else s.latchActs sl v.a))))

/-- The effect of SWR on a register (R114): acts, or the trap its entry names. (DEDUCED, assumption log 22) -/
def State.swrActs (s : State) (sl n : Nat) (x : Word) (op : Nat) (ls : List Nat) : Res :=
  let y := s.slice sl
  let win := (s.packOf sl).lpsize
  let sp := fun (u : Nat → SliceUpd) (refused : Bool) =>
    if win < x.toNat / 8 * 8 ∨ refused then Except.error { code := 0x04, info := 7, addr := BitVec.ofNat 64 (x.toNat / 8 * 8), lanes := laneMask (ls.take 1) }
    else .ok [.slice sl (u (x.toNat / 8 * 8))]
  match n with
  | 16 => .ok [.slice sl (.fpctl x (s.run.ac + 1))]
  | 17 => .ok [.rstatus (s.gangKey sl) (~~~(x &&& 7#32)) 0]
  | 18 => if hmOf y.trapcause then .ok [.slice sl (.trapcause ((y.trapcause &&& 0xFFF9FFFF#32) ||| (x &&& 0x00060000#32)))] else .error (s.illegal sl op)
  | 19 => if hmOf y.trapcause then .ok [.slice sl (.trappc (BitVec.ofNat 32 (x.toNat / 12 * 12)))] else .error (s.illegal sl op)
  | 23 => sp .sptop (decide (x.toNat / 8 * 8 < y.splim) && decide (x.toNat / 8 * 8 < y.sptop))
  | 24 => sp .splim false
  | 30 => .ok [.slice sl (.sel (x.toNat % 4))]
  | _ => .error (s.illegal sl op)

/-- SWR (R114). Writes a special register from the lowest active lane, with per-register effects and traps; without an active lane it does nothing. -/
def execSwr (f : RF) (s : State) : Host.Outcome State Fault Refusal :=
  issue (.swr f) s (fun _ v sl =>
    match s.activeLanes sl v.pg with
    | [] => .ok []
    | l :: ls =>
      s.testedOne v sl l (l :: ls) (fun _ => s.swrActs sl v.a ((s.valB v none sl l).setWidth 32) v.op (l :: ls)))

end Sys2Proof.Machine
end

