-- ==== Sys2Proof/Machine/Debugger.lean ====
section
/-! DEFINITION. The debugger's mailbox commands and stop notifications (04_system R103 to R108). -/
namespace Sys2Proof.Machine

/-- A slice of a queue's running launches that has stopped for an attached debugger (R104, R106). -/
def State.stoppedIn (s : State) (queue sl : Nat) : Bool :=
  let p := s.packOf sl
  let l := s.launch p.launch
  l.here && decide (l.queue = queue) && decide (l.gen = (s.queue queue).gen) && (p.here || p.saved) && ((p.debug).map (fun d => d.attach)).getD false
    && (s.slice sl).here && (s.slice sl).stop && decide ((s.slice sl).status = .run)
/-- The stopped slices of a queue. -/
def State.stoppedOf (s : State) (queue : Nat) : List Nat := (s.ctl.slices.map (fun e => e.1)).filter (s.stoppedIn queue)
/-- The stopped slice that a name + SID names. -/
def State.stoppedAt (s : State) (queue name : Nat) : Option Nat :=
  (s.stoppedOf queue).find? (fun sl => decide ((s.nameOf sl).toNat + (s.slice sl).sid = name))

/-- A mailbox command's answer when pages are not there yet: Sundesh waits, and the command has no effect so far. -/
def State.answer (s : State) (g : Got) (bad : Nat) (acts : State → List Act) : List Act :=
  match g with
  | .ok _ as => s.mailbox 0 (fun s => s.chain [fun _ => as, acts])
  | .wait _ => []
  | .bad ns => s.mailbox bad (fun _ => ns)

/-! ### The debug area (R108) -/

/-- Bytes of the area. -/
def dbgLen : Nat := 4480

/-- A stopped slice's Cur, for the special registers that name its split. -/
def State.curOf (s : State) (sl : Nat) : Cur :=
  let e := s.ctl.splits.find? (fun e => e.2.slices.contains sl)
  { entry := (e.map (fun e => e.1)).getD 0, slices := (e.map (fun e => e.2.slices)).getD [sl], pkt := (s.slice sl).pc, word := (s.slice sl).word, nextPkt := 0, nextWord := 0, firstPkt := 0, firstWord := 0 }

/-- The area of a stopped slice. -/
def State.dbgBytes (s : State) (sl : Nat) : List Byte :=
  let x := s.slice sl
  let n := (s.packOf sl).regs
  let ws := [x.w0, x.w1, x.w2, x.w3]
  lanes4.flatMap (fun l => (List.range 256).flatMap (fun k => leBytes 4 (if k < n then (s.file (laneKey sl l) k).toNat else 0)))
    ++ lanes4.flatMap (fun l => (List.range 8).flatMap (fun k => leBytes 2 (s.idxOf (laneKey sl l) k).toNat))
    ++ lanes4.flatMap (fun l => leBytes 1 ((List.range 8).foldl (fun a k => a + bit (s.predOf (laneKey sl l) k) * 2 ^ k) 0))
    ++ zeros 4
    ++ ws.flatMap (fun w => leBytes 1 w.base ++ leBytes 1 w.len)
    ++ (List.range 32).flatMap (fun k => leBytes 4 (s.special (s.curOf sl) sl 0 k).toNat)
    ++ leBytes 8 x.pc ++ zeros 40
    ++ lanes4.flatMap (fun l => (List.range 32).flatMap (fun b => leBytes 1 ((List.range 8).foldl (fun a k => a + bit (s.poisoned (laneKey sl l) (8 * b + k)) * 2 ^ k) 0)))

/-- DBGSTATE (R108). Writes a stopped slice's state to 4,480 bytes of the queue's address space: status 9 without such a slice, 10 when the area cannot be written. (DESIGN CHOICE, assumption log 48) -/
def execDbgstate (queue name va : Nat) (s : State) : Host.Outcome State Fault Refusal :=
  match s.stoppedAt queue name with
  | none => event s (s.mailbox 9 (fun _ => []))
  | some sl => if va % 64 ≠ 0 then event s (s.mailbox 10 (fun _ => [])) else event s (s.answer (s.sunWrite (some (s.queue queue).asid) va (s.dbgBytes sl)) 10 (fun _ => []))

/-- The windows of an area satisfy R118, and its SPTOP and SPLIM lie within the lane-private window (R114). -/
def State.dbgLegal (s : State) (sl : Nat) (bs : List Byte) : Bool :=
  let p := s.packOf sl
  (List.range 4).all (fun k =>
    let base := numAt bs (0x1048 + 2 * k) 1
    let len := numAt bs (0x1049 + 2 * k) 1
    decide (56 ≤ base) && decide (1 ≤ len) && decide (len ≤ 200) && decide (base + len ≤ p.regs))
    && [23, 24].all (fun k => decide (numAt bs (0x1050 + 4 * k) 4 / 8 * 8 ≤ p.lpsize))

/-- The RW fields of an area go into a slice. -/
def State.dbgActs (s : State) (sl : Nat) (bs : List Byte) : List Act :=
  let n := (s.packOf sl).regs
  let sp := fun (k : Nat) => numAt bs (0x1050 + 4 * k) 4
  let win := fun (k : Nat) => (⟨numAt bs (0x1048 + 2 * k) 1, numAt bs (0x1049 + 2 * k) 1⟩ : Window)
  lanes4.flatMap (fun l => (List.range n).map (fun k => .reg (laneKey sl l) k (BitVec.ofNat 32 (numAt bs (1024 * l + 4 * k) 4)) (flagOf (numAt bs (0x1100 + 32 * l + k / 8) 1) (k % 8))))
    ++ (List.range n).map (fun k => .untag sl k true)
    ++ lanes4.flatMap (fun l => (List.range 8).map (fun k => .idx (laneKey sl l) k (BitVec.ofNat 16 (numAt bs (0x1000 + 16 * l + 2 * k) 2))))
    ++ lanes4.flatMap (fun l => (List.range 8).map (fun k => .pred (laneKey sl l) k (flagOf (numAt bs (0x1040 + l) 1) k)))
    ++ [.slice sl (.replace { s.slice sl with
          w0 := win 0, w1 := win 1, w2 := win 2, w3 := win 3, fpctl := BitVec.ofNat 32 (sp 16 % 2 ^ 8), trappc := BitVec.ofNat 32 (sp 19 / 12 * 12), sptop := sp 23 / 8 * 8, splim := sp 24 / 8 * 8 })]

/-- DBGWRITE (R108). Writes the RW fields of an area back into a stopped slice: status 9 without such a slice, 10 when the area cannot be read, 11 for windows or values that R118 and R114 refuse. (DESIGN CHOICE, assumption log 48) -/
def execDbgwrite (queue name va : Nat) (s : State) : Host.Outcome State Fault Refusal :=
  match s.stoppedAt queue name with
  | none => event s (s.mailbox 9 (fun _ => []))
  | some sl =>
    if va % 64 ≠ 0 then event s (s.mailbox 10 (fun _ => []))
    else
      match s.sunRead (some (s.queue queue).asid) va dbgLen with
      | .wait _ => event s []
      | .bad ns => event s (s.mailbox 10 (fun _ => ns))
      | .ok bs as => if s.dbgLegal sl bs then event s (s.mailbox 0 (fun s => s.chain [fun _ => as, fun s => s.dbgActs sl bs])) else event s (s.mailbox 11 (fun _ => as))

/-- A launch takes its debug block as it stands now (R103), and some slices go on at their resume points; the match that stopped one is suppressed for its first group (R105). -/
def State.resumeActs (s : State) (no : Nat) (d : Debug) (sls : List Nat) : List Act :=
  .launch no { s.launch no with debug := some d } :: (s.packsOf no).map (fun e => .pack e.1 { e.2 with debug := some d })
    ++ sls.flatMap (fun sl => [.slice sl (.stop false), .slice sl (.suppress (s.slice sl).matched), .slice sl (.stepping d.step)])

/-- DBGRESUME (R108). Rereads the debug blocks of the launches concerned and resumes the slice named, or every stopped slice of the queue: status 9 without one, 10 when a debug block cannot be read or is not allowed. (DESIGN CHOICE, assumption log 48) -/
def execDbgresume (queue name : Nat) (s : State) : Host.Outcome State Fault Refusal :=
  let sls := if name = 0 then s.stoppedOf queue else (s.stoppedAt queue name).toList
  if sls = [] then event s (s.mailbox 9 (fun _ => []))
  else
    let nos := (sls.map (fun sl => (s.packOf sl).launch)).eraseDups
    let reads := nos.map (fun no => (no, s.sunRead (some (s.launch no).asid) (s.launch no).debugAt 80))
    if reads.any (fun r => r.2.waits) then event s []
    else
      match reads.mapM (fun r => r.2.bytes?.bind (fun bs => (debugOf bs (s.launch r.1).debugAt).map (fun d => (r.1, d)))) with
      | none => event s (s.mailbox 10 (fun _ => []))
      | some ds =>
        event s (s.mailbox 0 (fun s => s.chain
          (ds.map (fun d s => s.resumeActs d.1 d.2 (sls.filter (fun sl => decide ((s.packOf sl).launch = d.1))))
            ++ [fun s => [.sun { s.sun with told := s.sun.told.filter (fun sl => !sls.contains sl) }]])))

/-! ### Stop notifications (R108) -/

/-- A stopped slice of a queue whose stop has not been notified. -/
def State.untold (s : State) (queue : Nat) : Option (Nat × Nat) :=
  ((s.stoppedOf queue).filter (fun sl => !s.sun.told.contains sl)).findSome? (fun sl => (((s.packOf sl).debug).bind (fun d => d.note)).map (fun n => (sl, n)))

/-- Its notification is posted; one that fails the owner check of R360 is dropped. -/
def State.tellStop (s : State) (queue sl slot : Nat) : List Act :=
  let l := s.launch (s.packOf sl).launch
  s.chain
    [fun s => if s.noteOwner slot = l.asid then s.notify queue l.tag ((s.nameOf sl).toNat + (s.slice sl).sid) slot else [],
     fun s => [.sun { s.sun with told := sl :: s.sun.told }]]

end Sys2Proof.Machine
end

