-- ==== Sys2Proof/Machine/Migrate.lean ====
section
/-! DEFINITION. The fault unit (08_memory R198, R199): making a non-resident page resident, and moving a resident page through a write-protect window. -/
namespace Sys2Proof.Machine

/-- Replace bits hi..lo of an entry. -/
def setBits (e hi lo v : Nat) : Nat := e - bitsOf e hi lo * 2 ^ lo + v % 2 ^ (hi - lo + 1) * 2 ^ lo

/-- Stacks of a tier in the order the fault unit of die d looks (R198). -/
def stackOrder (tier d : Nat) : List Nat :=
  if tier = 0 then
    let own := [3 * d, 3 * d + 1, 3 * d + 2]
    own ++ (List.range 12).filter (fun x => !own.contains x)
  else d :: (List.range 4).filter (fun x => decide (x ≠ d))

/-- Frames of a page by level, in 64 KiB units. -/
def pageFrames (level : Nat) : Nat := 2 ^ (pageBits level - 16)

/-- A free page-sized run of frames on one stack: its first frame. -/
def State.freeOn (s : State) (tier level stack : Nat) : Option Nat :=
  let fr := Sparse.get [] s.maps.frames (tier * 16 + stack)
  let n := pageFrames level
  fr.find? (fun f => decide (f % n = 0) && (List.range n).all (fun i => fr.contains (f + i)))

/-- The first stack with a free frame of the page's size (R198). (DESIGN CHOICE, assumption log 9) -/
def State.takeFrame (s : State) (tier level : Nat) (sts : List Nat) : Option (Nat × Nat) :=
  sts.findSome? (fun st => (s.freeOn tier level st).map (fun f => (st, f)))

/-- The free lists after some frames are taken, or given back. (DESIGN CHOICE, assumption log 9) -/
def Maps.take (c : Maps) (tier stack f n : Nat) : Maps :=
  { c with frames := Sparse.set [] c.frames (tier * 16 + stack) ((Sparse.get [] c.frames (tier * 16 + stack)).filter (fun x => decide (x < f) || decide (f + n ≤ x))) }
/-- The stack of a frame. -/
def stackOf (tier f : Nat) : Nat := if tier = 0 then f / 786432 else f / 16777216
/-- Frames return to their stack's free list; host frames are the host's own. -/
def Maps.give (c : Maps) (tier f n : Nat) : Maps :=
  let k := tier * 16 + stackOf tier f
  if 1 < tier then c else { c with frames := Sparse.set [] c.frames k (Sparse.get [] c.frames k ++ (List.range n).map (fun i => f + i)) }
/-- A cached translation meets a range of n 64 KiB pages. -/
def Tlb.meets (t : Tlb) (asid va n : Nat) : Bool :=
  decide (t.asid = asid) && decide (t.page * 2 ^ pageBits t.level < va / 2 ^ 16 * 2 ^ 16 + n * 2 ^ 16) && decide (va / 2 ^ 16 * 2 ^ 16 < (t.page + 1) * 2 ^ pageBits t.level)
/-- Cached translations of a range go from every TLB. -/
def Maps.dropTlb (c : Maps) (asid va n : Nat) : Maps :=
  { c with tlb := (c.tlb.map (fun e => (e.1, e.2.filter (fun t => !t.meets asid va n)))).filter (fun e => !e.2.isEmpty) }

/-- Key of the first byte of a run of frames. -/
def frameKey (tier f : Nat) : Nat := (if tier = 0 then 0 else if tier = 1 then scmBase else hostBase) + f * 2 ^ 16

/-- The die whose fault unit meets a page: that of the first parked access or waiting fetch there. -/
def State.faultDie (s : State) (asid va n : Nat) : Nat :=
  let on := fun (x : Nat) => decide (va ≤ x) && decide (x < va + n)
  match s.reqs.find? (fun e => decide (e.2.state = .parked) && decide (e.2.asid = asid) && on e.2.va) with
  | some e => dieOfCore e.2.core
  | none =>
    match s.ctl.slices.find? (fun e => e.2.here && decide ((s.packOf e.1).asid = asid) && (on e.2.pc || on (e.2.pc + 11))) with
    | some e => dieOfCore (s.coreOf e.1)
    | none => 0

/-- MIGRATION_COMPLETE (R198). The fault unit takes a free frame of the target tier, copies the page from where its handle names, and writes the entry with RES = 1, the new FRAME, A = 1 and D = 0. A handle that names a frame the device does not have is a fault of the model (R438). (DEDUCED, assumption log 29) -/
def execMigrationComplete (asid : Nat) (va : Nat) (s : State) : Host.Outcome State Fault Refusal :=
  match s.walk asid va with
  | .error _ => event s []
  | .ok p =>
    if p.res || decide (1 < p.tier) || decide (2 < p.level) then event s []
    else
      let base := va / 2 ^ pageBits p.level * 2 ^ pageBits p.level
      let n := pageFrames p.level
      match Sparse.get none s.maps.handles p.frame, s.takeFrame p.tier p.level (stackOrder p.tier (s.faultDie asid base (2 ^ pageBits p.level))) with
      | some (tier, f), some (st, g) =>
        if !keyExists (frameKey tier (f + n - 1)) then .fault (.noSuchFrame (frameKey tier (f + n - 1)))
        else
        let e := setBits (setBits (setBits p.e 51 16 g) 1 1 1) 11 10 2
        event s [.maps ((s.maps.take p.tier st g n).dropTlb asid base n), .copyRange (frameKey tier f) (frameKey p.tier g) (2 ^ pageBits p.level), .store p.at_ (leBytes 8 e) 0]
      | _, _ => event s []

/-- A page may move to a tier (R199): P = 1 stays in SCM, HB = 1 in HBM. -/
def Page.mayMove (p : Page) (tier : Nat) : Bool :=
  p.res && decide (p.tier ≤ 2) && decide (tier ≤ 2) && (!p.p || decide (tier = 1)) && (!p.hb || decide (tier = 0))

/-- A part of a chunk reads or writes a range of memory. -/
def Part.touches (q : Part) (key n : Nat) : Bool :=
  (match q.src with
    | some r => overlaps r.key r.len key n
    | none => false) || q.dst.any (fun d => overlaps d.1 q.len key n)

/-- The parts of chunks, bulk packets and packets of other devices that are under way. -/
def State.parts (s : State) : List Part :=
  s.cpy.queues.flatMap (fun e => e.2.jobs.flatMap (fun j => j.flight.flatMap (fun f => f.2))) ++ s.fab.bulk.flatMap (fun b => b.pkts.flatMap (fun p => p.parts)) ++ s.fab.inbound.flatMap (fun i => i.parts)

/-- Nothing of the device that was translated to a range of memory is still on its way there: no access, and no chunk of a transfer. -/
def State.pageQuiet (s : State) (key n : Nat) : Bool :=
  s.reqs.all (fun e => decide (e.2.state = .parked) || !overlaps e.2.key e.2.size key n) && s.parts.all (fun q => !q.touches key n)

/-- PAGE_MOVE (R199). Sundesh names a page, a tier and a stack. The fault unit opens the write-protect window; when the accesses under way have been performed it cleans the page's dirty lines, copies the page, writes the entry with the new TIER and FRAME and closes the window. Without a frame the page stays and the window closes. (DEDUCED, assumption log 29) -/
def execPageMove (asid : Nat) (va tier stack : Nat) (s : State) : Host.Outcome State Fault Refusal :=
  match s.walk asid va with
  | .error _ => event s []
  | .ok p =>
    let m := (asid, va, tier, stack)
    let base := va / 2 ^ pageBits p.level * 2 ^ pageBits p.level
    let n := pageFrames p.level
    let len := 2 ^ pageBits p.level
    let old := frameKey p.tier p.frame
    if !p.mayMove tier || s.snapBusy asid base len then event s []
    else if !s.maps.moves.contains m then
      event s (if p.wpw then [] else [.maps { s.maps with moves := m :: s.maps.moves }, .store p.at_ (leBytes 8 (setBits p.e 9 9 1)) 0])
    else if !s.pageQuiet old len then event s []
    else
      let left := s.maps.moves.filter (fun x => decide (x ≠ m))
      let dirty := (s.mem.dirty.filter (fun e => decide (old / 64 ≤ e.1) && decide (e.1 < (old + len) / 64))).map (fun e => e.1)
      match s.takeFrame tier p.level [stack] with
      | none => event s [.maps { s.maps with moves := left }, .store p.at_ (leBytes 8 (setBits p.e 9 9 0)) 0]
      | some (st, g) =>
        let e := setBits (setBits (setBits p.e 51 16 g) 3 2 tier) 9 9 0
        event s (.maps { ((s.maps.take tier st g n).give p.tier p.frame n).dropTlb asid base n with moves := left }
          :: dirty.flatMap s.cleanActs ++ [.copyRange old (frameKey tier g) len, .store p.at_ (leBytes 8 e) 0])

end Sys2Proof.Machine
end

