-- ==== Sys2Proof/Machine/Mapping.lean ====
section
/-! DEFINITION. MAP, UNMAP, BIAS, CAP and PERSIST (14_queues R361 to R366, 08_memory R197, R203, R236, 13_remote R321, R322). A translation change stands in memory at once; old translations stay in the TLBs until the packet completes, so that an access meanwhile uses either (R236). -/
namespace Sys2Proof.Machine

/-! ### The leaves of a range -/

/-- The valid entries of a table, by index. -/
def State.tableEntries (s : State) (tab n : Nat) : List Nat :=
  (((s.mem.bytes.filter (fun e => decide (tab ≤ e.1) && decide (e.1 < tab + 8 * n))).map (fun e => (e.1 - tab) / 8)).eraseDups).filter (fun i => flagOf (s.dword (tab + 8 * i)) 0)

/-- The leaf entries below a table whose first VA is `base`: first VA and entry. -/
def State.leavesFrom (s : State) : List (Nat × Nat × Nat) → Nat → Nat → List (Nat × Page)
  | [], _, _ => []
  | (lv, lo, n) :: rest, tab, base =>
    (s.tableEntries tab n).flatMap (fun i =>
      let e := s.dword (tab + 8 * i)
      let va := base + i * 2 ^ lo
      if bitsOf e 61 60 = 3 then (if tableOk e then State.leavesFrom s rest (bitsOf e 51 8 * 2 ^ 8) va else [])
      else if lv ≤ 3 then [(va, ⟨e, lv, tab + 8 * i⟩)] else [])

/-- The leaf entries of an address space that a range meets. -/
def State.leavesIn (s : State) (asid va len : Nat) : List (Nat × Page) :=
  match Sparse.get none s.maps.roots asid with
  | none => []
  | some root => (s.leavesFrom walkLevels root 0).filter (fun x => decide (x.1 < va + len) && decide (va < x.1 + 2 ^ pageBits x.2.level))

/-- Bytes of a range that some leaf entries cover. -/
def coveredBytes (va len : Nat) (xs : List (Nat × Page)) : Nat :=
  (xs.map (fun x => min (va + len) (x.1 + 2 ^ pageBits x.2.level) - max va x.1)).foldl (fun a b => a + b) 0

/-! ### Waiting for old translations (R236) -/

/-- An address lies in a range. -/
def inRange (va len a : Nat) : Bool := decide (va ≤ a) && decide (a < va + len)

/-- Every access of an address space that may have used an old translation of a range has been performed: no request on its way, no chunk or packet between its translation and its end. -/
def State.rangeQuiet (s : State) (asid va len : Nat) : Bool :=
  s.reqs.all (fun e => decide (e.2.asid ≠ asid) || decide (e.2.state = .parked) || !(inRange va len e.2.va || inRange va len (e.2.va + e.2.size - 1)))
    && s.jobs.all (fun j => decide ((s.pack j.pack).asid ≠ asid) || j.flight.isEmpty)
    && s.fab.bulk.all (fun b => decide ((s.pack b.pack).asid ≠ asid) || b.pkts.all (fun p => p.parts.isEmpty))
    && s.fab.inbound.all (fun x => decide (x.p.asid ≠ asid) || !x.started)

/-- 64 KiB pages a range touches. -/
def pageCount (va len : Nat) : Nat := if len = 0 then 0 else (va + len - 1) / 65536 - va / 65536 + 1

/-- Where the pages of the snapshot regions stand now: 64 KiB frame of a memory key to page key + 1. -/
def State.mapFrames (s : State) : Sparse Nat :=
  s.sett.regions.foldl (fun m r =>
    (s.leavesIn r.asid r.va r.len).foldl (fun m x =>
      let first := if x.2.res then some (frameKey x.2.tier x.2.frame / 2 ^ 16) else (Sparse.get none s.maps.handles x.2.frame).map (fun h => frameKey h.1 h.2 / 2 ^ 16)
      match first with
      | none => m
      | some f => if x.2.tier = 3 then m else
        (List.range (pageFrames x.2.level)).foldl (fun m i =>
          let va := x.1 + i * 2 ^ 16
          if inRange r.va r.len va then Sparse.set 0 m (f + i) (pageKey r.asid va + 1) else m) m) m) []

/-- A translation change that has been made: it completes when the old translations are no longer in use, and they leave the TLBs (R236). -/
def State.drainStep (s : State) (a : Active) : Option (List Act) :=
  match a.work with
  | .drain va len =>
    if s.rangeQuiet a.asid va len then
      some (s.chain [fun s => [.maps (s.maps.dropTlb a.asid va (pageCount va len)), .carry a.asid (((s.leavesIn a.asid va len).map (fun x => x.2.keyid)).eraseDups)], fun s => [.sett { s.sett with frames := s.mapFrames }], fun s => s.complete a 0 0])
    else none
  | _ => none

/-! ### MAP (R361) -/

/-- MAP ROOT's body. -/
def rootBody : Body := fun p s =>
  .ok [.maps { s.maps with roots := Sparse.set none s.maps.roots p.asid (some (p.num 0x18 8)) }, .active (p.active (.drain 0 (2 ^ 57)))]
/-- MAP_ROOT (R361). Installs the root of the queue's address space. -/
def execMapRoot (queue index : Nat) (s : State) : Host.Outcome State Fault Refusal := s.packet queue index .mapRoot true rootBody

/-- MAP SYNC's body. -/
def syncBody : Body := fun p _ => .ok [.active (p.active (.drain (p.num 0x18 8) (p.num 0x20 8)))]
/-- MAP_SYNC (R361). Removes every cached translation of a range. -/
def execMapSync (queue index : Nat) (s : State) : Host.Outcome State Fault Refusal := s.packet queue index .mapSync true syncBody

/-- The launch a record names for MAP and CAP: the latest running one. -/
def State.runningLaunch (s : State) (asid record : Nat) : Option Nat :=
  ((s.launches.filter (fun e => decide (e.2.asid = asid) && decide (e.2.record = record))).getLast?).map (fun e => e.1)
/-- The number DSPALLOC allocates for: the running launch of the record, or the number its next launch will take. -/
def State.allocNo (s : State) (asid record : Nat) : Nat := (s.runningLaunch asid record).getD (s.launchNo asid record)
/-- The keys of the blocks a DSPALLOC or DSPFREE names. -/
def Packet.blocks (p : Packet) : List Nat :=
  let x := p.num 0x20 8
  (List.range (bitsOf x 24 16 + 1)).map (fun i => x % 4 * 512 + bitsOf x 12 4 + i)
/-- Its range passes block 511. -/
def Packet.overrun (p : Packet) : Bool := decide (512 < bitsOf (p.num 0x20 8) 12 4 + bitsOf (p.num 0x20 8) 24 16 + 1)

/-- DSPALLOC's body. -/
def allocBody : Body := fun p s =>
  let record := p.num 0x18 8
  if p.overrun then .error (.code 0x01 0x20)
  else if p.blocks.any (fun b => decide (Sparse.get 0 s.maps.blocks b ≠ 0)) then .error (.code 0x0A 0)
  else
    let no := s.allocNo p.asid record
    let names := if s.sun.names.any (fun e => decide (e.1 = no)) then s.sun.names else s.sun.names ++ [(no, p.asid, record, false)]
    .ok (s.chain
      [fun s => [.maps { s.maps with blocks := p.blocks.foldl (fun m b => Sparse.set 0 m b (no + 2)) s.maps.blocks }, .sun { s.sun with names := names, nextLaunch := max s.sun.nextLaunch (no + 1) }],
       fun s => s.completeNow p 0 0])
/-- DSPALLOC (R187, R361). Allocates die scratchpad blocks to the launch of a record. -/
def execDspalloc (queue index : Nat) (s : State) : Host.Outcome State Fault Refusal := s.packet queue index .dspalloc true allocBody

/-- DSPFREE's body: of the range, the blocks that launches of the record hold become free. -/
def freeBody : Body := fun p s =>
  if p.overrun then .error (.code 0x01 0x20)
  else
    let nos := (s.sun.names.filter (fun e => decide (e.2.1 = p.asid) && decide (e.2.2.1 = p.num 0x18 8))).map (fun e => e.1 + 2)
    let mine := p.blocks.filter (fun b => nos.contains (Sparse.get 0 s.maps.blocks b))
    .ok (s.chain [fun s => [.maps { s.maps with blocks := mine.foldl (fun m b => Sparse.set 0 m b 0) s.maps.blocks }], fun s => s.completeNow p 0 0])
/-- DSPFREE (R361). Frees die scratchpad blocks of the launch of a record. -/
def execDspfree (queue index : Nat) (s : State) : Host.Outcome State Fault Refusal := s.packet queue index .dspfree true freeBody

/-- MIGREG's body. (DEDUCED, assumption log 47) -/
def migregBody : Body := fun p s =>
  let h := p.num 0x18 8
  let x := p.num 0x20 8
  if x % 4 = 3 then .error (.code 0x01 0x20)
  else if (Sparse.get none s.maps.handles h).isNone ∧ Config.migrationRoom ≤ s.maps.handles.length then .error (.code 0x0A 0)
  else .ok (s.chain [fun s => [.maps { s.maps with handles := Sparse.set none s.maps.handles h (some (x % 4, bitsOf x 51 16)) }], fun s => s.completeNow p 0 0])
/-- MIGREG (R198, R361). Registers a migration handle. -/
def execMigreg (queue index : Nat) (s : State) : Host.Outcome State Fault Refusal := s.packet queue index .migreg true migregBody

/-- The group number of an MCGROUP or MCFREE. -/
def Packet.group (p : Packet) : Nat := p.num 0x20 8 % 2 ^ 12
/-- The group belongs to another tenant. -/
def State.groupTaken (s : State) (p : Packet) : Bool :=
  match Sparse.get none s.fab.groups p.group with
  | some (t, _) => decide (t ≠ p.asid)
  | none => false

/-- MCGROUP's body. (DEDUCED, assumption log 47) -/
def mcgroupBody : Body := bodyOf (fun p s => do
  sdNeed (decide (p.group ≠ 0xFFF)) 0x01 0x20
  let bs ← s.sdRead p.asid (p.num 0x18 8) (2 * (bitsOf (p.num 0x20 8) 27 16 + 1)) 0x18
  sdNeed (!s.groupTaken p) 0x06 0x20
  sdNeed ((Sparse.get none s.fab.groups p.group).isSome || decide (s.fab.groups.length < 1024)) 0x0A 0
  pure (fun s => s.chain
    [fun s => [.fab { s.fab with groups := Sparse.set none s.fab.groups p.group (some (p.asid, (entriesOf 2 bs).map leNat)), mine := (p.group :: s.fab.mine).eraseDups }],
     fun s => s.completeNow p 0 0]))
/-- MCGROUP (R321). Defines or replaces a multicast group of the pod for the queue's tenant. -/
def execMcgroup (queue index : Nat) (s : State) : Host.Outcome State Fault Refusal := s.packet queue index .mcgroup true mcgroupBody

/-- MCFREE's body. (DEDUCED, assumption log 47) -/
def mcfreeBody : Body := fun p s =>
  if p.group = 0xFFF then .error (.code 0x01 0x20)
  else if s.groupTaken p then .error (.code 0x06 0x20)
  else .ok (s.chain
    [fun s => [.fab { s.fab with groups := Sparse.set none s.fab.groups p.group none, mine := s.fab.mine.filter (fun g => decide (g ≠ p.group)) }], fun s => s.completeNow p 0 0])
/-- MCFREE (R321). Removes a multicast group. -/
def execMcfree (queue index : Nat) (s : State) : Host.Outcome State Fault Refusal := s.packet queue index .mcfree true mcfreeBody

/-! ### UNMAP (R362) -/

/-- The field at which a range cuts a leaf: its start, or its length. -/
def State.cutsLeaf (s : State) (asid va len : Nat) : Option Nat :=
  let big := (s.leavesIn asid va len).filter (fun x => decide (2 ≤ x.2.level))
  if big.any (fun x => decide (x.1 < va)) then some 0x10
  else if big.any (fun x => decide (va + len < x.1 + 2 ^ pageBits x.2.level)) then some 0x18 else none

/-- UNMAP's body: V is cleared in every leaf entry of the range. -/
def unmapBody : Body := fun p s =>
  let va := p.num 0x10 8
  let len := p.num 0x18 8
  match s.cutsLeaf p.asid va len with
  | some off => .error (.code 0x01 off)
  | none => .ok (.carry p.asid (((s.leavesIn p.asid va len).map (fun x => x.2.keyid)).eraseDups) :: (s.leavesIn p.asid va len).map (fun x => .store x.2.at_ (leBytes 8 (x.2.e - 1)) 0) ++ [.active (p.active (.drain va len))])
/-- UNMAP (R362). Clears V in the leaf entries of a range, and completes when every access that used them has been performed. -/
def execUnmap (queue index : Nat) (s : State) : Host.Outcome State Fault Refusal := s.packet queue index .unmap true unmapBody

/-! ### BIAS (R202, R203) -/

/-- The pages of the regions a BIAS flips, all translated, in TIER 0. (DESIGN CHOICE, assumption log 25) -/
def State.biasPages (s : State) (asid va n : Nat) : Option (List (Nat × Page)) :=
  let xs := s.leavesIn asid va n
  if coveredBytes va n xs = n ∧ xs.all (fun x => leafOk x.2.e x.2.level && x.2.res && decide (x.2.tier = 0)) then some xs else none

/-- What flips next, from a VA: one 2 MiB region, or the whole of a 1 GiB page, whose HB covers all its regions (R202): the VA after it, and its pages. -/
def State.biasUnit (s : State) (asid va : Nat) : Nat × List (Nat × Page) :=
  let xs := s.leavesIn asid va (2 ^ 21)
  match xs.find? (fun x => decide (x.2.level = 3)) with
  | some x => (x.1 + 2 ^ 30, [x])
  | none => (va + 2 ^ 21, xs)

/-- The memory of a page in TIER 0: its first key and its length. -/
def Page.span (p : Page) : Nat × Nat := (frameKey 0 p.frame, 2 ^ pageBits p.level)
/-- The 2 MiB regions of memory some pages lie in. -/
def regionsOf (xs : List (Nat × Page)) : List Nat :=
  (xs.flatMap (fun x => (List.range ((x.2.span.2 + 2 ^ 21 - 1) / 2 ^ 21)).map (fun i => x.2.span.1 / 2 ^ 21 + i))).eraseDups

/-- Steps 3 and 4 of R203 for one page: its dirty lines are written back, its lease copies dropped, HB changes in its entry, and old translations leave the TLBs. -/
def State.flipPage (s : State) (asid : Nat) (x : Nat × Page) (hb : Bool) : List Act :=
  let (key, n) := x.2.span
  let line := inRange (key / 64) (n / 64)
  s.chain
    [fun s => ((s.mem.dirty.filter (fun e => line e.1)).map (fun e => e.1)).flatMap s.cleanActs
        ++ (s.coh.copies.filter (fun e => line (e.1 % 2 ^ 128))).map (fun e => .copy e.1 none) ++ [.store x.2.at_ (leBytes 8 (setBits x.2.e 12 12 (bit hb))) 0],
     fun s => [.maps (s.maps.dropTlb asid x.1 (pageFrames x.2.level))]]

/-- The regions change their bias, and accesses to them no longer park (R203 steps 4 and 5). -/
def Maps.flipped (m : Maps) (rs : List Nat) (hb : Bool) : Maps :=
  { m with flips := m.flips.filter (fun r => !rs.contains r), hostBias := rs.foldl (fun x r => Sparse.set false x r hb) m.hostBias }

/-- A BIAS that has started (R203, R363), one region after another: new accesses to the region park, transfers end their chunks and what was on its way is performed, then the region flips and parked work resumes. A region that is no longer translated to TIER 0 is passed over. (DESIGN CHOICE, assumption log 25) -/
def State.biasStep (s : State) (a : Active) : Option (List Act) :=
  let move := fun (w : Work) (s : State) => [Act.sun { s.sun with active := s.sun.active.map (fun x => if x = a then { a with work := w } else x) }]
  match a.work with
  | .bias va stop hb =>
    if stop ≤ va then some (s.complete a 0 0)
    else
      let u := s.biasUnit a.asid va
      let rs := regionsOf u.2
      let done := move (.bias u.1 stop hb)
      if !u.2.all (fun x => x.2.res && decide (x.2.tier = 0)) then some (s.chain [fun s => [.maps { s.maps with flips := [] }], done])
      else if rs.any (fun r => !s.maps.flips.contains r) then some [.maps { s.maps with flips := (s.maps.flips ++ rs).eraseDups }]
      else if !u.2.all (fun x => s.pageQuiet x.2.span.1 x.2.span.2) then none
      else some (s.chain (u.2.map (fun x s => s.flipPage a.asid x hb) ++ [fun s => [.maps (s.maps.flipped rs hb)], done]))
  | _ => none

/-- BIAS's body. (DESIGN CHOICE, assumption log 25) -/
def biasBody : Body := fun p s =>
  let n := p.num 0x18 8
  let va := p.num 0x10 8 / 2 ^ 21 * 2 ^ 21
  let hb := flagOf (p.num 0x20 8) 0
  if n = 0 ∨ 4096 < n then .error (.code 0x01 0x18)
  else
    match s.biasPages p.asid va (n * 2 ^ 21) with
    | none => .error (.code 0x05 0x10)
    | some _ => .ok [.active (p.active (.bias va (va + n * 2 ^ 21) hb))]
/-- BIAS (R203, R363). Flips 2 MiB regions between device and host bias, in ascending order. -/
def execBias (queue index : Nat) (s : State) : Host.Outcome State Fault Refusal := s.packet queue index .bias true biasBody

/-! ### CAP (R322, R364, R365) -/

/-- A list with some places replaced from an index on. (DEDUCED, assumption log 46) -/
def putFrom {α : Type} (l : List α) (d : α) (first : Nat) (xs : List α) : List α :=
  (List.range (max l.length (first + xs.length))).map (fun i => if first ≤ i ∧ i < first + xs.length then xs.getD (i - first) d else l.getD i d)

/-- A CAP that has started completes (R364, R365): every pack of the launch, and the launch itself, has the new entries; one that an instruction has used already keeps its charge. (DEDUCED, assumption log 46) -/
def State.capStep (s : State) (a : Active) : Option (List Act) :=
  match a.work with
  | .caps no first es => some (s.chain
      [fun s => .launch no { s.launch no with caps := putFrom (s.launch no).caps {} first es }
          :: (s.packsOf no).flatMap (fun e => es.zipIdx.flatMap (fun c =>
            let k := e.1 * 64 + first + c.2
            [.cap k ((Sparse.get none s.fab.fresh k).getD c.1), .fresh k none])),
       fun s => s.complete a 0 0])
  | _ => none

/-- CAP's body: from its start until its completion an instruction uses the old entry or the new one (R365), as the hardware chooses (DESIGN CHOICE, assumption log 88). A bad entry is refused before any changes. (DEDUCED, assumption log 46) -/
def capBody : Body := bodyOf (fun p s => do
  let first := p.num 0x18 4
  let n := p.num 0x1C 4
  sdNeed (decide (first < 64)) 0x01 0x18
  sdNeed (decide (1 ≤ n) && decide (n ≤ 64 - first)) 0x01 0x1C
  match s.runningLaunch p.asid (p.num 0x10 8) with
  | none => pure (fun s => s.completeNow p 0 0)
  | some no =>
    let bs ← s.sdRead p.asid (p.num 0x20 8) (32 * n) 0x20
    let xs := (entriesOf 32 bs).map capOf
    match capFault xs with
    | some off => sdFail 0x03 (inTable off)
    | none => pure (fun s => (s.packsOf no).flatMap (fun e => xs.zipIdx.map (fun c => .fresh (e.1 * 64 + first + c.2) (some c.1))) ++ [.active (p.active (.caps no first xs))]))
/-- CAP (R364). Replaces capability entries of a launch's packs. -/
def execCap (queue index : Nat) (s : State) : Host.Outcome State Fault Refusal := s.packet queue index .cap true capBody

/-! ### PERSIST (R366) -/

/-- The dirty lines of a range's SCM pages with P = 0. (DESIGN CHOICE, assumption log 54) -/
def State.persistLines (s : State) (asid va len : Nat) : List Nat :=
  ((s.leavesIn asid va len).filter (fun x => x.2.res && decide (x.2.tier = 1) && !x.2.p)).flatMap (fun x =>
    let lo := max va x.1
    let hi := min (va + len) (x.1 + 2 ^ pageBits x.2.level)
    let key := frameKey 1 x.2.frame
    (s.mem.dirty.filter (fun e => decide (lineOf (key + (lo - x.1)) ≤ e.1) && decide (e.1 ≤ lineOf (key + (hi - 1 - x.1))))).map (fun e => e.1))

/-- The persist-writes a PERSIST of a queue waits for are accepted: those of no epoch from before it, and those of the queue's completed launches. (DESIGN CHOICE, assumption log 54) -/
def State.persistDone (s : State) (q upto : Nat) : Bool :=
  s.transit.all (fun e => decide (upto ≤ e.1)
    || (!e.2.slices.isEmpty && e.2.slices.all (fun y => decide ((s.packOf y.1).queue ≠ q) || (s.launch (s.packOf y.1).launch).here)))

/-- A PERSIST that has started. -/
def State.persistStep (s : State) (a : Active) : Option (List Act) :=
  match a.work with
  | .persist upto => if s.persistDone a.queue upto then some (s.complete a 0 0) else none
  | _ => none

/-- PERSIST's body. (DESIGN CHOICE, assumption log 54) -/
def persistBody : Body := fun p s =>
  let va := p.num 0x10 8
  let len := p.num 0x18 8
  let xs := s.leavesIn p.asid va len
  if va ≠ 0 ∧ (coveredBytes va len xs < len ∨ xs.any (fun x => !leafOk x.2.e x.2.level)) then .error (.code 0x05 0x10)
  else .ok ((if va = 0 ∨ len = 0 then [] else ((s.persistLines p.asid va len).eraseDups).flatMap s.cleanActs) ++ [.active (p.active (.persist s.opq.next))])
/-- PERSIST (R366). Writes back a range of SCM pages and completes when earlier persist-writes have been accepted. -/
def execPersist (queue index : Nat) (s : State) : Host.Outcome State Fault Refusal := s.packet queue index .persist true persistBody

end Sys2Proof.Machine
end

