-- ==== Sys2Proof/Machine/Sett.lean ====
section
/-! DEFINITION. Steps, snapshots and shard rebuild (15_recovery R388 to R403): STEP, SNAPREGION, the Sett engines' page copies, completion and reports, parity folds, and rebuilds from the side of the spare and of the survivors. Sett's persist-writes carry the epochs of four slices of pack 0, one for each die. -/
namespace Sys2Proof.Machine

/-! ### Pages, rings and images (R391, R392) -/

/-- Bytes of a 64 KiB page. -/
def pageLen : Nat := 65536

/-- A ring: its VA and the pages of its region. -/
structure Ring where
  at_ : Nat
  pages : Nat
  deriving DecidableEq, Repr

/-- The ring of a region. -/
def Region.rg (r : Region) : Ring := ⟨r.ring, r.len / pageLen⟩
/-- T of R391. -/
def Ring.tags (r : Ring) : Nat := (32 * r.pages + 65535) / 65536 * 65536
/-- VA of the tags of page p. -/
def Ring.tagAt (r : Ring) (p : Nat) : Nat := r.at_ + 0x10000 + 32 * p
/-- VA of slot k of page p. -/
def Ring.slotAt (r : Ring) (p k : Nat) : Nat := r.at_ + 0x10000 + r.tags + (4 * p + k) * pageLen
/-- Bytes of the ring. -/
def Ring.len (r : Ring) : Nat := 65536 + r.tags + 4 * pageLen * r.pages

/-- Snapshot state of an address space. -/
def State.steps (s : State) (asid : Nat) : Steps := Sparse.get {} s.sett.asids asid
/-- Its change. -/
def State.setSteps (s : State) (asid : Nat) (v : Steps) : Act := .sett { s.sett with asids := Sparse.set {} s.sett.asids asid v }

/-- Bytes Sundesh reads, zero where the address does not translate. -/
def State.peek (s : State) (asid va n : Nat) : List Byte := ((s.sunRead (some asid) va n).bytes?).getD (zeros n)
/-- A doubleword Sundesh reads. -/
def State.peek64 (s : State) (asid va : Nat) : Nat := leNat (s.peek asid va 8)

/-- The four tags of a page: the snapshot numbers of the valid ones. -/
def State.tagsOf (s : State) (asid : Nat) (r : Ring) (p : Nat) : List (Option Nat) :=
  (entriesOf 8 (s.peek asid (r.tagAt p) 32)).map (fun e => if flagOf (leNat e) 63 then some (leNat e % 2 ^ 63) else none)

/-- The slot that holds the image of snapshot m: the valid one with the largest tag not above m. -/
def imageSlot (tags : List (Option Nat)) (m : Nat) : Option Nat :=
  ((tags.zipIdx.filterMap (fun t => match t.1 with
    | some n => if n ≤ m then some (n, t.2) else none
    | none => none)).foldl (fun b t => match b with
      | none => some t
      | some x => some (if x.1 < t.1 then t else x)) none).map (fun t => t.2)

/-- The slots that hold none of some images. -/
def openSlots (tags : List (Option Nat)) (keep : List Nat) : List Nat :=
  (List.range 4).filter (fun k => keep.all (fun m => decide (imageSlot tags m ≠ some k)))

/-- A 64 KiB page as Sett reads it at its home: its bytes, the lines of it that are marked (R428), and the acts of the read. None while it is not resident. -/
def State.page64 (s : State) (asid va : Nat) : Option (List Byte × List Nat × List Act) :=
  match s.walk asid va with
  | .error _ => none
  | .ok p =>
    if p.res && decide (p.tier ≤ 1) then
      let key := p.key va
      some (s.bytesFrom key pageLen p.keyid 0, (List.range 1024).filter (fun i => s.marked (lineOf key + i)), if s.foreign key pageLen p.keyid then [.draw 1] else [])
    else none

/-- The die whose Sett copies a page: that of its home. -/
def State.pageDie (s : State) (asid va : Nat) : Nat :=
  match s.walk asid va with
  | .ok p => if p.res then homeDie (p.key va) else 0
  | .error _ => 0

/-- ASID and VA of a page key. -/
def pageAsid (k : Nat) : Nat := k / 2 ^ 41
/-- VA of a page key. -/
def pageVa (k : Nat) : Nat := k % 2 ^ 41 * 2 ^ 16

/-- Bytes XORed. -/
def xorBytes (a b : List Byte) : List Byte := List.zipWith (fun x y => x ^^^ y) a b

/-- Sundesh writes at a VA of an address space; a write that cannot be made is not made. -/
def State.put (s : State) (asid va : Nat) (bs : List Byte) : List Act := (s.sunWrite (some asid) va bs).acts

/-- The epoch of a Sett engine's persist-writes. -/
def State.settEpoch (s : State) (d : Nat) : List (Nat × Nat) := [(d, (s.slice d).epoch)]

/-- A slot of a page is written (R392): the tag is cleared, the data are written and the tag is set to n, with dev-scope persist barriers between. -/
def State.fillSlot (s : State) (d asid : Nat) (r : Ring) (p k n : Nat) (data : List Byte) (marks : List Nat) : List Act :=
  let w := fun (va : Nat) (bs : List Byte) (psn : List Nat) (s : State) => (s.sunWriteAs (some asid) va bs psn (s.settEpoch d)).acts
  s.chain
    [w (r.tagAt p + 8 * k) (zeros 8) [],
     fun _ => [.slice d (.pbar 4)],
     w (r.slotAt p k) data (marks.map (fun i => r.slotAt p k / 64 + i)),
     fun _ => [.slice d (.pbar 4)],
     w (r.tagAt p + 8 * k) (leBytes 8 (2 ^ 63 + n)) []]

/-- A slot of a page can be written now. -/
def State.slotReady (s : State) (asid : Nat) (r : Ring) (p k : Nat) : Bool :=
  [r.tagAt p, r.slotAt p k].all (fun va => match s.sunWrite (some asid) va (zeros 8) with
    | .ok _ _ => true
    | _ => false)

/-! ### The stripe-group descriptor (R397) -/

/-- A descriptor as read. -/
structure StripeGroup where
  ndata : Nat
  npar : Nat
  shlen : Nat
  shva : Nat
  pring : Nat
  stage : Nat
  /-- device, job position and LOST of each member -/
  members : List (Nat × Nat × Bool)
  coef : List Nat
  deriving DecidableEq, Repr

/-- A descriptor's bytes. -/
def stripeGroupOf (bs : List Byte) : StripeGroup :=
  let n := numAt bs 0 4
  let k := numAt bs 4 4
  { ndata := n, npar := k, shlen := numAt bs 8 8, shva := numAt bs 0x10 8, pring := numAt bs 0x18 8, stage := numAt bs 0x20 8
    members := ((entriesOf 8 (bs.drop 0x40)).take (min 20 (n + k))).map (fun e => let x := leNat e; (x % 2 ^ 12, bitsOf x 31 12, flagOf x 32))
    coef := ((bs.drop 0x100).take 64).map (fun b => b.toNat) }

/-- A descriptor that R397 and its layout allow. -/
def StripeGroup.ok (g : StripeGroup) : Bool :=
  decide (1 ≤ g.ndata) && decide (g.ndata ≤ 16) && decide (1 ≤ g.npar) && decide (g.npar ≤ 4) && decide (g.shlen % pageLen = 0)

/-- The descriptor at a VA. -/
def State.groupAt (s : State) (asid desc : Nat) : Option StripeGroup :=
  match s.sunRead (some asid) desc 0x140 with
  | .ok bs _ => let g := stripeGroupOf bs; if g.ok then some g else none
  | _ => none

/-- c(j, i). -/
def StripeGroup.c (g : StripeGroup) (j i : Nat) : Nat := g.coef.getD (16 * j + i) 0
/-- Device of a member. -/
def StripeGroup.device (g : StripeGroup) (m : Nat) : Nat := (g.members.getD m (0, 0, false)).1
/-- Job position of a member. -/
def StripeGroup.pos (g : StripeGroup) (m : Nat) : Nat := (g.members.getD m (0, 0, false)).2.1
/-- LOST of a member. -/
def StripeGroup.isLost (g : StripeGroup) (m : Nat) : Bool := (g.members.getD m (0, 0, false)).2.2
/-- The members. -/
def StripeGroup.all (g : StripeGroup) : List Nat := List.range (g.ndata + g.npar)
/-- The member a device is. -/
def StripeGroup.member (g : StripeGroup) (dev : Nat) : Option Nat := g.all.find? (fun m => decide (g.device m = dev))
/-- Pages of a shard. -/
def StripeGroup.pages (g : StripeGroup) : Nat := g.shlen / pageLen
/-- The parity ring. -/
def StripeGroup.ring (g : StripeGroup) : Ring := ⟨g.pring, g.pages⟩
/-- The parity a member holds. -/
def StripeGroup.parity (g : StripeGroup) (m : Nat) : Option Nat := if m < g.ndata then none else some (m - g.ndata)
/-- Staging address of a page for snapshot n. -/
def StripeGroup.stageAt (g : StripeGroup) (n p : Nat) : Nat := g.stage + n % 2 * g.shlen + p * pageLen

/-! ### Coefficients of a rebuild (R401, R402) -/

/-- Determinant over GF(2^8), by the first row. -/
def gfDet : Nat → List (List Nat) → Nat
  | 0, _ => 1
  | n + 1, m => match m with
    | [] => 1
    | row :: rest => (row.zipIdx.map (fun x => gfMul x.1 (gfDet n (rest.map (fun r => r.eraseIdx x.2))))).foldl (fun a b => a ^^^ b) 0

/-- The inverse of a nonzero element. -/
def gfInv (a : Nat) : Nat := ((List.range 256).find? (fun b => decide (gfMul a b = 1))).getD 0

/-- The lost data members and the parity members that stand in for them: the lowest-numbered surviving ones, one for each. -/
def StripeGroup.standIns (g : StripeGroup) : List Nat × List Nat :=
  let lost := (List.range g.ndata).filter g.isLost
  (lost, ((List.range g.npar).filter (fun j => !g.isLost (g.ndata + j))).take lost.length)

/-- The coefficient with which parity j enters the rebuild of data member d: an entry of the inverse of c over the stand-ins. -/
def StripeGroup.parityCoef (g : StripeGroup) (d j : Nat) : Nat :=
  let x := g.standIns
  let row := fun (j : Nat) => x.1.map (fun i => g.c j i)
  let full := gfDet x.1.length (x.2.map row)
  let minor := gfDet (x.1.length - 1) ((x.2.filter (fun k => decide (k ≠ j))).map (fun k => ((x.1.zip (row k)).filter (fun e => decide (e.1 ≠ d))).map (fun e => e.2)))
  gfMul (gfInv full) minor

/-- The coefficient of survivor m in the rebuild of a lost member: none when it sends nothing. -/
def StripeGroup.sendCoef (g : StripeGroup) (lost m : Nat) : Option Nat :=
  if g.isLost m then none
  else
    match g.parity lost, g.parity m with
    | some j, none => some (g.c j m)
    | some _, some _ => none
    | none, some j => if g.standIns.2.contains j then some (g.parityCoef lost j) else none
    | none, none => some ((g.standIns.2.map (fun j => gfMul (g.parityCoef lost j) (g.c j m))).foldl (fun a b => a ^^^ b) 0)

/-- The members that contribute to a rebuild. -/
def StripeGroup.senders (g : StripeGroup) (lost : Nat) : Nat := (g.all.filter (fun m => (g.sendCoef lost m).isSome)).length

/-! ### Firmware channels (R396, R398) -/

/-- Sundesh sends bytes to a remote VA, as a put (op 0) or as a GF(2^8) reduction (op 2) whose products are formed here. `n` is the snapshot whose delta they are. (DEDUCED, assumption log 52) -/
def State.fwSend (s : State) (asid n op dev : Nat) (group : Option Nat) (remote : Nat) (payload : List Byte) (marks : List Nat) : List Act :=
  let b : BulkOp := { pack := 0, slice := 0, chan := 64, op := op, red := if op = 2 then 4 else 0, coef := 0, remote := remote, loc := 0, len := payload.length, rword := none, lword := none,
                      low := false, pod := s.podNo, dev := dev, group := group, ck := 0, fw := some (asid, n) }
  let ps := (List.range b.count).map (fun i => { b.packet i with stage := .sent })
  .bulkOp { b with next := b.count, pkts := ps } :: ps.map (fun p =>
    let off := p.va - remote
    .addReq { slice := 0, lane := 0, iid := 0, core := 0, kind := .bulk s.fab.nextBulk p.no, state := .queued, va := p.va, key := farBase, size := p.len, data := (payload.drop off).take p.len,
              tier := 3, asid := asid, due := some s.remoteDue, chan := some 64, dev := s.podNo * 2 ^ 12 + dev, marks := marks.filterMap (fun i => if off < 64 * (i + 1) ∧ 64 * i < off + p.len then some (64 * i - off, min (64 * (i + 1) - off) p.len - (64 * i - off)) else none) })

/-- Mul of R159 on every byte. -/
def mulBytes (c : Nat) (bs : List Byte) : List Byte := bs.map (fun d => BitVec.ofNat 8 (gfMul c d.toNat))

/-- A field of the descriptor is written here and on every other member that is not lost. -/
def State.tellMembers (s : State) (asid desc : Nat) (g : StripeGroup) (off : Nat) (bs : List Byte) : List Act :=
  s.chain ((fun s => s.put asid (desc + off) bs)
    :: g.all.filterMap (fun m => if g.isLost m || decide (g.device m = s.devNo) then none else some (fun (s : State) => s.fwSend asid 0 0 (g.device m) none (desc + off) bs [])))

/-! ### Reports and G (R395, R396) -/

/-- What the rings of an address space say of its job: NDEV, POS, MCG and REPVA, from a region's ring, else from the parity ring of a descriptor the device knows. -/
def State.jobRing (s : State) (asid : Nat) : Option (Nat × Nat × Nat × Nat) :=
  match s.sett.regions.find? (fun r => decide (r.asid = asid)) with
  | some r => some (r.ndev, r.pos, r.mcg, r.repva)
  | none =>
    (s.sett.stripes.filter (fun x => decide (x.asid = asid))).findSome? (fun x => (s.groupAt asid x.desc).bind (fun g =>
      let bs := s.peek asid g.pring 0x18
      if numAt bs 0 4 = 0x9C9A5 then some (numAt bs 4 4, numAt bs 8 4, numAt bs 0xC 4, numAt bs 0x10 8) else none))

/-- The stripes of which this device holds parity, with the member it is. -/
def State.parityOf (s : State) (asid : Nat) : List (Stripe × StripeGroup × Nat) :=
  (s.sett.stripes.filter (fun x => decide (x.asid = asid))).filterMap (fun x => (s.groupAt asid x.desc).bind (fun g =>
    (g.member s.devNo).bind (fun m => if (g.parity m).isSome && !g.isLost m then some (x, g, m) else none)))

/-- The rings of an address space: those of its regions, and the parity rings of the groups of which the device holds parity. (DEDUCED, assumption log 57) -/
def State.ringsOf (s : State) (asid : Nat) : List Nat :=
  ((s.sett.regions.filter (fun r => decide (r.asid = asid))).map (fun r => r.ring) ++ (s.parityOf asid).map (fun x => x.2.1.pring)).eraseDups

/-- FOLD as the device reports it: LOCAL where it holds no parity (R396). -/
def State.foldOf (s : State) (asid : Nat) : Nat :=
  match (s.parityOf asid).map (fun x => x.1.fold) with
  | [] => (s.steps asid).local_
  | f :: fs => fs.foldl min f

/-- The LOCAL and FOLD of a position in the report block. -/
def State.reportOf (s : State) (asid repva pos : Nat) : Nat × Nat := (s.peek64 asid (repva + 16 * pos), s.peek64 asid (repva + 16 * pos + 8))

/-- An entry of the report block, or the front of one, is written here and on every device of the job. -/
def State.postReport (s : State) (asid pos : Nat) (bs : List Byte) : List Act :=
  match s.jobRing asid with
  | none => []
  | some (ndev, _, mcg, repva) => s.chain [fun s => s.put asid (repva + 16 * pos) bs, fun s => if ndev = 1 then [] else s.fwSend asid 0 0 0 (some (mcg % 2 ^ 12)) (repva + 16 * pos) bs []]
/-- The device reports its LOCAL and FOLD. -/
def State.report (s : State) (asid : Nat) : List Act :=
  match s.jobRing asid with
  | none => []
  | some (_, pos, _, _) => s.postReport asid pos (leBytes 8 (s.steps asid).local_ ++ leBytes 8 (s.foldOf asid))

/-- A rebuild of a parity member holds G (R402): at r once it is known, else where it stands. -/
def State.gHeld (s : State) (asid : Nat) : Option Nat :=
  let held := fun (desc lost : Nat) (r : Option Nat) => match s.groupAt asid desc with
    | some g => if (g.parity lost).isSome then some (r.getD (s.steps asid).g) else none
    | none => none
  let a := (s.sett.helps.filter (fun h => decide (h.asid = asid))).filterMap (fun h => held h.desc h.lost h.r)
  let b := (s.sett.rebuilds.filter (fun h => decide (h.asid = asid))).filterMap (fun h => held h.desc h.lost h.r)
  match a ++ b with
  | [] => none
  | x :: xs => some (xs.foldl min x)

/-- G as the report block gives it now: the least of min(LOCAL, FOLD) over the entries that are not LOST; without a ring, this device's own LOCAL. -/
def State.gNow (s : State) (asid : Nat) : Nat :=
  match s.jobRing asid with
  | none => (s.steps asid).local_
  | some (ndev, _, _, repva) =>
    let xs := (List.range ndev).filterMap (fun i => let e := s.reportOf asid repva i; if flagOf e.1 63 then none else some (min e.1 e.2))
    match xs with
    | [] => (s.steps asid).g
    | x :: xs => xs.foldl min x

/-- G after what is known now: it never decreases, and a rebuild may hold it. -/
def State.gNext (s : State) (asid : Nat) : Nat :=
  let x := s.steps asid
  let g := match s.gHeld asid with
    | some h => min (s.gNow asid) h
    | none => s.gNow asid
  max x.g g

/-- G changes, and GLOBAL is written in the device's rings. -/
def State.gActs (s : State) (asid : Nat) : List Act :=
  let g := s.gNext asid
  if g = (s.steps asid).g then []
  else
    s.chain ((fun s => [s.setSteps asid { s.steps asid with g := g }])
      :: (s.ringsOf asid).map (fun r s => s.put asid (r + 0x38) (leBytes 8 g)))

/-! ### Images that stay (R392) -/

/-- The snapshots whose images a ring that names a descriptor must keep: pinned ones, G and the latest local one. Before r is known a survivor keeps the two it can be (R401). -/
def State.keeps (s : State) (asid desc latest : Nat) : List Nat :=
  (s.sett.helps.filter (fun h => decide (h.asid = asid) && decide (h.desc = desc))).flatMap (fun h => match h.r with
    | some r => [r]
    | none => [h.last + 1, h.last + 2])
    ++ [(s.steps asid).g, latest]

/-! ### SETT_PAGE_COPY (R394, R398) -/

/-- The region of a page. -/
def State.regionAt (s : State) (asid va : Nat) : Option Region := s.sett.regions.find? (fun r => decide (r.asid = asid) && decide (r.va ≤ va) && decide (va < r.va + r.len))

/-- A pending page that has a free slot and whose page and ring are there. -/
def State.copyReady (s : State) (asid va : Nat) : Bool :=
  match s.regionAt asid va with
  | none => false
  | some r =>
    let p := (va - r.va) / pageLen
    let ks := openSlots (s.tagsOf asid r.rg p) (s.keeps asid r.stripe (s.steps asid).local_)
    decide (Sparse.get 0 s.sett.pending (pageKey asid va) ≠ 0) && (s.page64 asid va).isSome && !ks.isEmpty && ks.all (s.slotReady asid r.rg p)

/-- A write waits for a pending page: of a lane, a Marten copy, the fabric or the host. -/
def State.pageAwaited (s : State) (k : Nat) : Bool :=
  let asid := pageAsid k
  let here := fun (va : Nat) => decide (va / 2 ^ 16 * 2 ^ 16 = pageVa k)
  let onKey := fun (key : Nat) => decide (Sparse.get 0 s.sett.frames (key / 2 ^ 16) = k + 1)
  s.reqs.any (fun e => e.2.writes && ((decide (e.2.state = .parked) && decide (e.2.asid = asid) && here e.2.va) || (e.2.waiting && onKey e.2.key)))
    || s.jobs.any (fun j => j.flight.any (fun f => f.2.any (fun q => q.dst.any (fun d => onKey d.1))))
    || s.cpy.queues.any (fun e => e.2.park && (s.copyWants e.1).any (fun x => decide (x.1 = asid) && here x.2))
    || s.fab.inbound.any (fun x => decide (x.p.op ≠ 1) && decide (x.p.asid = asid) && decide (x.p.va / 2 ^ 16 ≤ pageVa k / 2 ^ 16) && decide (pageVa k < x.p.va + x.p.len))
    || s.fab.access.any (fun e => decide (e.1.kind ≠ 0) && decide (e.1.asid = asid) && here e.1.va)
    || s.dev.writes.any (fun w => onKey w.1)

/-- The page a die's Sett copies next for an address space: one that a write waits for, else the lowest. -/
def State.copyTurns (s : State) : List (Nat × Nat) :=
  let ks := s.sett.pending.map (fun e => e.1)
  let first := fun (k : Nat) =>
    let mates := ks.filter (fun j => decide (pageAsid j = pageAsid k) && decide (s.pageDie (pageAsid j) (pageVa j) = s.pageDie (pageAsid k) (pageVa k)))
    s.pageAwaited k || mates.all (fun j => decide (k ≤ j) && !s.pageAwaited j)
  (ks.filter (fun k => first k && s.copyReady (pageAsid k) (pageVa k))).map (fun k => (pageAsid k, pageVa k))

/-- The bytes and marks of the image of snapshot m of a page; zeros when there is none. -/
def State.imageOf (s : State) (asid : Nat) (r : Ring) (p m : Nat) : List Byte × List Nat :=
  match (imageSlot (s.tagsOf asid r p) m).bind (fun k => s.page64 asid (r.slotAt p k)) with
  | some (bs, marks, _) => (bs, marks)
  | none => (zeros pageLen, [])

/-- The parity members, and spares that stand in for lost ones, to which the delta of a page goes (R398, R402): parity and device. -/
def State.deltaTargets (s : State) (asid desc n p : Nat) (g : StripeGroup) : List (Nat × Nat) :=
  (List.range g.npar).filterMap (fun j =>
    if !g.isLost (g.ndata + j) then some (j, g.device (g.ndata + j))
    else (s.sett.helps.find? (fun h => decide (h.asid = asid) && decide (h.desc = desc) && decide (h.lost = g.ndata + j) && !h.pages.contains p && (match h.r with
      | some r => decide (r < n)
      | none => false))).map (fun h => (j, h.spare)))

/-- The delta of snapshot n of a page goes to the parity members (R398). -/
def State.sendDelta (s : State) (asid n p : Nat) (g : StripeGroup) (i : Nat) (new old : List Byte) (marks : List Nat) (dests : List (Nat × Nat)) : List Act :=
  s.chain (dests.map (fun t s => s.fwSend asid n 2 t.2 none (g.stageAt n p) (mulBytes (g.c t.1 i) (xorBytes new old)) marks))

/-- A page of a snapshot region is copied for the snapshot it is pending for. -/
def State.copyActs (s : State) (asid va : Nat) (r : Region) : List Act :=
  let n := Sparse.get 0 s.sett.pending (pageKey asid va)
  let p := (va - r.va) / pageLen
  let ks := openSlots (s.tagsOf asid r.rg p) (s.keeps asid r.stripe (s.steps asid).local_)
  let k := ks.getD (s.pick 0 ks.length) 0
  let old := s.imageOf asid r.rg p (n - 1)
  match s.page64 asid va with
  | none => []
  | some (new, marks, free) =>
    let deltas : List Act := match s.groupAt asid r.stripe with
      | none => []
      | some g => match g.member s.devNo with
        | none => []
        | some i => if g.ndata ≤ i ∨ r.stripe = 0 then [] else s.sendDelta asid n p g i new old.1 (marks ++ old.2) (s.deltaTargets asid r.stripe n p g)
    deltas ++ s.chain
      [fun s => s.fillSlot (s.pageDie asid va) asid r.rg p k n new marks,
       fun s => [.sett { s.sett with pending := Sparse.set 0 s.sett.pending (pageKey asid va) 0 }],
       fun _ => free ++ [.draw 1]]

/-- A page that a survivor still has to send for a rebuild (R401, R402): the helped rebuild, the descriptor, this member, its ring and the page. -/
def State.sendDue (s : State) (asid va : Nat) : Option (Help × StripeGroup × Nat × Ring × Nat) :=
  (s.sett.helps.filter (fun h => decide (h.asid = asid) && h.r.isSome)).findSome? (fun h => (s.groupAt asid h.desc).bind (fun g => (g.member s.devNo).bind (fun m =>
    let ring := match s.regionAt asid g.shva with
      | some r => if m < g.ndata then r.rg else g.ring
      | none => g.ring
    let p := (va - g.shva) / pageLen
    if g.shva ≤ va && h.pages.contains p && decide (((imageSlot (s.tagsOf asid ring p) (h.r.getD 0)).map (fun k => (s.page64 asid (ring.slotAt p k)).isSome)).getD true) then some (h, g, m, ring, p) else none)))

/-- A survivor sends its pinned page times its coefficient; to a parity spare also the deltas of its later snapshots (R401, R402). -/
def State.sendActs (s : State) (h : Help) (g : StripeGroup) (m : Nat) (ring : Ring) (p : Nat) : List Act :=
  let r := h.r.getD 0
  let img := s.imageOf h.asid ring p r
  let target := match g.parity h.lost with
    | none => g.shva + p * pageLen
    | some _ => g.ring.slotAt p 0
  let later := match g.parity h.lost with
    | none => []
    | some j => if g.ndata ≤ m then [] else (((s.tagsOf h.asid ring p).filterMap id).filter (fun n => decide (r < n))).map (fun n => (j, n))
  s.chain
    ((fun s => match g.sendCoef h.lost m with
        | some c => s.fwSend h.asid 0 2 h.spare none target (mulBytes c img.1) img.2
        | none => [])
      :: later.map (fun x s =>
        let a := s.imageOf h.asid ring p x.2
        let b := s.imageOf h.asid ring p (x.2 - 1)
        s.fwSend h.asid 0 2 h.spare none (g.stageAt x.2 p) (mulBytes (g.c x.1 m) (xorBytes a.1 b.1)) (a.2 ++ b.2))
      ++ [fun s => [.sett { s.sett with helps := s.sett.helps.map (fun x => if x = h then { x with pages := x.pages.filter (fun q => decide (q ≠ p)) } else x) }]])

/-- SETT_PAGE_COPY (R392, R394, R398). Sett copies a pending page into a ring slot and sends its parity deltas; a survivor of a rebuild sends the pinned image of a page (R401). -/
def execSettPageCopy (asid : Nat) (va : Nat) (s : State) : Host.Outcome State Fault Refusal :=
  match s.regionAt asid va with
  | some r => if s.copyReady asid va then event s (s.copyActs asid va r) else
    (match s.sendDue asid va with
      | some x => event s (s.sendActs x.1 x.2.1 x.2.2.1 x.2.2.2.1 x.2.2.2.2)
      | none => event s [])
  | none =>
    match s.sendDue asid va with
    | some x => event s (s.sendActs x.1 x.2.1 x.2.2.1 x.2.2.2.1 x.2.2.2.2)
    | none => event s []

/-! ### Rebuilds: what is learnt (R400 to R403) -/

/-- r is known once G allows it: the first G of at least L + 1 for a data member, G for a parity member. -/
def State.rebuildStart (s : State) (x : Rebuild) : List Act :=
  let g := (s.steps x.asid).g
  match s.groupAt x.asid x.desc with
  | none => []
  | some d =>
    if x.r.isSome || (decide (d.parity x.lost = none) && decide (g < x.last + 1)) then []
    else s.chain
      [fun s => [.sett { s.sett with rebuilds := s.sett.rebuilds.map (fun y => if y = x then { x with r := some g } else y) }],
       fun s => s.tellMembers x.asid x.desc d 0x30 (leBytes 8 g)]

/-- What follows a change of the report block: G, and rebuilds whose snapshot is now known. -/
def State.settNews (s : State) (asid : Nat) : List Act :=
  s.chain ((fun s => s.gActs asid) :: (s.sett.rebuilds.filter (fun x => decide (x.asid = asid))).map (fun x s => s.rebuildStart x))

/-- The pages the spare's part is built in are zeroed: the shard, or slot 0 of each page of the parity ring (R401, R402). -/
def State.zeroActs (s : State) (asid lost : Nat) (g : StripeGroup) : List Act :=
  match g.parity lost with
  | none => s.put asid g.shva (zeros g.shlen)
  | some _ => s.chain ((List.range g.pages).flatMap (fun p => [fun (s : State) => s.put asid (g.ring.tagAt p) (zeros 32), fun (s : State) => s.put asid (g.ring.slotAt p 0) (zeros pageLen)]))

/-- Another member is lost during a rebuild on this spare (R403): it begins again, or completes with CODE 0x0A when the survivors no longer suffice. -/
def State.restartActs (s : State) (x : Rebuild) : List Act :=
  match s.groupAt x.asid x.desc with
  | none => []
  | some g =>
    if g.npar < (g.all.filter g.isLost).length then
      s.chain [fun s => [.sett { s.sett with rebuilds := s.sett.rebuilds.filter (fun y => decide (y ≠ x)) }],
        fun s => match s.sun.active.find? (fun a => decide (a.queue = x.queue) && decide (a.index = x.index)) with
          | some a => s.complete a 0x0A 0
          | none => []]
    else
      s.chain [fun s => s.zeroActs x.asid x.lost g, fun s => [.sett { s.sett with rebuilds := s.sett.rebuilds.map (fun y => if y = x then { x with r := none, got := [] } else y) }]]

/-- A word of a stripe descriptor has arrived from another member or a spare: LOST set or cleared, RSNAP, or DONE. (DESIGN CHOICE, assumption log 58) -/
def State.heardActs (s : State) (p : BulkPacket) (x : Stripe) : List Act :=
  let covers := fun (off : Nat) => decide (p.va ≤ x.desc + off) && decide (x.desc + off + 8 ≤ p.va + p.len)
  match s.groupAt x.asid x.desc with
  | none => []
  | some g =>
    let mine := fun (h : Help) => decide (h.asid = x.asid) && decide (h.desc = x.desc)
    let newly := (g.all.filter (fun m => covers (0x40 + 8 * m) && g.isLost m && !s.sett.helps.any (fun h => mine h && decide (h.lost = m)))).filter (fun m => decide (g.device m ≠ s.devNo))
    let back := g.all.filter (fun m => covers (0x40 + 8 * m) && !g.isLost m)
    let local_ := fun (m : Nat) => match s.jobRing x.asid with
      | some (_, _, _, repva) => (s.reportOf x.asid repva (g.pos m)).1 % 2 ^ 63
      | none => 0
    s.chain
      [fun s => if newly = [] then [] else [.sett { s.sett with
          helps := (s.sett.helps.map (fun h => if mine h then { h with r := none, pages := [] } else h)) ++ newly.map (fun m => { asid := x.asid, desc := x.desc, lost := m, spare := p.device, last := local_ m }) }],
       fun s => if newly = [] then [] else s.chain ((s.sett.rebuilds.filter (fun y => decide (y.asid = x.asid) && decide (y.desc = x.desc))).map (fun y s => s.restartActs y)),
       fun s => if back = [] then [] else [.sett { s.sett with helps := s.sett.helps.filter (fun h => !(mine h && back.contains h.lost)) }],
       fun s => if covers 0x30 then [.sett { s.sett with helps := s.sett.helps.map (fun h => if mine h && decide (h.spare = p.device) then { h with r := some (s.peek64 x.asid (x.desc + 0x30)), pages := List.range g.pages } else h) }] else [],
       fun s => if covers 0x28 && flagOf (s.peek64 x.asid (x.desc + 0x28)) 32 then [.sett { s.sett with helps := s.sett.helps.filter (fun h => !(mine h && decide (h.spare = p.device))) }] else []]

/-- A reduction has reached the pages of a rebuild on this spare: its contributed bytes are counted. -/
def State.countActs (s : State) (p : BulkPacket) (x : Rebuild) : List Act :=
  match s.groupAt x.asid x.desc with
  | none => []
  | some g =>
    let page := match g.parity x.lost with
      | none => if g.shva ≤ p.va ∧ p.va < g.shva + g.shlen then some ((p.va - g.shva) / pageLen) else none
      | some _ => (List.range g.pages).find? (fun i => decide (g.ring.slotAt i 0 ≤ p.va) && decide (p.va < g.ring.slotAt i 0 + pageLen))
    match page with
    | none => []
    | some i => [.sett { s.sett with rebuilds := s.sett.rebuilds.map (fun y => if y = x then { x with got := Sparse.set 0 x.got i (Sparse.get 0 x.got i + p.count) } else y) }]

/-- What Sundesh learns from a packet that has been performed. -/
def State.settHeard (s : State) (p : BulkPacket) : List Act :=
  s.chain
    ((if p.op = 0 then (s.sett.stripes.filter (fun x => decide (x.asid = p.asid))).map (fun x s => s.heardActs p x)
      else if p.op = 2 then (s.sett.rebuilds.filter (fun x => decide (x.asid = p.asid) && x.r.isSome)).map (fun x s => s.countActs p x) else [])
      ++ [fun s => if p.op = 0 ∧ (s.sett.regions.any (fun r => decide (r.asid = p.asid)) ∨ s.sett.stripes.any (fun x => decide (x.asid = p.asid))) then s.settNews p.asid else []])

/-! ### Bulk packets of other devices, performed (R330, R396, R401) -/

/-- BULK_PACKET_ARRIVE (R330). A packet arrives; in its channel's turn its lines are performed one by one, in an order the hardware chooses; when its persist-writes have been accepted (R239), the arrival word is raised and the acknowledgement leaves. -/
def execBulkPacketArrive (p : BulkPacket) (s : State) : Host.Outcome State Fault Refusal :=
  let answer := fun (rcode : Nat) (data : List Byte) (psn : Bool) => ({ pod := p.pod, device := p.device, tag := p.tag, rcode := rcode, data := data, psn := psn } : Reply)
  let rest : Fab := { s.fab with inbound := s.fab.inbound.filter (fun e => decide (e.p ≠ p)) }
  let keep := fun (x : Inbound) => ({ s.fab with inbound := s.fab.inbound.map (fun e => if e.p = p then x else e) } : Fab)
  match s.fab.inbound.find? (fun e => decide (e.p = p)) with
  | none => event s [.fab { s.fab with inbound := s.fab.inbound ++ [{ p := p }] }]
  | some x =>
    if !s.inboundReady p then event s []
    else if !x.started then
      match s.inboundParts p with
      | .park => event s []
      | .fault c => event s (c.note p.asid ++ s.refusedBytes p ++ [.fab (rest.reply (answer 9 [] false))])
      | .parts ps acts => event s (acts.eraseDups ++ [.fab (keep { x with started := true, parts := ps })])
    else
      let todo := x.parts.filter (fun q => q.data.isNone && s.lineFits p q)
      match todo[s.pick 0 todo.length]? with
      | some q =>
        let r := s.inboundLine x q
        event s (r.1 ++ [.draw 1, .fab (keep r.2)])
      | none =>
        let data := x.parts.flatMap (fun q => (q.data.getD ([], false)).1)
        let word := match p.raise with
          | none => some none
          | some i => (s.raisedPack p).bind (fun k => (s.arrvKey k i).map (fun key => some (k, key)))
        let fck := max s.coh.fck x.ws
        let last : List Act := match word with
          | none => [.agentClock 2 fck, .fab (rest.reply (answer 6 data x.psn))]
          | some none => [.agentClock 2 fck, .fab (rest.reply (answer 0 data x.psn))]
          | some (some (k, key)) =>
            [.agentClock 2 fck, .raise key (if p.op = 2 then p.count else p.len), .tc (2 ^ 60 + key) x.ws, .raiseObsv (s.pack k).core x.ws, .fab (rest.reply (answer 0 data x.psn))]
        event s (s.chain [fun _ => last, fun s => s.settHeard p])

/-! ### SNAPSHOT_COMPLETE (R395, R396) -/

/-- Nothing that Sett has written is still on its way to an OPQ. -/
def State.settDurable (s : State) : Bool := s.transit.all (fun e => e.2.slices.all (fun y => decide (4 ≤ y.1)))

/-- Every delta of snapshot n is acknowledged, but for those to a member that is LOST by now. (DEDUCED, assumption log 52) -/
def State.deltasDone (s : State) (asid n : Nat) : Bool :=
  s.fab.bulk.all (fun b => decide (b.fw ≠ some (asid, n)) ||
    s.sett.stripes.any (fun x => decide (x.asid = asid) && (match s.groupAt asid x.desc with
      | some g => g.all.any (fun m => g.isLost m && decide (g.device m = b.dev))
      | none => false)))

/-- The next local snapshot of an address space is complete. -/
def State.snapDone (s : State) (asid : Nat) : Bool :=
  let x := s.steps asid
  decide (x.local_ < x.frozen) && s.sett.pending.all (fun e => decide (pageAsid e.1 ≠ asid)) && s.settDurable && s.deltasDone asid x.frozen

/-- SNAPSHOT_COMPLETE (R395, R396). A local snapshot is complete: LOCAL is written in each ring and reported to the job's devices. -/
def execSnapshotComplete (asid : Nat) (s : State) : Host.Outcome State Fault Refusal :=
  let n := (s.steps asid).frozen
  if !s.snapDone asid then event s []
  else
    event s (s.chain
      ((fun s => [s.setSteps asid { s.steps asid with local_ := n }])
        :: (s.ringsOf asid).map (fun r s => s.put asid (r + 0x30) (leBytes 8 n))
        ++ [fun s => s.report asid, fun s => s.settNews asid]))

/-! ### PARITY_FOLD (R399) -/

/-- The snapshot a parity member folds next. -/
def State.foldNext (s : State) (x : Stripe) : Nat := max (x.fold + 1) (s.steps x.asid).first

/-- A stripe group by its descriptor, with what the device has folded of it. -/
def State.stripe (s : State) (asid desc : Nat) : Stripe := (s.sett.stripes.find? (fun x => decide (x.asid = asid) && decide (x.desc = desc))).getD { asid := asid, desc := desc }

/-- A descriptor becomes known to the device. -/
def Sett.learn (x : Sett) (y : Stripe) : Sett := { x with stripes := y :: x.stripes.filter (fun z => !(decide (z.asid = y.asid) && decide (z.desc = y.desc))) }

/-- A fold is due: this device holds parity of the group, and every data member that is not LOST reports the snapshot. -/
def State.foldDue (s : State) (x : Stripe) (g : StripeGroup) : Bool :=
  let n := s.foldNext x
  match g.member s.devNo, s.jobRing x.asid with
  | some m, some (_, _, _, repva) =>
    (g.parity m).isSome && !g.isLost m
      && (List.range g.ndata).all (fun i => g.isLost i || decide (n ≤ (s.reportOf x.asid repva (g.pos i)).1 % 2 ^ 63))
      && (List.range g.ndata).any (fun i => !g.isLost i)
      && (List.range g.pages).all (fun p => (s.page64 x.asid (g.stageAt n p)).isSome
        && (let ks := openSlots (s.tagsOf x.asid g.ring p) (s.keeps x.asid x.desc x.fold); !ks.isEmpty && ks.all (s.slotReady x.asid g.ring p)))
  | _, _ => false

/-- One page is folded: a new slot tagged n holds the previous parity image XOR the staging page, which is then zeroed. A page whose tag n is there already is not folded again. -/
def State.foldPage (s : State) (x : Stripe) (g : StripeGroup) (n p : Nat) : List Act :=
  match s.page64 x.asid (g.stageAt n p) with
  | none => []
  | some (bs, marks, free) =>
    let tags := s.tagsOf x.asid g.ring p
    let ks := openSlots tags (s.keeps x.asid x.desc x.fold)
    let img := s.imageOf x.asid g.ring p (n - 1)
    if bs.all (fun b => decide (b = 0)) then []
    else s.chain
      [fun s => if tags.contains (some n) then [] else s.fillSlot (s.pageDie x.asid (g.ring.slotAt p 0)) x.asid g.ring p (ks.getD (s.pick 0 ks.length) 0) n (xorBytes img.1 bs) (marks ++ img.2),
       fun s => s.put x.asid (g.stageAt n p) (zeros pageLen),
       fun _ => free ++ [.draw 1]]

/-- PARITY_FOLD (R399). A parity member folds the next snapshot's staging into its parity ring, sets FOLD and reports. The event makes a descriptor in memory known to the device. -/
def execParityFold (asid : Nat) (desc : Nat) (s : State) : Host.Outcome State Fault Refusal :=
  let x := s.stripe asid desc
  match s.groupAt asid desc with
  | none => event s []
  | some g =>
    let known : State → List Act := fun s => [.sett (s.sett.learn x)]
    if s.foldDue x g then
      let n := s.foldNext x
      event s (s.chain
        (known :: (List.range g.pages).map (fun p s => s.foldPage x g n p)
          ++ [fun s => [.sett (s.sett.learn { x with fold := n })], fun s => s.report asid, fun s => s.settNews asid]))
    else event s (known s)

/-! ### STEP (R388, R389) -/

/-- Step 3 of R388: the local snapshot before, and G, for steps this address space has marked. (DEDUCED, assumption log 56) -/
def State.stepMay (s : State) (asid n : Nat) : Bool :=
  let x := s.steps asid
  (decide (n ≤ x.first) || decide (n - 1 ≤ x.local_)) && (decide (n ≤ x.first + 1) || decide (n - 2 ≤ s.gNext asid))

/-- A die's freeze: the pages dirtied there become pending for snapshot n; with the last die the step is closed. -/
def State.freezeDie (s : State) (asid n d : Nat) : List Act :=
  let here := (s.sett.dirty.filter (fun e => decide (pageAsid e.1 = asid) && decide (s.pageDie asid (pageVa e.1) = d))).map (fun e => e.1)
  [.sett { s.sett with
      dirty := here.foldl (fun m k => Sparse.set false m k false) s.sett.dirty
      pending := here.foldl (fun m k => Sparse.set 0 m k n) s.sett.pending
      asids := if d = 3 then Sparse.set {} s.sett.asids asid { s.steps asid with frozen := n } else s.sett.asids }]

/-- RPROG of the rebuilds on this spare (R403). -/
def State.progressActs (s : State) (asid : Nat) : List Act :=
  s.chain ((s.sett.rebuilds.filter (fun x => decide (x.asid = asid))).map (fun x s => match s.groupAt asid x.desc with
    | some g => s.put asid (x.desc + 0x28) (leBytes 8 ((List.range g.pages).filter (fun p => decide (g.senders x.lost * pageLen ≤ Sparse.get 0 x.got p))).length)
    | none => []))

/-- The next stage of a STEP that has started: one die freezes after another, then it completes and its number becomes the queue's STEP register (R382). -/
def State.stepStage (s : State) (a : Active) : Option (List Act) :=
  let move := fun (w : Work) (s : State) => [Act.sun { s.sun with active := s.sun.active.map (fun x => if x = a then { a with work := w } else x) }]
  match a.work with
  | .step n job none => if s.stepMay a.asid n then some (s.chain [fun s => s.freezeDie a.asid n 0, move (.step n job (some 1))]) else none
  | .step n job (some d) =>
    if d < 4 then some (s.chain [fun s => s.freezeDie a.asid n d, move (.step n job (some (d + 1)))])
    else some (s.chain [fun _ => [.steps a.queue n], fun s => s.progressActs a.asid, fun s => s.complete a 0 0])
  | _ => none

/-- KEYIDs that valid leaf entries of an address space carry now. -/
def State.keyidsOf (s : State) (asid : Nat) : List Nat := ((s.leavesIn asid 0 (2 ^ 57)).map (fun x => x.2.keyid)).eraseDups

/-- A job's history after a STEP that names it (R387): it begins with the first. (DESIGN CHOICE, assumption log 59) -/
def State.jobStep (s : State) (queue asid job n : Nat) : Job :=
  let j := Sparse.get {} s.sun.jobs job
  if j.first = 0 then { first := n, last := n, at_ := s.us, asid := asid, queues := [queue], keyids := s.keyidsOf asid, images := [Config.sha384 (Sparse.get [] s.dev.images s.dev.fw)] }
  else { j with last := n, queues := (queue :: j.queues).eraseDups }

/-- STEP's body: the number must follow the last one (R388 step 2). (DEDUCED, assumption log 56) -/
def stepBody : Body := fun p s =>
  let n := p.num 0x10 8
  let job := p.num 0x18 8
  let x := s.steps p.asid
  if !(if x.step = 0 then decide (1 ≤ n) && decide (n ≤ 2 ^ 62) else decide (n = x.step + 1)) then .error (.code 0x03 0x10)
  else
    .ok (s.chain
      [fun s => [s.setSteps p.asid { x with step := n, first := if x.step = 0 then n else x.first }],
       fun s => [.sun { s.sun with jobs := Sparse.set {} s.sun.jobs job (s.jobStep p.queue p.asid job n) }],
       fun _ => [.active (p.active (.step n job none))],
       fun s => (s.stepStage (p.active (.step n job none))).getD []])
/-- STEP (R388). Marks a step boundary: it waits for earlier snapshots, freezes each die's Sett and completes. -/
def execStep (queue index : Nat) (s : State) : Host.Outcome State Fault Refusal := s.packet queue index .step true stepBody

/-! ### SNAPREGION (R390, R391) -/

/-- The first field of a ring header that R391 refuses. (DEDUCED, assumption log 57) -/
def State.ringFault (s : State) (asid : Nat) (bs : List Byte) : Option Nat :=
  let n := fun (o k : Nat) => numAt bs o k
  let others := s.sett.regions.filter (fun r => decide (r.asid = asid))
  let block := s.leavesIn asid (n 0x10 8) (16 * n 4 4)
  (([(0, decide (n 0 4 ≠ 0x9C9A5)), (4, decide (n 4 4 = 0) || decide (2 ^ 20 < n 4 4) || others.any (fun r => decide (r.ndev ≠ n 4 4))),
    (8, decide (n 4 4 ≤ n 8 4) || others.any (fun r => decide (r.pos ≠ n 8 4))),
    (0xC, decide (2 ^ 12 ≤ n 0xC 4) || decide ((n 4 4 = 1) ≠ (n 0xC 4 = 0xFFF)) || others.any (fun r => decide (r.mcg ≠ n 0xC 4))),
    (0x10, decide (coveredBytes (n 0x10 8) (16 * n 4 4) block < 16 * n 4 4) || block.any (fun x => decide (x.2.tier ≠ 0)) || others.any (fun r => decide (r.repva ≠ n 0x10 8)))] : List (Nat × Bool)).find? (fun f => f.2)).map (fun f => f.1)

/-- Every byte of a range lies in a valid leaf entry. -/
def State.allMapped (s : State) (asid va len : Nat) : Bool :=
  let xs := s.leavesIn asid va len
  decide (coveredBytes va len xs = len) && xs.all (fun x => leafOk x.2.e x.2.level)

/-- SNAP of the leaf entries of a range. -/
def State.snapActs (s : State) (asid va len : Nat) (b : Bool) : List Act :=
  (s.leavesIn asid va len).map (fun x => .store x.2.at_ (leBytes 8 (setBits x.2.e 62 62 (bit b))) 0)

/-- The frames of the snapshot pages are found again. -/
def State.reframe (s : State) : List Act := [.sett { s.sett with frames := s.mapFrames }]

/-- SNAPREGION add. (DEDUCED, assumption log 57) -/
def snapAddBody : Body := bodyOf (fun p s => do
  let va := p.num 0x10 8
  let len := p.num 0x18 8
  let ring := p.num 0x20 8
  let rg : Ring := ⟨ring, len / pageLen⟩
  sdNeed (s.allMapped p.asid va len) 0x05 0x10
  sdNeed (s.allMapped p.asid ring rg.len) 0x05 0x20
  let bs ← s.sdRead p.asid ring 0x40 0x20
  let _ ← s.sdRead p.asid (ring + 0x10000) (max 1 (32 * rg.pages)) 0x20
  let xs := s.leavesIn p.asid va len
  sdNeed (xs.all (fun x => decide (x.2.level ≤ 2) && decide (x.2.tier ≤ 1))) 0x03 0x10
  sdNeed (xs.all (fun x => !x.2.hb)) 0x03 0x10
  sdNeed ((s.leavesIn p.asid ring rg.len).all (fun x => decide (x.2.tier = 1) && x.2.p)) 0x03 0x20
  sdNeed (decide (s.ringFault p.asid bs = none)) 0x03 (inTable ((s.ringFault p.asid bs).getD 0))
  sdNeed (s.sett.regions.all (fun r => decide (r.asid ≠ p.asid) || decide (r.va + r.len ≤ va) || decide (va + len ≤ r.va))) 0x03 0x10
  match s.freezing p.asid with
  | true => fun _ => .error (.wait va)
  | false =>
    let r : Region := { asid := p.asid, va := va, len := len, ring := ring, ndev := numAt bs 4 4, pos := numAt bs 8 4, mcg := numAt bs 0xC 4, repva := numAt bs 0x10 8, stripe := numAt bs 0x18 8 }
    pure (fun s => s.chain
      [fun s => s.snapActs p.asid va len true,
       fun s => s.put p.asid (ring + 0x20) (leBytes 8 va ++ leBytes 8 rg.pages ++ zeros 16),
       fun s => s.put p.asid (ring + 0x10000) (zeros (32 * rg.pages)),
       fun s => [.sett { s.sett with
          regions := s.sett.regions ++ [r]
          dirty := (List.range rg.pages).foldl (fun m i => Sparse.set false m (pageKey p.asid va + i) true) s.sett.dirty
          stripes := if r.stripe = 0 then s.sett.stripes else (s.sett.learn (s.stripe p.asid r.stripe)).stripes }],
       State.reframe,
       fun s => s.completeNow p 0 0]))
/-- SNAPREGION_ADD (R390). Adds a snapshot region with its checkpoint ring. -/
def execSnapregionAdd (queue index : Nat) (s : State) : Host.Outcome State Fault Refusal := s.packet queue index .snapregionAdd true snapAddBody

/-- A page of a range is still to be copied. -/
def State.copying (s : State) (asid va len : Nat) : Bool := s.sett.pending.any (fun e => decide (pageAsid e.1 = asid) && inRange va len (pageVa e.1))

/-- A SNAPREGION remove that has started (R390): when no copy of the region is in progress, SNAP is cleared and the region is no longer tracked. -/
def State.unsnapStep (s : State) (a : Active) : Option (List Act) :=
  match a.work with
  | .unsnap va len =>
    if s.copying a.asid va len || s.freezing a.asid then none
    else some (s.chain
      [fun s => s.snapActs a.asid va len false,
       fun s => [.sett { s.sett with
          regions := s.sett.regions.filter (fun r => !(decide (r.asid = a.asid) && decide (r.va = va) && decide (r.len = len)))
          dirty := s.sett.dirty.filter (fun e => !(decide (pageAsid e.1 = a.asid) && inRange va len (pageVa e.1))) }],
       State.reframe,
       fun s => s.complete a 0 0])
  | _ => none

/-- SNAPREGION remove: a range that is no region is refused. (DEDUCED, assumption log 57) -/
def snapRemoveBody : Body := fun p s =>
  let va := p.num 0x10 8
  let len := p.num 0x18 8
  if s.sett.regions.any (fun r => decide (r.asid = p.asid) && decide (r.va = va) && decide (r.len = len)) then
    let a := p.active (.unsnap va len)
    .ok ((s.unsnapStep a).getD [.active a])
  else .error (.code 0x03 0x10)
/-- SNAPREGION_REMOVE (R390). Removes a snapshot region after copies in progress end; the ring keeps its contents. -/
def execSnapregionRemove (queue index : Nat) (s : State) : Host.Outcome State Fault Refusal := s.packet queue index .snapregionRemove true snapRemoveBody

/-! ### REBUILD (R400 to R403) -/

/-- A member's entry of the descriptor. -/
def memberBytes (device pos : Nat) (lost : Bool) : List Byte := leBytes 8 (device + pos * 2 ^ 12 + bit lost * 2 ^ 32)

/-- REBUILD's body. (DESIGN CHOICE, assumption log 58) -/
def rebuildBody : Body := fun p s =>
  let lostDev := p.num 0x10 4 % 2 ^ 12
  let pod := bitsOf (p.num 0x10 4) 19 12
  let spare := p.num 0x14 4 % 2 ^ 12
  let desc := p.num 0x18 8
  match s.sunRead (some p.asid) desc 0x140 with
  | .wait va => .error (.wait va)
  | .bad ns => .error (.code 0x03 0x18 ns)
  | .ok bs _ =>
    let g := stripeGroupOf bs
    if !g.ok then .error (.code 0x03 0x18)
    else if pod ≠ s.podNo then .error (.code 0x03 0x10)
    else
      match g.member lostDev with
      | none => .error (.code 0x03 0x10)
      | some m =>
        let lost := g.all.filter (fun i => g.isLost i || decide (i = m))
        let region := s.sett.regions.any (fun r => decide (r.asid = p.asid) && decide (r.va = g.shva) && decide (r.pos = g.pos m))
        if (g.member spare).isSome || decide (spare ≠ s.devNo) then .error (.code 0x03 0x14)
        else if g.npar < lost.length ∨ (m < g.ndata ∧ !region) then .error (.code 0x03 0x18)
        else if s.sett.rebuilds.any (fun x => decide (x.asid = p.asid) && decide (x.desc = desc)) then .error (.wait desc)
        else
          let zero := match g.parity m with
            | none => s.sunWrite (some p.asid) g.shva (zeros g.shlen)
            | some _ => .ok [] []
          match zero with
          | .wait va => .error (.wait va)
          | _ =>
            let last : State → Nat := fun s => match s.jobRing p.asid with
              | some (_, _, _, repva) => (s.reportOf p.asid repva (g.pos m)).1 % 2 ^ 63
              | none => 0
            .ok (s.chain
              [fun s => [.sett (s.sett.learn (s.stripe p.asid desc))],
               fun s => s.put p.asid (desc + 0x28) (leBytes 8 0),
               fun s => s.put p.asid (desc + 0x38) (leBytes 8 (last s)),
               fun s => [.sett { s.sett with rebuilds := s.sett.rebuilds ++ [{ queue := p.queue, index := p.index, asid := p.asid, desc := desc, lost := m, last := last s }] }],
               fun s => s.tellMembers p.asid desc g (0x40 + 8 * m) (memberBytes lostDev (g.pos m) true),
               fun s => s.postReport p.asid (g.pos m) (leBytes 8 (2 ^ 63 + last s)),
               fun s => s.zeroActs p.asid m g,
               fun _ => [.active (p.active .rebuild)],
               fun s => s.settNews p.asid])
/-- REBUILD (R400). Starts rebuilding a lost stripe-group member onto this spare. -/
def execRebuild (queue index : Nat) (s : State) : Host.Outcome State Fault Refusal := s.packet queue index .rebuild true rebuildBody

/-- A rebuild on this device has received every page. -/
def State.rebuilt (s : State) (asid : Nat) : Option (Rebuild × StripeGroup) :=
  (s.sett.rebuilds.filter (fun x => decide (x.asid = asid) && x.r.isSome)).findSome? (fun x => (s.groupAt asid x.desc).bind (fun g =>
    let ring := match g.parity x.lost with
      | none => ((s.regionAt asid g.shva).map Region.rg).getD g.ring
      | some _ => g.ring
    if (List.range g.pages).all (fun p => decide (g.senders x.lost * pageLen ≤ Sparse.get 0 x.got p) && (s.page64 asid (ring.slotAt p 0)).isSome && s.slotReady asid ring p 0
        && ((g.parity x.lost).isSome || (s.page64 asid (g.shva + p * pageLen)).isSome)) then some (x, g) else none))

/-- The last acts of a rebuild (R401, R402): slot 0 of each page with tag r, LOCAL and FOLD of the position, LOST cleared, DONE, and the packet's completion. (DESIGN CHOICE, assumption log 58) -/
def State.rebuiltActs (s : State) (x : Rebuild) (g : StripeGroup) : List Act :=
  let r := x.r.getD 0
  let asid := x.asid
  let pages : List (State → List Act) := match g.parity x.lost with
    | none => match s.regionAt asid g.shva with
      | none => []
      | some rg => (List.range g.pages).map (fun p (s : State) => match s.page64 asid (g.shva + p * pageLen) with
          | some (bs, marks, free) => free ++ s.fillSlot (s.pageDie asid (g.shva + p * pageLen)) asid rg.rg p 0 r bs marks
          | none => []) ++ [fun (s : State) => s.put asid (rg.ring + 0x30) (leBytes 8 r)]
    | some _ => (List.range g.pages).map (fun p (s : State) => s.chain
        [fun s => [.slice (s.pageDie asid (g.ring.slotAt p 0)) (.pbar 4)],
         fun s => (s.sunWriteAs (some asid) (g.ring.tagAt p) (leBytes 8 (2 ^ 63 + r)) [] (s.settEpoch (s.pageDie asid (g.ring.slotAt p 0)))).acts])
  let last : List (State → List Act) :=
      [fun s => match g.parity x.lost with
            | none => [s.setSteps asid { s.steps asid with local_ := max (s.steps asid).local_ r }]
            | some _ => [.sett (s.sett.learn { asid := asid, desc := x.desc, fold := r })],
          fun s => [.sett { s.sett with rebuilds := s.sett.rebuilds.filter (fun y => decide (y ≠ x)) }],
          fun s => s.postReport asid (g.pos x.lost) (leBytes 8 r ++ leBytes 8 r),
          fun s => s.tellMembers asid x.desc g (0x40 + 8 * x.lost) (memberBytes s.devNo (g.pos x.lost) false),
          fun s => s.tellMembers asid x.desc g 0x28 (leBytes 8 (g.pages + 2 ^ 32)),
          fun s => match s.sun.active.find? (fun a => decide (a.queue = x.queue) && decide (a.index = x.index)) with
            | some a => s.complete a 0 0
            | none => [],
          fun s => s.settNews asid]
  s.chain (pages ++ last)

/-- REBUILD_DONE (R401, R402). Every rebuild page has arrived: the spare writes its ring, reports, clears LOST and sets DONE. -/
def execRebuildDone (asid : Nat) (s : State) : Host.Outcome State Fault Refusal :=
  match s.rebuilt asid with
  | some x => event s (s.rebuiltActs x.1 x.2)
  | none => event s []

/-! ### Candidates -/

/-- The snapshot steps that are due. -/
def State.settPages (s : State) : List (Nat × Nat) :=
  s.copyTurns ++ s.sett.helps.flatMap (fun h => match s.groupAt h.asid h.desc with
    | some g => (h.pages.map (fun p => (h.asid, g.shva + p * pageLen))).filter (fun x => (s.sendDue x.1 x.2).isSome && !s.copyReady x.1 x.2)
    | none => [])

/-- Pages Sett waits for: pending pages and their ring slots. -/
def State.settWants (s : State) : List (Nat × Nat) :=
  s.sett.pending.flatMap (fun e =>
    let asid := pageAsid e.1
    (asid, pageVa e.1) :: (match s.regionAt asid (pageVa e.1) with
      | some r => let p := (pageVa e.1 - r.va) / pageLen; (asid, r.rg.tagAt p) :: (List.range 4).map (fun k => (asid, r.rg.slotAt p k))
      | none => []))
    ++ s.sett.stripes.flatMap (fun x => match s.groupAt x.asid x.desc with
      | some g => if (g.member s.devNo).bind g.parity = none then [] else (List.range g.pages).flatMap (fun p => [(x.asid, g.stageAt (s.foldNext x) p), (x.asid, g.ring.tagAt p)] ++ (List.range 4).map (fun k => (x.asid, g.ring.slotAt p k)))
      | none => [])

end Sys2Proof.Machine
end

