-- ==== Sys2Proof/Machine/Firmware.lean ====
section
/-! DEFINITION. Firmware images, attestation, and the messages of the SPDM mailbox (14_queues R383 to R387, 19_platform R421, R424). -/
namespace Sys2Proof.Machine

/-! ### Images (R383 to R385) -/

/-- The image in a slot. (DESIGN CHOICE, assumption log 10) -/
def State.image (s : State) (slot : Nat) : List Byte := Sparse.get [] s.dev.images slot
/-- An image's READLAYOUTS, and the range of handover versions it accepts. (PRESUMED, assumption log 60) -/
def readLayouts (im : List Byte) : Nat := numAt im 16 8
/-- Lowest and highest handover version. -/
def handoverRange (im : List Byte) : Nat × Nat := (numAt im 28 4 % 2 ^ 16, numAt im 28 4 / 2 ^ 16)

/-- An activation is in progress. -/
def Dev.activating (d : Dev) : Bool := d.act.isSome || d.heart.isSome

/-- FWSTAGE (R383). Writes an image into the inactive slot and checks its signature: status 2 on a bad one, 5 while an activation is in progress, 1 for the active slot. (PRESUMED, assumption log 60) -/
def execFwstage (slot va : Nat) (s : State) : Host.Outcome State Fault Refusal :=
  let read := fun (n : Nat) => s.sunRead none va n
  let size := match read 32 with
    | .ok bs _ => numAt bs 8 8
    | _ => 0
  if s.dev.activating then event s (s.mailbox 5 (fun _ => []))
  else if slot ≠ 1 - s.dev.fw then event s (s.mailbox 1 (fun _ => []))
  else
    match (if size < 128 then Got.bad [] else read size) with
    | .ok bs as =>
      let good := Config.imageSigned bs
      event s (s.mailbox (if good then 0 else 2) (fun s => as ++ [.dev { s.dev with images := Sparse.set [] s.dev.images slot bs, staged := good }]))
    | _ => event s (s.mailbox 2 (fun s => [.dev { s.dev with staged := false }]))

/-- The first step of R384 that fails after step 2, with its status. -/
def State.actFault (s : State) : Option Nat :=
  let new := s.image (1 - s.dev.fw)
  let v := Config.handoverVersion (s.image s.dev.fw)
  if s.ctl.packs.any (fun e => e.2.saved && !flagOf (readLayouts new) (Sparse.get {} s.sun.saves e.1).layout) then some 4
  else if v < (handoverRange new).1 ∨ (handoverRange new).2 < v then some 6
  else none

/-- Steps 3 to 5 of R384: a failure leaves the old image in charge; else the new slot starts, and its first heartbeat comes, or is still to come. -/
def State.actActs (s : State) : List Act :=
  match s.actFault with
  | some st => s.mailbox st (fun s => [.dev { s.dev with act := none }])
  | none =>
    let old := s.dev.fw
    let beat := decide (s.pick 0 2 = 0)
    let new : Dev → Dev := fun d => { d with fw := 1 - old, staged := false, act := none }
    .draw 1 :: (if beat then s.mailbox 0 (fun s => [.dev (new s.dev)])
      else [.dev { new s.dev with heart := some (old, s.run.time + 20000 * usec), mbstat := 2 ^ 31 }])

/-- The first heartbeat of a new image is overdue. -/
def State.heartLate (s : State) : Bool := match s.dev.heart with
  | some (_, t) => decide (t ≤ s.run.time)
  | none => false

/-- FWACT (R384). Activates the staged image: status 3 for another measurement, 1 when none is staged; then no packet starts, and when no save or restoration is in progress the handover happens, with status 4 or 6 when it cannot. A first heartbeat that is still to come ends the command with status 0 within 20 ms, or HEARTBEAT_TIMEOUT follows. (PRESUMED, assumption log 60) -/
def execFwact (expected : Nat) (s : State) : Host.Outcome State Fault Refusal :=
  match s.dev.act with
  | some _ => if s.saving || s.sun.launches.any (fun e => e.2.here && e.2.hard && s.ctl.packs.any (fun p => decide (p.2.launch = e.1) && p.2.freeze)) then event s [] else event s s.actActs
  | none =>
    if s.dev.heart.isSome then (if s.heartLate then event s [] else event s (s.mailbox 0 (fun s => [.dev { s.dev with heart := none }])))
    else if !s.dev.ready then event s (s.mailbox 8 (fun _ => []))
    else if !s.dev.staged then event s (s.mailbox 1 (fun _ => []))
    else if expected ≠ 0 ∧ expected ≠ (Config.sha384 (s.image (1 - s.dev.fw))).toNat then event s (s.mailbox 3 (fun _ => []))
    else if s.saving then event s [.dev { s.dev with act := some expected, mbstat := 2 ^ 31 }]
    else event s s.actActs

/-- HEARTBEAT_TIMEOUT (R385). No heartbeat within 20 ms: Sundesh restarts from the old slot, and FWACT returns status 7. -/
def execHeartbeatTimeout (s : State) : Host.Outcome State Fault Refusal :=
  match s.dev.heart with
  | some (old, _) => if s.heartLate then event s (s.mailbox 7 (fun s => [.dev { s.dev with fw := old, heart := none, staged := true }])) else event s []
  | none => event s []

/-! ### ATTEST (R387) -/

/-- The record's bytes before its signature. (DESIGN CHOICE, assumption log 59) -/
def State.attestBytes (s : State) (asid job : Nat) (nonce : List Byte) (j : Job) : List Byte :=
  let ids := (j.keyids ++ s.keyidsOf asid).eraseDups
  leBytes 4 1 ++ leBytes 4 j.images.length ++ leBytes 8 job ++ leBytes 4 asid ++ zeros 4
    ++ leBytes 32 ((List.range 256).foldl (fun a k => a + bit (ids.contains k) * 2 ^ k) 0)
    ++ leBytes 4 s.maps.devid ++ zeros 4 ++ leBytes 16 Config.serial.toNat
    ++ leBytes 8 j.first ++ leBytes 8 j.last ++ leBytes 8 j.at_ ++ leBytes 8 s.us ++ nonce
    ++ (List.range 8).flatMap (fun i => leBytes 48 ((j.images.getD i 0).toNat)) ++ leBytes 48 (Config.sha384 Config.bootRom).toNat

/-- ATTEST's body: CODE 0x03 for a job without a history here, 0x06 for one of another address space, 0x0A after a ninth image. (DESIGN CHOICE, assumption log 59) -/
def attestBody : Body := fun p s =>
  let job := p.num 0x10 8
  let j := Sparse.get {} s.sun.jobs job
  let va := p.num 0x18 8
  if va % 64 ≠ 0 then .error (.code 0x01 0x18)
  else if j.first = 0 then .error (.code 0x03 0x10)
  else if j.asid ≠ p.asid then .error (.code 0x06 0x10)
  else if j.full then .error (.code 0x0A 0)
  else
    let r := s.attestBytes p.asid job ((p.raw.drop 0x20).take 16) j
    match s.sunWrite (some p.asid) va (r ++ leBytes 96 (Config.sign r).toNat) with
    | .wait v => .error (.wait v)
    | .bad ns => .error (.code 0x05 0x18 ns)
    | .ok _ as => .ok (s.chain [fun _ => as, fun s => s.completeNow p 0 0])
/-- ATTEST (R387). Assembles and signs a job attestation record. -/
def execAttest (queue index : Nat) (s : State) : Host.Outcome State Fault Refusal := s.packet queue index .attest true attestBody

/-! ### SPDM (R424) -/

/-- The device answers a request: its number in the order of R424, and the contents. (DESIGN CHOICE, assumption log 61) -/
def State.spdm (s : State) (code : Nat) (contents : List Byte) : Act := s.toHost (.spdm code contents)
/-- The device refuses a request. (DESIGN CHOICE, assumption log 61) -/
def State.spdmError (s : State) (code : Nat) : Act := s.toHost (.spdmError code)

/-- GET_VERSION (R424). The device answers SPDM 1.3. -/
def execGetVersion (s : State) : Host.Outcome State Fault Refusal := event s [s.spdm 1 [0x13]]
/-- GET_CAPABILITIES (R424). The device answers the numbers of the requests it supports. -/
def execGetCapabilities (s : State) : Host.Outcome State Fault Refusal := event s [s.spdm 2 ((List.range 10).map (fun i => BitVec.ofNat 8 (i + 1)))]
/-- NEGOTIATE_ALGORITHMS (R424). ECDSA and ECDHE over brainpoolP384r1, SHA-384 and AES-256-GCM: one of each is offered and chosen. -/
def execNegotiateAlgorithms (s : State) : Host.Outcome State Fault Refusal := event s [s.spdm 3 [1, 1, 1, 1]]
/-- GET_DIGESTS (R424). The SHA-384 digest of the chain in certificate slot 0. -/
def execGetDigests (s : State) : Host.Outcome State Fault Refusal := event s [s.spdm 4 (leBytes 48 (Config.sha384 Config.certificateChain).toNat)]
/-- GET_CERTIFICATE (R424). Slot 0 holds the chain from the vendor root to the device identity key; no other slot holds one. -/
def execGetCertificate (slot : Nat) (s : State) : Host.Outcome State Fault Refusal :=
  if slot = 0 then event s [s.spdm 5 Config.certificateChain] else event s [s.spdmError 5]

/-- A measurement by index (R424). (DESIGN CHOICE, assumption log 61) -/
def State.measurement (s : State) : Nat → Option (List Byte)
  | 1 => some (leBytes 48 (Config.sha384 Config.bootRom).toNat)
  | 2 => some (leBytes 48 (Config.sha384 (s.image s.dev.fw)).toNat)
  | 3 => some (if s.dev.staged then leBytes 48 (Config.sha384 (s.image (1 - s.dev.fw))).toNat else zeros 48)
  | 4 => some (Config.productForm :: leBytes 4 s.dev.pclamp)
  | 5 => some (leBytes 48 (Config.sha384 (leBytes 32 ((List.range 255).foldl (fun a k => a + bit (Sparse.get false s.dev.keys (k + 1)) * 2 ^ k) 0))).toNat)
  | _ => none

/-- GET_MEASUREMENTS (R424). One of the measurements 1 to 5. -/
def execGetMeasurements (index : Nat) (s : State) : Host.Outcome State Fault Refusal :=
  match s.measurement index with
  | some bs => event s [s.spdm 7 bs]
  | none => event s [s.spdmError 7]

/-- CHALLENGE (R424). The device signs the nonce, with the measurements and its certificate digest, with its identity key. -/
def execChallenge (nonce : Nat) (s : State) : Host.Outcome State Fault Refusal :=
  event s [s.spdm 6 (leBytes 96 (Config.sign (leBytes 32 nonce ++ leBytes 48 (Config.sha384 Config.certificateChain).toNat ++ [1, 2, 3, 4, 5].flatMap (fun i => (s.measurement i).getD []))).toNat)]

/-- KEY_EXCHANGE (R424). The device sends its ECDHE share, signed; FINISH completes the session. -/
def execKeyExchange (s : State) : Host.Outcome State Fault Refusal :=
  let share := leBytes 48 (Config.secret s.dev.sessions).toNat
  event s [.dev { s.dev with exchange := true, sessions := s.dev.sessions + 1, out := .spdm 8 (share ++ leBytes 96 (Config.sign share).toNat) :: s.dev.out }]

/-- FINISH (R424). The handshake that a KEY_EXCHANGE began ends, and the secure session is open; without one it is refused. -/
def execFinish (s : State) : Host.Outcome State Fault Refusal :=
  if s.dev.exchange then event s [.dev { s.dev with exchange := false, session := true, out := .spdm 9 [] :: s.dev.out }] else event s [s.spdmError 9]

/-- END_SESSION (R424). The secure session ends; without one it is refused. -/
def execEndSession (s : State) : Host.Outcome State Fault Refusal :=
  if s.dev.session then event s [.dev { s.dev with session := false, out := .spdm 10 [] :: s.dev.out }] else event s [s.spdmError 10]

/-! ### Key slots (R421, R422) -/

/-- The number of a key: the place at which it was first seen, from 1. -/
def Dev.keyNo (d : Dev) (key : BitVec 256) : Nat := d.seen.findIdx (fun k => decide (k = key)) + 1

/-- KEYSET (R421). Inside a secure session a tenant's key goes into an empty slot, 1 to 255; an occupied slot refuses it. -/
def execKeyset (slot : Nat) (key : BitVec 256) (s : State) : Host.Outcome State Fault Refusal :=
  if !s.dev.session || decide (slot = 0) || decide (255 < slot) || Sparse.get false s.dev.keys slot then event s [s.spdmError 11]
  else
    let seen := if s.dev.seen.contains key then s.dev.seen else s.dev.seen ++ [key]
    event s [.dev { s.dev with
      keys := Sparse.set false s.dev.keys slot true
      keyver := Sparse.set 0 s.dev.keyver slot ({ s.dev with seen := seen }.keyNo key)
      seen := seen
      out := .spdm 11 [] :: s.dev.out }]

/-- No registered queue's address space holds a leaf entry with a KEYID. -/
def State.keyFree (s : State) (slot : Nat) : Bool :=
  (((s.sun.queues.filter (fun e => e.2.here)).map (fun e => e.2.asid)).eraseDups).all (fun a => !(s.keyidsOf a).contains slot)

/-- KEYREVOKE (R421). Empties a slot once no registered queue's ASID holds a leaf entry with its KEYID; until then it waits. -/
def execKeyrevoke (slot : Nat) (s : State) : Host.Outcome State Fault Refusal :=
  if s.dev.revokes.contains slot || (s.dev.session && decide (1 ≤ slot) && decide (slot ≤ 255)) then
    if s.keyFree slot then
      event s [.dev { s.dev with keys := Sparse.set false s.dev.keys slot false, revokes := s.dev.revokes.filter (fun k => decide (k ≠ slot)), out := .spdm 12 [] :: s.dev.out }]
    else if s.dev.revokes.contains slot then event s []
    else event s [.dev { s.dev with revokes := slot :: s.dev.revokes }]
  else event s [s.spdmError 12]

end Sys2Proof.Machine
end

