-- ==== Sys2Proof/Machine/Float.lean ====
section
/-! DEFINITION. The lane-wise FP32, transcendental, packed 16-bit and FP64 instructions (07_float R161 to R175). Each meaning is one call of `lanewise` with the instruction's function. -/
namespace Sys2Proof.Machine

/-- FADD (R165). Adds two FP32 values with one rounding under FPCTL. -/
def execFadd (f : RF) (s : State) : Host.Outcome State Fault Refusal := lanewise (.fadd f) fnFadd s

/-- FSUB (R165). Subtracts two FP32 values with one rounding. -/
def execFsub (f : RF) (s : State) : Host.Outcome State Fault Refusal := lanewise (.fsub f) fnFsub s

/-- FMUL (R165). Multiplies two FP32 values with one rounding. -/
def execFmul (f : RF) (s : State) : Host.Outcome State Fault Refusal := lanewise (.fmul f) fnFmul s

/-- FMIN (R166). Writes the FP32 minimum under the FMax rule reversed. -/
def execFmin (f : RF) (s : State) : Host.Outcome State Fault Refusal := lanewise (.fmin f) fnFmin s

/-- FMAX (R166). Writes the FP32 maximum under the FMax rule. -/
def execFmax (f : RF) (s : State) : Host.Outcome State Fault Refusal := lanewise (.fmax f) fnFmax s

/-- FABS (R166). Clears the sign bit of A, giving the canonical NaN for a NaN. -/
def execFabs (f : RF) (s : State) : Host.Outcome State Fault Refusal := lanewise (.fabs f) fnFabs s

/-- FNEG (R166). Inverts the sign bit of A, giving the canonical NaN for a NaN. -/
def execFneg (f : RF) (s : State) : Host.Outcome State Fault Refusal := lanewise (.fneg f) fnFneg s

/-- FCPYS (R166). Writes A with the sign of B. -/
def execFcpys (f : RF) (s : State) : Host.Outcome State Fault Refusal := lanewise (.fcpys f) fnFcpys s

/-- FFMA (R167). Computes A times B plus D with one rounding. -/
def execFfma (f : RF) (s : State) : Host.Outcome State Fault Refusal := lanewise (.ffma f) fnFfma s

/-- FFMS (R167). Computes A times B minus D with one rounding. -/
def execFfms (f : RF) (s : State) : Host.Outcome State Fault Refusal := lanewise (.ffms f) fnFfms s

/-- FNMA (R167). Computes D minus A times B with one rounding. -/
def execFnma (f : RF) (s : State) : Host.Outcome State Fault Refusal := lanewise (.fnma f) fnFnma s

/-- TWOSUM (R168). Writes the RNE sum of A and B and its exact error into a pair. -/
def execTwosum (f : RF) (s : State) : Host.Outcome State Fault Refusal := lanewise (.twosum f) fnTwosum s

/-- FTSUM (R169). Folds A plus B into the compensated pair D:D+1 as one accumulator group step. -/
def execFtsum (f : RF) (s : State) : Host.Outcome State Fault Refusal := lanewise (.ftsum f) fnFtsum s

/-- TWOPROD (R168). Writes the RNE product of A and B and its error into a pair. -/
def execTwoprod (f : RF) (s : State) : Host.Outcome State Fault Refusal := lanewise (.twoprod f) fnTwoprod s

/-- FSET_EQ (R170). Sets a predicate to FP32 A = B. -/
def execFsetEq (f : RF) (s : State) : Host.Outcome State Fault Refusal := lanewise (.fsetEq f) fnFsetEq s

/-- FSET_NE (R170). Sets a predicate to FP32 A not equal to B, true for NaN. -/
def execFsetNe (f : RF) (s : State) : Host.Outcome State Fault Refusal := lanewise (.fsetNe f) fnFsetNe s

/-- FSET_LT (R170). Sets a predicate to FP32 A < B. -/
def execFsetLt (f : RF) (s : State) : Host.Outcome State Fault Refusal := lanewise (.fsetLt f) fnFsetLt s

/-- FSET_LE (R170). Sets a predicate to FP32 A <= B. -/
def execFsetLe (f : RF) (s : State) : Host.Outcome State Fault Refusal := lanewise (.fsetLe f) fnFsetLe s

/-- FSET_UNORD (R170). Sets a predicate when A or B is NaN. -/
def execFsetUnord (f : RF) (s : State) : Host.Outcome State Fault Refusal := lanewise (.fsetUnord f) fnFsetUnord s

/-- FSET_ORD (R170). Sets a predicate when neither A nor B is NaN. -/
def execFsetOrd (f : RF) (s : State) : Host.Outcome State Fault Refusal := lanewise (.fsetOrd f) fnFsetOrd s

/-- FSET_CLASS (R171). Sets a predicate when the class of A is in the mask B. -/
def execFsetClass (f : RF) (s : State) : Host.Outcome State Fault Refusal := lanewise (.fsetClass f) fnFsetClass s

/-- FRCP (R172). Writes the correctly rounded reciprocal of A. -/
def execFrcp (f : RF) (s : State) : Host.Outcome State Fault Refusal := lanewise (.frcp f) fnFrcp s

/-- FRSQ (R172). Writes a faithful reciprocal square root of A. -/
def execFrsq (f : RF) (s : State) : Host.Outcome State Fault Refusal := lanewise (.frsq f) fnFrsq s

/-- FSQRT (R172). Writes the correctly rounded square root of A. -/
def execFsqrt (f : RF) (s : State) : Host.Outcome State Fault Refusal := lanewise (.fsqrt f) fnFsqrt s

/-- FEXP2 (R172). Writes 2 to the power A within 2 ulp. -/
def execFexp2 (f : RF) (s : State) : Host.Outcome State Fault Refusal := lanewise (.fexp2 f) fnFexp2 s

/-- FLOG2 (R172). Writes log2 of A. -/
def execFlog2 (f : RF) (s : State) : Host.Outcome State Fault Refusal := lanewise (.flog2 f) fnFlog2 s

/-- FSIN (R172). Writes sin A in radians. -/
def execFsin (f : RF) (s : State) : Host.Outcome State Fault Refusal := lanewise (.fsin f) fnFsin s

/-- FCOS (R172). Writes cos A in radians. -/
def execFcos (f : RF) (s : State) : Host.Outcome State Fault Refusal := lanewise (.fcos f) fnFcos s

/-- FTANH (R172). Writes tanh A within 2 ulp. -/
def execFtanh (f : RF) (s : State) : Host.Outcome State Fault Refusal := lanewise (.ftanh f) fnFtanh s

/-- HADD2_BF16 (R174). Adds two packed BF16 pairs element-wise. -/
def execHadd2Bf16 (f : RF) (s : State) : Host.Outcome State Fault Refusal := lanewise (.hadd2Bf16 f) fnHadd2Bf16 s

/-- HMUL2_BF16 (R174). Multiplies two packed BF16 pairs element-wise. -/
def execHmul2Bf16 (f : RF) (s : State) : Host.Outcome State Fault Refusal := lanewise (.hmul2Bf16 f) fnHmul2Bf16 s

/-- HFMA2_BF16 (R174). Fused multiply-add on packed BF16 pairs with D as addend. -/
def execHfma2Bf16 (f : RF) (s : State) : Host.Outcome State Fault Refusal := lanewise (.hfma2Bf16 f) fnHfma2Bf16 s

/-- HADD2_F16 (R174). Adds two packed F16 pairs element-wise. -/
def execHadd2F16 (f : RF) (s : State) : Host.Outcome State Fault Refusal := lanewise (.hadd2F16 f) fnHadd2F16 s

/-- HMUL2_F16 (R174). Multiplies two packed F16 pairs element-wise. -/
def execHmul2F16 (f : RF) (s : State) : Host.Outcome State Fault Refusal := lanewise (.hmul2F16 f) fnHmul2F16 s

/-- HFMA2_F16 (R174). Fused multiply-add on packed F16 pairs with D as addend. -/
def execHfma2F16 (f : RF) (s : State) : Host.Outcome State Fault Refusal := lanewise (.hfma2F16 f) fnHfma2F16 s

/-- HMAX2_BF16 (R174). Element-wise maximum of packed BF16 pairs. -/
def execHmax2Bf16 (f : RF) (s : State) : Host.Outcome State Fault Refusal := lanewise (.hmax2Bf16 f) fnHmax2Bf16 s

/-- HMIN2_BF16 (R174). Element-wise minimum of packed BF16 pairs. -/
def execHmin2Bf16 (f : RF) (s : State) : Host.Outcome State Fault Refusal := lanewise (.hmin2Bf16 f) fnHmin2Bf16 s

/-- DADD (R175). Adds two FP64 pairs. -/
def execDadd (f : RF) (s : State) : Host.Outcome State Fault Refusal := lanewise (.dadd f) fnDadd s

/-- DSUB (R175). Subtracts two FP64 pairs. -/
def execDsub (f : RF) (s : State) : Host.Outcome State Fault Refusal := lanewise (.dsub f) fnDsub s

/-- DMUL (R175). Multiplies two FP64 pairs. -/
def execDmul (f : RF) (s : State) : Host.Outcome State Fault Refusal := lanewise (.dmul f) fnDmul s

/-- DFMA (R175). FP64 fused multiply-add with D as addend. -/
def execDfma (f : RF) (s : State) : Host.Outcome State Fault Refusal := lanewise (.dfma f) fnDfma s

/-- DMIN (R175). FP64 minimum. -/
def execDmin (f : RF) (s : State) : Host.Outcome State Fault Refusal := lanewise (.dmin f) fnDmin s

/-- DMAX (R175). FP64 maximum. -/
def execDmax (f : RF) (s : State) : Host.Outcome State Fault Refusal := lanewise (.dmax f) fnDmax s

/-- DSET_LT (R175). Sets a predicate to FP64 A < B. -/
def execDsetLt (f : RF) (s : State) : Host.Outcome State Fault Refusal := lanewise (.dsetLt f) fnDsetLt s

/-- DSET_EQ (R175). Sets a predicate to FP64 A = B. -/
def execDsetEq (f : RF) (s : State) : Host.Outcome State Fault Refusal := lanewise (.dsetEq f) fnDsetEq s

end Sys2Proof.Machine
end

