-- ==== Sys2Proof/Machine/Integer.lean ====
section
/-! DEFINITION. The lane-wise integer, logic, shift, bit and comparison instructions (05_integer R126, R132 to R139). Each meaning is one call of `lanewise` with the instruction's function. -/
namespace Sys2Proof.Machine

/-- IADD (R132). Adds two 32-bit integers modulo 2^32. -/
def execIadd (f : RF) (s : State) : Host.Outcome State Fault Refusal := lanewise (.iadd f) fnIadd s

/-- ISUB (R132). Subtracts two 32-bit integers modulo 2^32. -/
def execIsub (f : RF) (s : State) : Host.Outcome State Fault Refusal := lanewise (.isub f) fnIsub s

/-- IMUL (R132). Writes the low 32 bits of the product. -/
def execImul (f : RF) (s : State) : Host.Outcome State Fault Refusal := lanewise (.imul f) fnImul s

/-- IMULH_I (R132). Writes the high 32 bits of the signed 64-bit product. -/
def execImulhI (f : RF) (s : State) : Host.Outcome State Fault Refusal := lanewise (.imulhI f) fnImulhI s

/-- IMULH_N (R132). Writes the high 32 bits of the unsigned 64-bit product. -/
def execImulhN (f : RF) (s : State) : Host.Outcome State Fault Refusal := lanewise (.imulhN f) fnImulhN s

/-- INEG (R132). Negates a 32-bit integer modulo 2^32. -/
def execIneg (f : RF) (s : State) : Host.Outcome State Fault Refusal := lanewise (.ineg f) fnIneg s

/-- IABS (R132). Writes the absolute value of a signed integer, wrapping for the most negative value. -/
def execIabs (f : RF) (s : State) : Host.Outcome State Fault Refusal := lanewise (.iabs f) fnIabs s

/-- IADD_SAT (R132). Adds two signed integers with saturation to 32 bits. -/
def execIaddSat (f : RF) (s : State) : Host.Outcome State Fault Refusal := lanewise (.iaddSat f) fnIaddSat s

/-- IMIN_I (R132). Writes the signed minimum. -/
def execIminI (f : RF) (s : State) : Host.Outcome State Fault Refusal := lanewise (.iminI f) fnIminI s

/-- IMIN_N (R132). Writes the unsigned minimum. -/
def execIminN (f : RF) (s : State) : Host.Outcome State Fault Refusal := lanewise (.iminN f) fnIminN s

/-- IMAX_I (R132). Writes the signed maximum. -/
def execImaxI (f : RF) (s : State) : Host.Outcome State Fault Refusal := lanewise (.imaxI f) fnImaxI s

/-- IMAX_N (R132). Writes the unsigned maximum. -/
def execImaxN (f : RF) (s : State) : Host.Outcome State Fault Refusal := lanewise (.imaxN f) fnImaxN s

/-- IADD64 (R132). Adds two 64-bit register pairs modulo 2^64. -/
def execIadd64 (f : RF) (s : State) : Host.Outcome State Fault Refusal := lanewise (.iadd64 f) fnIadd64 s

/-- ISUB64 (R132). Subtracts two 64-bit register pairs modulo 2^64. -/
def execIsub64 (f : RF) (s : State) : Host.Outcome State Fault Refusal := lanewise (.isub64 f) fnIsub64 s

/-- LEA (R132). Adds a signed 32-bit value to a 64-bit pair. -/
def execLea (f : RF) (s : State) : Host.Outcome State Fault Refusal := lanewise (.lea f) fnLea s

/-- ISUB_SAT (R132). Subtracts two signed integers with saturation to 32 bits. -/
def execIsubSat (f : RF) (s : State) : Host.Outcome State Fault Refusal := lanewise (.isubSat f) fnIsubSat s

/-- IMAD (R133). Multiplies A by B and adds D modulo 2^32. -/
def execImad (f : RF) (s : State) : Host.Outcome State Fault Refusal := lanewise (.imad f) fnImad s

/-- IMADW_I (R133). Adds the signed product of A and B to the 64-bit pair D. -/
def execImadwI (f : RF) (s : State) : Host.Outcome State Fault Refusal := lanewise (.imadwI f) fnImadwI s

/-- IMADW_N (R133). Adds the unsigned product of A and B to the 64-bit pair D. -/
def execImadwN (f : RF) (s : State) : Host.Outcome State Fault Refusal := lanewise (.imadwN f) fnImadwN s

/-- IACCW (R133). Adds signed A and B to the 64-bit pair D. -/
def execIaccw (f : RF) (s : State) : Host.Outcome State Fault Refusal := lanewise (.iaccw f) fnIaccw s

/-- IDOT4_I8 (R133). Adds the signed 4-byte dot product of A and B to D. -/
def execIdot4I8 (f : RF) (s : State) : Host.Outcome State Fault Refusal := lanewise (.idot4I8 f) fnIdot4I8 s

/-- IDOT4_N8 (R133). Adds the unsigned 4-byte dot product of A and B to D. -/
def execIdot4N8 (f : RF) (s : State) : Host.Outcome State Fault Refusal := lanewise (.idot4N8 f) fnIdot4N8 s

/-- IDOT2_I16 (R133). Adds the signed 2-halfword dot product of A and B to D. -/
def execIdot2I16 (f : RF) (s : State) : Host.Outcome State Fault Refusal := lanewise (.idot2I16 f) fnIdot2I16 s

/-- ISAD (R133). Adds the sum of absolute byte differences of A and B to D. -/
def execIsad (f : RF) (s : State) : Host.Outcome State Fault Refusal := lanewise (.isad f) fnIsad s

/-- AND (R126). Writes the bitwise AND of A and B. -/
def execAnd (f : RF) (s : State) : Host.Outcome State Fault Refusal := lanewise (.and f) fnAnd s

/-- OR (R126). Writes the bitwise OR of A and B. -/
def execOr (f : RF) (s : State) : Host.Outcome State Fault Refusal := lanewise (.or f) fnOr s

/-- XOR (R126). Writes the bitwise XOR of A and B. -/
def execXor (f : RF) (s : State) : Host.Outcome State Fault Refusal := lanewise (.xor f) fnXor s

/-- ANDN (R126). Writes A AND NOT B. -/
def execAndn (f : RF) (s : State) : Host.Outcome State Fault Refusal := lanewise (.andn f) fnAndn s

/-- ORN (R126). Writes A OR NOT B. -/
def execOrn (f : RF) (s : State) : Host.Outcome State Fault Refusal := lanewise (.orn f) fnOrn s

/-- NOT (R126). Writes the bitwise complement of A. -/
def execNot (f : RF) (s : State) : Host.Outcome State Fault Refusal := lanewise (.not f) fnNot s

/-- MOV (R126). Copies B, or an immediate, into D. -/
def execMov (f : RF) (s : State) : Host.Outcome State Fault Refusal := lanewise (.mov f) fnMov s

/-- SHL (R137). Shifts A left by B, giving 0 for amounts of 32 or more. -/
def execShl (f : RF) (s : State) : Host.Outcome State Fault Refusal := lanewise (.shl f) fnShl s

/-- SHR (R137). Shifts A right logically by B. -/
def execShr (f : RF) (s : State) : Host.Outcome State Fault Refusal := lanewise (.shr f) fnShr s

/-- SAR (R137). Shifts A right arithmetically by B. -/
def execSar (f : RF) (s : State) : Host.Outcome State Fault Refusal := lanewise (.sar f) fnSar s

/-- ROL (R137). Rotates A left by B mod 32. -/
def execRol (f : RF) (s : State) : Host.Outcome State Fault Refusal := lanewise (.rol f) fnRol s

/-- ROR (R137). Rotates A right by B mod 32. -/
def execRor (f : RF) (s : State) : Host.Outcome State Fault Refusal := lanewise (.ror f) fnRor s

/-- SHL64 (R137). Shifts a 64-bit pair left by B. -/
def execShl64 (f : RF) (s : State) : Host.Outcome State Fault Refusal := lanewise (.shl64 f) fnShl64 s

/-- SHR64 (R137). Shifts a 64-bit pair right logically by B. -/
def execShr64 (f : RF) (s : State) : Host.Outcome State Fault Refusal := lanewise (.shr64 f) fnShr64 s

/-- SAR64 (R137). Shifts a 64-bit pair right arithmetically by B. -/
def execSar64 (f : RF) (s : State) : Host.Outcome State Fault Refusal := lanewise (.sar64 f) fnSar64 s

/-- POPC (R138). Counts the one bits of A. -/
def execPopc (f : RF) (s : State) : Host.Outcome State Fault Refusal := lanewise (.popc f) fnPopc s

/-- CLZ (R138). Counts the leading zero bits of A. -/
def execClz (f : RF) (s : State) : Host.Outcome State Fault Refusal := lanewise (.clz f) fnClz s

/-- CTZ (R138). Counts the trailing zero bits of A. -/
def execCtz (f : RF) (s : State) : Host.Outcome State Fault Refusal := lanewise (.ctz f) fnCtz s

/-- BREV (R138). Reverses the bit order of A. -/
def execBrev (f : RF) (s : State) : Host.Outcome State Fault Refusal := lanewise (.brev f) fnBrev s

/-- BFX_I (R138). Extracts a bit field of A with sign extension. -/
def execBfxI (f : RF) (s : State) : Host.Outcome State Fault Refusal := lanewise (.bfxI f) fnBfxI s

/-- BFX_N (R138). Extracts a bit field of A with zero extension. -/
def execBfxN (f : RF) (s : State) : Host.Outcome State Fault Refusal := lanewise (.bfxN f) fnBfxN s

/-- BFI (R138). Inserts the low bits of A into a field of D. -/
def execBfi (f : RF) (s : State) : Host.Outcome State Fault Refusal := lanewise (.bfi f) fnBfi s

/-- BSWP (R138). Reverses the byte order of A. -/
def execBswp (f : RF) (s : State) : Host.Outcome State Fault Refusal := lanewise (.bswp f) fnBswp s

/-- ISET_EQ (R139). Sets a predicate to A = B. -/
def execIsetEq (f : RF) (s : State) : Host.Outcome State Fault Refusal := lanewise (.isetEq f) fnIsetEq s

/-- ISET_NE (R139). Sets a predicate to A not equal to B. -/
def execIsetNe (f : RF) (s : State) : Host.Outcome State Fault Refusal := lanewise (.isetNe f) fnIsetNe s

/-- ISET_LT_I (R139). Sets a predicate to signed A < B. -/
def execIsetLtI (f : RF) (s : State) : Host.Outcome State Fault Refusal := lanewise (.isetLtI f) fnIsetLtI s

/-- ISET_LE_I (R139). Sets a predicate to signed A <= B. -/
def execIsetLeI (f : RF) (s : State) : Host.Outcome State Fault Refusal := lanewise (.isetLeI f) fnIsetLeI s

/-- ISET_LT_N (R139). Sets a predicate to unsigned A < B. -/
def execIsetLtN (f : RF) (s : State) : Host.Outcome State Fault Refusal := lanewise (.isetLtN f) fnIsetLtN s

/-- ISET_LE_N (R139). Sets a predicate to unsigned A <= B. -/
def execIsetLeN (f : RF) (s : State) : Host.Outcome State Fault Refusal := lanewise (.isetLeN f) fnIsetLeN s

/-- ISET_TST (R139). Sets a predicate to (A AND B) nonzero. -/
def execIsetTst (f : RF) (s : State) : Host.Outcome State Fault Refusal := lanewise (.isetTst f) fnIsetTst s

/-- MOVI (R126). Writes a sign-extended 12-bit immediate held in the A and B fields. -/
def execMovi (f : RF) (s : State) : Host.Outcome State Fault Refusal := lanewise (.movi f) (fnMovi f.a f.b) s

/-- MOVH (R126). Replaces the high half of D with the low half of B. -/
def execMovh (f : RF) (s : State) : Host.Outcome State Fault Refusal := lanewise (.movh f) fnMovh s

/-- MOV64 (R126). Copies a 64-bit pair. -/
def execMov64 (f : RF) (s : State) : Host.Outcome State Fault Refusal := lanewise (.mov64 f) fnMov64 s

/-- IDXSET (R135). Writes an index register's window and index from B. -/
def execIdxset (f : RF) (s : State) : Host.Outcome State Fault Refusal := lanewise (.idxset f) fnIdxset s

/-- The operand tests of SEL (R119, R134): every field is resolved in every lane of the active mask, and in each lane only the source it selects is tested for poison. -/
def State.selTrap (s : State) (v : View) (sl : Nat) (ls : List Nat) : Option Trap :=
  let b := if (v.imm s.ext).isSome then Opnd.non else v.form.b
  let takesA := ls.filter (fun l => s.predOf (laneKey sl l) v.pg)
  let takesB := ls.filter (fun l => !s.predOf (laneKey sl l) v.pg)
  (s.boundsTrap sl v.form.d v.d ls) <|> (s.boundsTrap sl v.form.a v.a ls) <|> (s.boundsTrap sl b v.b ls)
    <|> s.psnTrap sl v.a (s.psnLanes v.bypass sl v.form.a v.a takesA)
    <|> s.psnTrap sl v.b (s.psnLanes v.bypass sl b v.b takesB)

/-- SEL (R134). In every lane of the active mask writes A when the selector predicate holds and B otherwise. -/
def execSel (f : RF) (s : State) : Host.Outcome State Fault Refusal :=
  issue (.sel f) s (fun _ v sl =>
    let ls := s.liveLanes sl
    match s.selTrap v sl ls with
    | some t => .error t
    | none => s.lanesRes v sl ls fnSel)

/-- IDXADD (R135). Adds the low byte of B to an index register's index, keeping its window. -/
def execIdxadd (f : RF) (s : State) : Host.Outcome State Fault Refusal :=
  issue (.idxadd f) s (fun _ v sl =>
    let ls := s.activeLanes sl v.pg
    s.tested v sl ls (fun _ =>
      .ok (ls.map (fun l => .idx (laneKey sl l) (v.d % 8) (idxAdd (s.idxOf (laneKey sl l) (v.a % 8)) ((s.valB v s.ext sl l).setWidth 32))))))

/-- WINSET (R136). Writes a window of the slice from its lowest active lane; a descriptor outside R118 takes the illegal-instruction trap, whose TRAPLANES names the slice's active lanes (DESIGN CHOICE, assumption log 85). -/
def execWinset (f : RF) (s : State) : Host.Outcome State Fault Refusal :=
  issue (.winset f) s (fun _ v sl =>
    let ls := s.activeLanes sl v.pg
    s.tested v sl ls (fun _ =>
      match ls with
      | [] => .ok []
      | l :: _ =>
        let base := (s.valA v sl l).toNat % 256
        let len := (s.valB v s.ext sl l).toNat % 256
        if base < 56 ∨ len < 1 ∨ 200 < len ∨ (s.packOf sl).regs < base + len then .error { code := 0x01, info := v.op, lanes := laneMask ls }
        else .ok [.slice sl (.window (v.d % 4) ⟨base, len⟩)]))

/-- UNIF (R140). Writes 1 when the uniform tag of register A is set for the slice, else 0. -/
def execUnif (f : RF) (s : State) : Host.Outcome State Fault Refusal :=
  issue (.unif f) s (fun _ v sl =>
    let ls := s.activeLanes sl v.pg
    s.tested v sl ls (fun _ =>
      .ok (s.writeActs v s.ext sl (ls.flatMap (fun l =>
        s.destWrites v sl l (if Sparse.get false s.lanes.untag (sl * 256 + s.regOf sl l v.a 1) then 0 else 1))))))

end Sys2Proof.Machine
end

