-- ==== Sys2Proof/Machine/Platform.lean ====
section
/-! DEFINITION. The platform (19_platform R421 to R437, 08_memory R202, 09_ordering R232, R241, 13_remote R348): the host's accesses and registers, links, errors, power, bring-up and resets. -/
namespace Sys2Proof.Machine

/-! ### The host's memory accesses (R202, R232, R439) -/

/-- The host link carries CXL.cache and CXL.mem traffic for a device that runs (R423, R432). -/
def State.linkUp (s : State) : Bool := s.dev.on && s.dev.ready && !s.dev.fail && !s.dev.ide

/-- A host write of bytes within a line may be performed: its page is not about to be copied (R394) and its timestamp can be stored (R225). -/
def State.hostFits (s : State) (key : Nat) : Bool := !s.snapKey key && s.wsFits (lineOf key) (max s.coh.hck (s.rtsOf (lineOf key) + 1))

/-- A place whose lines the host's coherence governs: host memory, or a host-bias region (R202). -/
def State.hostSide (s : State) (key : Nat) : Bool := (decide (hostBase ≤ key) && decide (key < hostBase + 2 ^ 52)) || (decide (key < scmBase) && Sparse.get false s.maps.hostBias (key / 2 ^ 21))

/-- Host writes from a key, line by line, with the host's agent clock. (DESIGN CHOICE, assumption log 62) -/
def State.hostWriteActs (s : State) (key : Nat) (data : List Byte) : List Act :=
  s.chain ((linePieces key data.length).map (fun x s =>
    let w := s.agentWrite s.coh.hck x.2.1 (s.lineKeyid (lineOf x.2.1)) ((data.drop x.1).take x.2.2) false false (s.hostSide x.2.1) false
    w.1 ++ [.agentClock 1 w.2]))
/-- A host write's snoops: the counter of each line's die advances when the line is the host's or of a host-bias region (R232). -/
def State.snoopActs (s : State) (key n : Nat) : List Act :=
  s.chain ((linePieces key n).map (fun x s => if s.hostSide x.2.1 then [.die (s.homeOf x.2.1) { s.die (s.homeOf x.2.1) with snt := (s.die (s.homeOf x.2.1)).snt + 1 }] else []))

/-- A host write is taken from the waiting ones. -/
def State.takeWrite (s : State) (key : Nat) (data : List Byte) : List Act := [.dev { s.dev with writes := s.dev.writes.erase (key, data) }]

/-- A host write is performed, or waits (R394). (DESIGN CHOICE, assumption log 62) -/
def State.hostWrite (s : State) (key : Nat) (data : List Byte) : List Act :=
  let waits := s.dev.writes.contains (key, data)
  if (linePieces key data.length).all (fun x => s.hostFits x.2.1) then
    s.chain [fun s => if waits then s.takeWrite key data else [], fun s => s.hostWriteActs key data, fun s => s.snoopActs key data.length]
  else if waits then [] else [.dev { s.dev with writes := s.dev.writes ++ [(key, data)] }]

/-- HOST_MEM_WRITE (R202). A host CXL.mem write to HBM: under device bias a store at the home with the host's clock, under host bias without the L2, and with a snoop of its lines (R232). An address beyond the HBM is a fault of the model (R438). -/
def execHostMemWrite (pa : Nat) (data : List Byte) (s : State) : Host.Outcome State Fault Refusal :=
  if !s.linkUp || data.isEmpty then event s []
  else if !keyExists (pa + data.length - 1) || decide (scmBase ≤ pa + data.length - 1) then .fault (.noSuchFrame (pa + data.length - 1))
  else event s (s.hostWrite pa data)

/-- HOST_MEM_READ (R202). A host CXL.mem read of HBM: served at the home as a dev-scope load, or, under host bias, without the L2; poison goes with the data. -/
def execHostMemRead (pa size : Nat) (s : State) : Host.Outcome State Fault Refusal :=
  if !s.linkUp || decide (size = 0) then event s []
  else if !keyExists (pa + size - 1) || decide (scmBase ≤ pa + size - 1) then .fault (.noSuchFrame (pa + size - 1))
  else
    event s (s.toHost (.data pa (s.bytes pa size) ((linePieces pa size).any (fun x => s.localPsn x.2.1 x.2.2))) :: (linePieces pa size).flatMap (fun x =>
        let l := lineOf x.2.1
        if s.hostSide x.2.1 then [] else [.times l (s.wtsOf l) (max (s.rtsOf l) (max s.coh.hck (s.wtsOf l)))])
      ++ (linePieces pa size).flatMap (fun x => s.suspectActs x.2.1 x.2.2 (s.lineKeyid (lineOf x.2.1))))

/-- CXL_SNOOP_INVALIDATION (R232). The host writes a line of its own memory: the selected L2's snoop counter advances, and the host data that arrives takes a write time of the host's clock. -/
def execCxlSnoopInvalidation (hpa : Nat) (data : List Byte) (s : State) : Host.Outcome State Fault Refusal :=
  let key := hostBase + hpa
  if !s.linkUp || data.isEmpty || decide (2 ^ 52 ≤ hpa + data.length) then event s []
  else event s (s.hostWrite key data)

/-- What a host request leaves when its completion does not come (R348): data marked poisoned, or, for a store, a link error in the error log. -/
def State.cxlLapse (s : State) (id : Nat) (r : Req) : List Act :=
  let bytes := (List.range r.size).map (fun i => Config.undefByte s.run.draws i)
  match r.kind with
  | .load _ _ => [.setReq id (some { r with state := .served bytes 0 true }), .draw 1]
  | .prefetch _ => [.setReq id none]
  | .atom _ _ dst => if dst = [] then [.setReq id (some { r with state := .done 0 [] false }), .record { cls := 4, keyid := r.keyid, tier := 2, die := homeDie r.key, pa := r.key - hostBase, time := s.us, count := 1 }]
    else [.setReq id (some { r with state := .done 0 bytes true }), .draw 1]
  | _ => [.setReq id (some { r with state := .done 0 [] false }), .record { cls := 4, keyid := r.keyid, tier := 2, die := homeDie r.key, pa := r.key - hostBase, time := s.us, count := 1 }]

/-- CXL_COMPLETION_TIMEOUT (R348). A host access gets no CXL completion. (DESIGN CHOICE, assumption log 39) -/
def execCxlCompletionTimeout (req : Nat) (s : State) : Host.Outcome State Fault Refusal :=
  match s.req req with
  | some r => if r.tier = 2 ∧ r.waiting then event s (s.cxlLapse req r) else event s []
  | none => event s []

/-! ### Links (R423) -/

/-- IDE_CHECK_FAIL (R423). The stream ends; outstanding requests to host memory complete as on a timeout. -/
def execIdeCheckFail (s : State) : Host.Outcome State Fault Refusal :=
  event s (s.chain ((fun s => [.dev { s.dev with ide := true }])
    :: (s.reqs.filter (fun e => decide (e.2.tier = 2) && e.2.waiting)).map (fun e s => s.cxlLapse e.1 e.2)))

/-- IDE_KM (R423). New keys, programmed over an SPDM session, start the stream again. -/
def execIdeKm (s : State) : Host.Outcome State Fault Refusal :=
  if s.dev.session then event s [.dev { s.dev with ide := false, ideKeys := s.dev.ideKeys + 1 }] else event s [s.spdmError 13]

/-- LINK_TRAINING (R423). One of the 16 fabric links trains and agrees its keys. -/
def execLinkTraining (port : Nat) (s : State) : Host.Outcome State Fault Refusal :=
  if 16 ≤ port then event s []
  else event s [.dev { s.dev with links := Sparse.set false s.dev.links port true, linkKeys := Sparse.set 0 s.dev.linkKeys port (Sparse.get 0 s.dev.linkKeys port + 1) }]

/-- LINK_REKEY (R423). A trained link changes its keys. -/
def execLinkRekey (port : Nat) (s : State) : Host.Outcome State Fault Refusal :=
  if Sparse.get false s.dev.links port then event s [.dev { s.dev with linkKeys := Sparse.set 0 s.dev.linkKeys port (Sparse.get 0 s.dev.linkKeys port + 1) }] else event s []

/-- LINK_DOWN (R423). A link goes down, and its packets in flight are dropped with drop notices (R318); which of the outstanding ones it carried is the hardware's choice. (DESIGN CHOICE, assumption log 63) -/
def execLinkDown (port : Nat) (s : State) : Host.Outcome State Fault Refusal :=
  let rs := s.reqs.filter (fun e => decide (e.2.tier = 3) && e.2.waiting)
  let lost := (rs.zipIdx.filter (fun x => decide (s.pick x.2 2 = 1))).map (fun x => x.1)
  if Sparse.get false s.dev.links port then
    event s (s.chain ((fun s => [.dev { s.dev with links := Sparse.set false s.dev.links port false }, .draw rs.length]) :: lost.map (fun e s => match s.req e.1 with
      | some r => s.lapseActs e.1 r
      | none => [])))
  else event s []

/-! ### Losing power, stopping, resets (R241, R425, R431, R432, R434) -/

/-- Every accepted entry reaches the SCM array (R241). -/
def State.drainAll (s : State) : List Act := (List.range 4).flatMap (fun d => (s.opqEntries d).flatMap PWrite.drainActs) ++ [.opq { s.opq with entries := [] }]

/-- Without the hold-up energy each entry still to be drained is lost, kept, or leaves its line marked (R241). -/
def State.drainCut (s : State) : List Act :=
  let ws := (List.range 4).flatMap s.opqEntries
  ws.zipIdx.flatMap (fun x => match s.pick (x.2 + 1) 3 with
    | 0 => []
    | 1 => x.1.drainActs
    | _ => [.arrayMark x.1.line true])
    ++ [.opq { s.opq with entries := [] }, .draw (ws.length + 1)]

/-- POWER_LOSS (R241). Dispatch stops and the four OPQs drain into SCM with the hold-up energy; without it the drain may be cut short. The device is off. -/
def execPowerLoss (s : State) : Host.Outcome State Fault Refusal :=
  if !s.dev.on then event s []
  else
    let cut := !s.dev.holdup && (List.range 4).any (fun d => !(s.opqEntries d).isEmpty) && decide (s.pick 0 2 = 1)
    event s (s.chain [fun s => if cut then s.drainCut else s.drainAll ++ [.draw 1], fun s => [.dev { s.dev with on := false, ready := false, cut := s.dev.cut || cut }]])

/-- POWER_ON (R431, R432). A cold start: everything but SCM, the fused configuration and the firmware slots is gone, and bring-up begins. -/
def execPowerOn (s : State) : Host.Outcome State Fault Refusal := if s.dev.on then event s [] else event s [.coldStart]

/-- WARM_RESET (R432). SCM contents, the fused configuration and the firmware slots stay; every launch ends without completion. -/
def execWarmReset (s : State) : Host.Outcome State Fault Refusal := if s.dev.on then event s (s.chain [State.drainAll, fun _ => [.coldStart]]) else event s []

/-- The device stops with a FAIL code, its OPQs drained (R425, R434). -/
def State.stopWith (s : State) (code : Nat) : List Act := s.chain [State.drainAll, fun s => [.dev { s.dev with ready := false, fail := true, fcode := code }]]

/-- UNCONTAINABLE_ERROR (R425). The device stops dispatch, drains the OPQs and sets FAIL 0x06. -/
def execUncontainableError (s : State) : Host.Outcome State Fault Refusal := if s.dev.on then event s (s.stopWith 0x06) else event s []
/-- THERMAL_TRIP (R434). At 115 °C the device acts as on loss of power and sets FAIL 0x07. -/
def execThermalTrip (s : State) : Host.Outcome State Fault Refusal := if s.dev.on then event s (s.stopWith 0x07) else event s []

/-- The device fails a stage of bring-up. -/
def State.bringFail (s : State) (code : Nat) (loss : Bool) : List Act := [.draw 1, .dev { s.dev with fail := true, fcode := code, loss := s.dev.loss || loss }]
/-- It goes on to the next stage. -/
def State.bringOn (s : State) : List Act := [.draw 1, .dev { s.dev with stage := s.dev.stage + 1 }]

/-- The free frames of every stack as Sundesh finds them when it starts (R198): frames of the stack, each once, ascending. (DESIGN CHOICE, assumption log 9) -/
def startFrames : Sparse (List Nat) :=
  (((List.range 12).map (fun st => (0, st)) ++ (List.range 4).map (fun st => (1, st))) : List (Nat × Nat)).foldl (fun m x =>
    Sparse.set [] m (x.1 * 16 + x.2) (((Config.freeFrames x.1 x.2).filter (fun f => decide (f / (if x.1 = 0 then 786432 else 16777216) = x.2))).eraseDups)) []

/-- BRINGUP_STAGE (R431). The stage in progress ends: the next one begins, or FAIL names what is wrong. Stage 1 takes the active slot, else the other; stage 2 may fail on a die boundary or a stack, stage 3 on SCM metadata or a cut drain; stage 4 starts Sundesh with the device's fabric identity, and with a fabric timeout of 1 to 1,000 µs (R318; DESIGN CHOICE, assumption log 91); stage 5 is READY. (DESIGN CHOICE, assumption log 10) -/
def execBringupStage (s : State) : Host.Outcome State Fault Refusal :=
  if !s.dev.on || s.dev.ready || s.dev.fail then event s []
  else
    match s.dev.stage with
    | 0 => event s s.bringOn
    | 1 =>
      if Config.imageSigned (s.image s.dev.fw) then event s s.bringOn
      else if Config.imageSigned (s.image (1 - s.dev.fw)) then event s [.draw 1, .dev { s.dev with stage := 2, fw := 1 - s.dev.fw }]
      else event s (s.bringFail 0x01 false)
    | 2 => event s (match s.pick 0 3 with
        | 0 => s.bringOn
        | 1 => s.bringFail 0x02 false
        | _ => s.bringFail 0x03 false)
    | 3 => event s (if s.dev.cut then s.bringFail 0x05 true else if s.pick 0 2 = 0 then s.bringOn else s.bringFail 0x04 false)
    | 4 => event s (.maps { s.maps with devid := Config.fabricId.toNat, frames := startFrames } :: .fab { s.fab with tf := if s.pick 0 1001 = 0 then 20 else s.pick 0 1001 } :: s.bringOn)
    | _ => event s [.dev { s.dev with ready := true, cut := false }]

/-! ### Registers of the host block (R429, R433) -/

/-- DEVSTATUS (R430). -/
def Dev.status (d : Dev) : Nat := bit d.ready * 2 ^ 31 + bit d.fail * 2 ^ 30 + bit d.loss * 2 ^ 29 + d.stage % 16 * 2 ^ 24 + d.fcode % 256 * 2 ^ 16 + d.fw % 2 * 2 ^ 8

/-- What a host read of a register of the block gives (R429): reserved places read as zero. The entries of the error log have fields and no layout, so they are read from `Dev.log`. -/
def Dev.register (d : Dev) (offset : Nat) : Nat :=
  if offset = 0 then d.status
  else if offset = 8 then d.plim
  else if offset = 0xC then d.pclamp
  else if offset = 0x100 then d.mbcmd
  else if offset = 0x104 then d.mbstat
  else if 0x108 ≤ offset ∧ offset < 0x128 ∧ offset % 8 = 0 then Sparse.get 0 d.mbarg (offset / 8 - 0x21)
  else if 0x4000 ≤ offset ∧ offset < 0x6000 then Sparse.get 0 d.tele (offset - 0x4000)
  else if offset = 0xA000 then d.loghead
  else 0

/-- PLIM_WRITE (R433). The package power limit, from 1,200 W to PCLAMP. -/
def execPlimWrite (value : Nat) (s : State) : Host.Outcome State Fault Refusal := event s [.dev { s.dev with plim := min (max (value % 2 ^ 32) 1200) s.dev.pclamp }]

/-- HOST_REGISTER_WRITE (R429, R430). A write to the register block: LOSS is cleared by writing 1, MBCMD and the MBARG operands hold what is written, DEVCTL, PLIM and the doorbells act as their own rows; reserved and read-only places ignore it. (DESIGN CHOICE, assumption log 50) -/
def execHostRegisterWrite (offset value : Nat) (s : State) : Host.Outcome State Fault Refusal :=
  if offset = 0 then event s (if flagOf value 29 then [.dev { s.dev with loss := false }] else [])
  else if offset = 4 then (if flagOf value 0 then execWarmReset s else event s [])
  else if offset = 8 then execPlimWrite value s
  else if offset = 0x100 then event s [.dev { s.dev with mbcmd := value % 2 ^ 32 }]
  else if 0x108 ≤ offset ∧ offset < 0x128 ∧ offset % 8 = 0 then event s [.dev { s.dev with mbarg := Sparse.set 0 s.dev.mbarg (offset / 8 - 0x21) (value % 2 ^ 64) }]
  else if 0x1000 ≤ offset ∧ offset < 0x3000 ∧ offset % 8 = 0 then execDoorbell ((offset - 0x1000) / 8) (value % 2 ^ 64) s
  else event s []

/-! ### Power and telemetry (R19, R433 to R435) -/

/-- The largest pool that firmware may set (R19, R433). (DESIGN CHOICE, assumption log 71) -/
def State.poolCap (s : State) : Nat := if 3600 ≤ s.dev.pclamp then 160 else min 160 (max 16 (Config.poolClamp s.dev.pclamp))

/-- POOL_UPDATE (R433, R434). Sundesh sets a die's token pool within 16 to 160 and the clamp of the package limit (R19); a pool that the thermal limit has halved rises above the halved value only once its junction has cooled. (DESIGN CHOICE, assumption log 71) -/
def execPoolUpdate (die : Nat) (s : State) : Host.Outcome State Fault Refusal :=
  if 4 ≤ die then event s []
  else
    let want := min s.poolCap (max 16 (Config.poolTarget s.run.draws die))
    let cooled := decide (s.pick 1 2 = 1)
    match Sparse.get 0 s.dev.hot die with
    | 0 => event s [.die die { s.die die with pool := want }, .draw 2]
    | limit + 1 => if cooled then event s [.die die { s.die die with pool := want }, .dev { s.dev with hot := Sparse.set 0 s.dev.hot die 0 }, .draw 2]
      else event s [.die die { s.die die with pool := min want limit }, .draw 2]

/-- JUNCTION_OVER_105 (R434). The die's pool is halved at once, to no fewer than one token. -/
def execJunctionOver105 (die : Nat) (s : State) : Host.Outcome State Fault Refusal :=
  if 4 ≤ die then event s []
  else
    let half := max 1 ((s.die die).pool / 2)
    event s [.die die { s.die die with pool := half }, .dev { s.dev with hot := Sparse.set 0 s.dev.hot die (half + 1) }]

/-- RAIL_OVERCURRENT (R434). The arithmetic clock falls by 75 MHz, down to 1.05 GHz. -/
def execRailOvercurrent (s : State) : Host.Outcome State Fault Refusal := event s [.dev { s.dev with mhz := max 1050 (s.dev.mhz - 75) }]
/-- CLOCK_STEP_UP (R434). The clock rises by one step, up to 1.5 GHz. -/
def execClockStepUp (s : State) : Host.Outcome State Fault Refusal := event s [.dev { s.dev with mhz := min 1500 (s.dev.mhz + 75) }]

/-- KiB of L1 of a core: what resident packs have not claimed as scratchpad is lent to it (R189). -/
def State.l1Size (s : State) (core : Nat) : Nat :=
  1024 - (s.claimed core + 65535) / 65536 * 64

/-- The error counts with the corrections since the last refresh (R425): how many errors ECC corrected is open. (DESIGN CHOICE, assumption log 71) -/
def State.corrected (s : State) : Sparse Nat :=
  (List.range 4).foldl (fun m d => Sparse.set 0 m (d * 3) (Sparse.get 0 m (d * 3) + (Config.reading s.run.draws d 0x40).toNat)) s.dev.counts

/-- TELEMETRY_REFRESH (R435). The counters take their values of now; readings the model has no rule for are open. (DESIGN CHOICE, assumption log 71) -/
def execTelemetryRefresh (s : State) : Host.Outcome State Fault Refusal :=
  let uniform := fun (q : Nat) => Sparse.get 0 s.ctl.uniform q
  let die := fun (d : Nat) =>
    [0, 8, 0x10, 0x18].map (fun o => (d * 0x100 + o, (Config.reading s.run.draws d o).toNat))
      ++ [(d * 0x100 + 0x20, (s.die d).pool), (d * 0x100 + 0x28, (Config.reading s.run.draws d 0x28).toNat),
          (d * 0x100 + 0x30, ((List.range 160).map (fun q => uniform (160 * d + q))).foldl (fun a b => a + b) 0), (d * 0x100 + 0x38, s.dev.mhz)]
      ++ (List.range 3).map (fun k => (d * 0x100 + 0x40 + 8 * k, Sparse.get 0 s.corrected (d * 3 + k)))
  let all := (List.range 4).flatMap die ++ (List.range 160).map (fun c => (0x400 + 4 * c, s.l1Size c)) ++ (List.range 640).map (fun q => (0x800 + 8 * q, uniform q))
  event s [.dev { s.dev with tele := all.foldl (fun m x => Sparse.set 0 m x.1 x.2) [], counts := s.corrected }, .draw 1]

/-! ### Errors (R425 to R428) -/

/-- Marked lines whose second reading is due (R426): 10 µs after the first. -/
def State.recheckDue (s : State) : List Nat := (s.dev.suspects.filter (fun x => decide (x.2.2 + 10 * usec ≤ s.run.time))).map (fun x => x.1)

/-- The tier and frame of a memory key. -/
def frameOf (key : Nat) : Nat × Nat := if key < scmBase then (0, key / 65536) else if key < hostBase then (1, (key - scmBase) / 65536) else (2, (key - hostBase) / 65536)

/-- The leaf entries that map a frame under a KEYID, with their address space. -/
def State.mapsOf (s : State) (tier frame keyid : Nat) : List (Nat × Nat × Page) :=
  s.maps.roots.flatMap (fun r => ((s.leavesIn r.1 0 (2 ^ 57)).filter (fun x => x.2.res && decide (x.2.tier = tier) && decide (x.2.keyid = keyid) && decide (x.2.frame ≤ frame) && decide (frame < x.2.frame + pageFrames x.2.level))).map (fun x => (r.1, x.1, x.2)))

/-- The first change of a lasting error (R427): POISON in every leaf entry of the tenant that maps the frame. -/
def State.poisonActs (s : State) (line keyid : Nat) : List Act :=
  let f := frameOf (line * 64)
  (s.mapsOf f.1 f.2 keyid).map (fun x => .store x.2.2.at_ (leBytes 8 (setBits x.2.2.e 63 63 1)) 0)

/-- Every access that may have used an old translation of the frame has been performed (R236, R427). -/
def State.lastingQuiet (s : State) (line keyid : Nat) : Bool :=
  let f := frameOf (line * 64)
  (s.mapsOf f.1 f.2 keyid).all (fun x => s.rangeQuiet x.1 x.2.1 (2 ^ pageBits x.2.2.level))

/-- The change of a lasting error is complete as an UNMAP's is (R427, R362): the old translations leave the TLBs, the frame leaves the free lists, and the error log gets an entry. Events on one frame make one entry (R428). (DESIGN CHOICE, assumption log 64) -/
def State.lastingActs (s : State) (line keyid count : Nat) : List Act :=
  let key := line * 64
  let f := frameOf key
  [.maps { (s.mapsOf f.1 f.2 keyid).foldl (fun c x => c.dropTlb x.1 x.2.1 (pageFrames x.2.2.level)) s.maps with
      frames := if 2 ≤ f.1 then s.maps.frames else let k := f.1 * 16 + stackOf f.1 f.2; Sparse.set [] s.maps.frames k ((Sparse.get [] s.maps.frames k).filter (fun g => decide (g ≠ f.2))) },
    .record { cls := 2, keyid := keyid, tier := f.1, die := homeDie key, pa := f.2 * 65536 + key % 65536, time := s.us, count := count }]

/-- The lasting errors after n more events on a line's frame. -/
def Dev.addLasting (d : Dev) (line keyid n : Nat) : Dev :=
  let same := fun (x : Nat × Nat × Nat) => decide (x.1 / 1024 = line / 1024) && decide (x.2.1 = keyid)
  { d with lasting := if d.lasting.any same then d.lasting.map (fun x => if same x then (x.1, x.2.1, x.2.2 + n) else x) else d.lasting ++ [(line, keyid, n)] }

/-- The end of a lasting error's translation change, when it can come. -/
def State.endLasting (s : State) (line : Nat) : List Act :=
  match s.dev.lasting.find? (fun x => decide (x.1 = line) && s.lastingQuiet x.1 x.2.1) with
  | some x => s.chain [fun s => [.dev { s.dev with lasting := s.dev.lasting.erase x }], fun s => s.lastingActs x.1 x.2.1 x.2.2]
  | none => []

/-- POISON_RECHECK (R426, R427). The second reading of a marked line at its home: clean makes the event transient, marked makes it lasting, with POISON in the entries that map its frame, whose change a second such step completes; in memory without a tenant a lasting error is uncontainable. (DESIGN CHOICE, assumption log 63) (DESIGN CHOICE, assumption log 64) -/
def execPoisonRecheck (line : Nat) (s : State) : Host.Outcome State Fault Refusal :=
  match s.dev.suspects.find? (fun x => decide (x.1 = line)) with
  | none => event s (s.endLasting line)
  | some (_, keyid, _) =>
    if !s.recheckDue.contains line then event s (s.endLasting line)
    else
      let mates := s.dev.suspects.filter (fun x => decide (x.1 / 1024 = line / 1024) && decide (x.2.1 = keyid) && s.marked x.1)
      let bump := fun (k : Nat) (d : Dev) => ({ d with counts := Sparse.set 0 d.counts (homeDie (line * 64) * 3 + k) (Sparse.get 0 d.counts (homeDie (line * 64) * 3 + k) + 1) } : Dev)
      if !s.marked line then event s [.dev (bump 1 { s.dev with suspects := s.dev.suspects.filter (fun x => decide (x.1 ≠ line)) })]
      else if dspKey ≤ line * 64 then event s [.dev (bump 2 { s.dev with suspects := s.dev.suspects.filter (fun x => decide (x.1 ≠ line)) })]
      else
        event s (s.chain
          [fun s => [.dev (bump 2 { s.dev with suspects := s.dev.suspects.filter (fun x => !mates.contains x && decide (x.1 ≠ line)) })],
           fun s => if keyid = 0 then s.stopWith 0x06 else .dev (s.dev.addLasting line keyid mates.length) :: s.poisonActs line keyid])

end Sys2Proof.Machine
end

