-- ==== Sys2Proof/Machine/Sched.lean ====
section
/-! DEFINITION. Steps of the split tables and meets (03_control R54, R57 to R59, R63, R66), and the EXT word (02_encoding R31). -/
namespace Sys2Proof.Machine

/-- EXT (R31). Its payload goes to the word that follows it. -/
def execExt (x : BitVec 25) (s : State) : Host.Outcome State Fault Refusal :=
  .next (commit s [(none, .cur (s.run.cur.map (fun c => { c with ext := some x })))])

/-- The slices of a pack that wait at a meet. -/
def State.atMeets (s : State) (p : Nat) : Nat := ((s.slicesOf p).filter (fun x => (s.slice x).meet?.isSome)).length

/-- Testing a pack's meets lets some slice go. -/
def State.meetsReady (s : State) (p : Nat) (partialGang : Bool) : Bool :=
  decide (0 < s.atMeets p) && decide ((s.testMeets p partialGang).atMeets p < s.atMeets p)

/-- MEET_ENTRY_FREE (R57, R63). A completed meet that waited for a split-table entry or for placement takes it and forms its gang. -/
def execMeetEntryFree (pack : Nat) (s : State) : Host.Outcome State Fault Refusal := event s [.meets pack false]

/-- PARTIAL_GANG_TIMER (R59). When the oldest slice waiting at a mode 1 meet has waited 256 ac, the waiting slices form a gang. -/
def execPartialGangTimer (pack : Nat) (s : State) : Host.Outcome State Fault Refusal := event s [.meets pack true]

/-- The top held set of an entry has been held for 4,096 ac (R54). -/
def State.exchangeDue (s : State) (e : Nat) : Bool :=
  match (s.split e).held with
  | h :: _ => decide (h.since + 4096 ≤ s.run.ac)
  | [] => false

/-- HELD_SET_EXCHANGE (R54). The top held set and the running split exchange places when it has been held for 4,096 ac; before that, when another entry of the quadrant is free, the top held set moves into it as a new split. A set whose slices stand apart divides. (DESIGN CHOICE, assumption log 23) -/
def execHeldSetExchange (entry : Nat) (s : State) : Host.Outcome State Fault Refusal :=
  let sp := s.split entry
  match sp.held with
  | h :: hs =>
    let apart := match h.slices with
      | x :: _ => [.resplit x]
      | [] => []
    if s.exchangeDue entry then
      event s (.split entry { sp with slices := h.slices, held := { slices := sp.slices, since := s.run.ac } :: hs, last := s.run.ac, promoted := false, issuedAt := none } :: apart)
    else
      match s.freeEntries (entry / 64) with
      | f :: _ => event s (.split entry { sp with held := hs } :: .split f { slices := h.slices, gang := sp.gang, age := sp.age, last := s.run.ac } :: apart)
      | [] => event s []
  | [] => event s []

/-- The top held set of an entry may move into a free entry of the quadrant (R54). -/
def State.moveReady (s : State) (e : Nat) : Bool := !(s.split e).held.isEmpty && !(s.freeEntries (e / 64)).isEmpty

/-- A split has been passed over for 4,096 ac (R66). -/
def State.promotionDue (s : State) (e : Nat) : Bool := decide ((s.split e).last + 4096 ≤ s.run.ac) && !(s.split e).promoted

/-- SPLIT_PROMOTION (R66). A ready split passed over for 4,096 ac is promoted; the step offers it for a ready split. -/
def execSplitPromotion (entry : Nat) (s : State) : Host.Outcome State Fault Refusal :=
  if s.promotionDue entry && !(s.split entry).slices.isEmpty then event s [.split entry { s.split entry with promoted := true }] else event s []

end Sys2Proof.Machine
end

