-- ==== Sys2Proof/Machine/Spawn.lean ====
section
/-! DEFINITION. SPAWN (03_control R76 to R80, R88): records for a work-graph node's bin, and the wait for room there. -/
namespace Sys2Proof.Machine

/-- The bin a slice's SPAWN sends to: that of its launch and die. (DEDUCED, assumption log 49) -/
def State.spawnBin (s : State) (sl node : Nat) : Nat := binKey (s.packOf sl).launch (dieOfCore (s.coreOf sl)) node

/-- A slice may send to a node (R88, R374): its launch is a graph launch whose sealed graph has the node; a spawned gang sends to successors of its own node. -/
def State.maySpawn (s : State) (sl node : Nat) : Bool :=
  let p := s.packOf sl
  match (s.launch p.launch).graph with
  | none => false
  | some g => decide (node < g.nodes.length)
      && (p.spawned.isNone || (match g.nodes[p.px.toNat]? with
        | some n => flagOf n.succ node
        | none => false))

/-- The trap a slice's SPAWN takes (R88, R96, R101): an unknown node or a direct range past v55, then index bounds, then poison. -/
def State.spawnTrap (s : State) (v : View) (sl : Nat) : Option Trap :=
  let w := s.nodeWords sl v.b
  let o : Opnd := .v w 1 true false
  let ls := s.activeLanes sl v.pg
  if !s.maySpawn sl v.b || (decide (v.d < 56) && decide (56 < v.d + w)) then some (s.illegal sl v.op)
  else (s.boundsTrap sl o v.d ls) <|> s.psnTrap sl v.d (s.psnLanes false sl o v.d ls)

/-- The records of some slices, in ascending gang lane order (R76). -/
def State.spawnRecs (s : State) (v : View) (slices : List Nat) : List (List Word) :=
  slices.flatMap (fun sl => (s.activeLanes sl v.pg).map (fun l => (s.rangeRegs sl l v.d (s.nodeWords sl v.b)).map (s.readReg false sl l)))

/-- Records a bin holds (R76). -/
def binRoom : Nat := 256

/-- SPAWN (R88). Appends one record for each sending lane to the die's bin of a node, with REL after a die-scope release of its slice; without room for all of them the split waits (R80). -/
def execSpawn (f : RF) (s : State) : Host.Outcome State Fault Refusal :=
  issueAll (.spawn f) s (fun c v =>
    let rel := decide (v.a % 2 = 1)
    let ok := c.slices.filter (fun sl => (s.spawnTrap v sl).isNone)
    let recs := s.spawnRecs v ok
    let k := s.spawnBin (c.slices.headD 0) v.b
    let b := s.bin k
    if binRoom < b.recs.length + recs.length then
      c.slices.flatMap (fun sl => match s.spawnTrap v sl with
        | some t => [(some sl, .trap sl t)]
        | none => tagged sl [.slice sl (.goto c.pkt c.word), .slice sl (.status (.spawnRoom k recs.length))])
    else
      let tc := if rel then maxOf (ok.map (fun sl => max (s.core (s.coreOf sl)).ck (s.slice sl).maxws)) else 0
      sliceEffs c v (fun sl => match s.spawnTrap v sl with
        | some t => .error t
        | none => .ok (if rel then s.releaseActs sl 3 else []))
        ++ (if recs = [] then [] else [(none, .bin k { b with recs := b.recs ++ recs.map (fun r => (s.run.ac, r)), tc := max b.tc tc })]))

/-- SPAWN_ROOM can act: the slice waits at a bin that now has room. (DEDUCED, assumption log 49) -/
def State.roomReady (s : State) (sl : Nat) : Bool :=
  match (s.slice sl).status with
  | .spawnRoom k n => decide ((s.bin k).recs.length + n ≤ binRoom)
  | _ => false

/-- SPAWN_ROOM (R80). The bin has room for a waiting SPAWN's records: its split is ready again and the SPAWN executes anew. (DEDUCED, assumption log 49) -/
def execSpawnRoom (slice : Nat) (s : State) : Host.Outcome State Fault Refusal :=
  if s.roomReady slice then
    let st := (s.slice slice).status
    event s (((s.slicesOf (packKey slice)).filter (fun x => decide ((s.slice x).status = st) && decide ((s.slice x).gang = (s.slice slice).gang))).map (fun x => .slice x (.status .run)))
  else event s []

end Sys2Proof.Machine
end

