-- ==== Sys2Proof/Machine/Wake.lean ====
section
/-! DEFINITION. The threads of Sundesh that wait (14_queues R349), and the pages that Sundesh, Sett and the next input wait for (08_memory R198). -/
namespace Sys2Proof.Machine

/-- What a packet that has started does next, when it can (R203, R236, R357, R358, R365, R366, R388, R390). -/
def State.nextStage (s : State) (a : Active) : Option (List Act) :=
  if !s.cstReady a.asid a.cst then none
  else s.waitStep a <|> s.barrierStep a <|> s.drainStep a <|> s.biasStep a <|> s.capStep a <|> s.persistStep a <|> s.stepStage a <|> s.unsnapStep a

/-- The first packet of a queue that goes on, or a stop to be notified, or news of the report block. -/
def State.wakeActs (s : State) (queue : Nat) : Option (List Act) :=
  ((s.sun.active.filter (fun a => decide (a.queue = queue))).findSome? s.nextStage)
    <|> ((s.untold queue).map (fun x => s.tellStop queue x.1 x.2))
    <|> (let asid := (s.queue queue).asid
         let acts := s.settNews asid
         if (s.queue queue).here && (s.sett.regions.any (fun r => decide (r.asid = asid)) || s.sett.stripes.any (fun x => decide (x.asid = asid))) && decide (acts ≠ []) then some acts else none)

/-- SUNDESH_THREAD_WAKE (R349). A write, a completion or the 10 µs re-check wakes the thread of a queue: a packet that waited goes on. -/
def execSundeshThreadWake (queue : Nat) (s : State) : Host.Outcome State Fault Refusal := event s ((s.wakeActs queue).getD [])

/-! ### Pages waited for -/

/-- A row's body. -/
def Row.body : Row → Body
  | .nop => nopBody
  | .launch => launchBody
  | .graphSeal => sealBody
  | .graphLaunch => graphBody
  | .wait => waitBody
  | .signalWrite => signalBody false
  | .signalAdd => signalBody true
  | .barrier => barrierBody
  | .mapRoot => rootBody
  | .mapSync => syncBody
  | .dspalloc => allocBody
  | .dspfree => freeBody
  | .migreg => migregBody
  | .mcgroup => mcgroupBody
  | .mcfree => mcfreeBody
  | .unmap => unmapBody
  | .bias => biasBody
  | .cap => capBody
  | .step => stepBody
  | .snapregionAdd => snapAddBody
  | .snapregionRemove => snapRemoveBody
  | .rebuild => rebuildBody
  | .persist => persistBody
  | .attest => attestBody

/-- The packet a queue can start now. -/
def State.nextPacket (s : State) (q : Nat) : Option (Packet × List Act) := s.startable q (s.queue q).rd

/-- The packet a queue starts now: nothing it reads is on its way. -/
def State.packetReady (s : State) (q : Nat) : Option Packet :=
  match s.nextPacket q with
  | none => none
  | some (p, as) => if (s.startPacket p as true p.row.body).isSome then some p else none

/-- A range's pages, one address each. -/
def State.pagesIn (asid va n : Nat) : List (Nat × Nat) := (pagesOf va (max n 1)).map (fun x => (asid, x))

/-- Pages the next packet of a queue waits for: its ring's, its status word's, one that its body reads or writes. -/
def State.packetWants (s : State) (q : Nat) : List (Nat × Nat) :=
  let x := s.queue q
  if !x.pending || !x.mapped then [] else
  (x.asid, x.slot x.rd) :: (match s.nextPacket q with
    | none => []
    | some (p, _) => (p.asid, p.cst) :: (match p.row.body p s with
      | .error (.wait va) => [(p.asid, va)]
      | _ => []))

/-- Pages packets that have started wait for. -/
def State.activeWants (s : State) : List (Nat × Nat) :=
  s.sun.active.flatMap (fun a => (a.asid, a.cst) :: (match a.work with
    | .wait addr _ _ _ _ => [(a.asid, addr)]
    | _ => []))

/-- Pages into which the arguments of a launch's next packs, or of its bins' next gangs, are to be copied (R371). -/
def State.argWants (s : State) : List (Nat × Nat) :=
  s.launches.flatMap (fun e =>
    let l := e.2
    let lane := fun (m lanes lp : Nat) => (s.argPlaces e.1 m lanes lp).flatMap (fun va => State.pagesIn l.asid va l.arglen)
    if l.arglen = 0 || !l.here then []
    else (if s.hungry e.1 then State.pagesIn l.asid l.argsAt l.arglen ++ lane (l.unit l.next).length (l.gangs * l.slices * 4) l.lanepriv else [])
      ++ (match l.graph with
        | some g => if (s.sun.bins.any (fun k => decide (k.1 / 256 = e.1) && s.binDue k.1)) then State.pagesIn l.asid l.argsAt l.arglen ++ lane 1 32 g.kernel.lanepriv else []
        | none => []))

/-- Pages of save areas that a save or a restoration waits for. -/
def State.saveWants (s : State) : List (Nat × Nat) :=
  (s.launches.filter (fun e => e.2.hard && (s.packsOf e.1).any (fun p => p.2.freeze))).flatMap (fun e => State.pagesIn e.2.asid e.2.csa e.2.csalen)
    ++ (s.ctl.packs.filter (fun e => e.2.saved && decide (s.sectionGood e.1 = none))).flatMap (fun e => State.pagesIn e.2.asid (Sparse.get {} s.sun.saves e.1).va (Sparse.get {} s.sun.saves e.1).len)

/-- Pages the next input waits for: those of the mailbox commands that read or write an address space. -/
def State.inputWants (s : State) (i : Instr) : List (Nat × Nat) :=
  match i with
  | .dbgstate q _ va => State.pagesIn (s.queue q).asid va dbgLen
  | .dbgwrite q _ va => State.pagesIn (s.queue q).asid va dbgLen
  | .dbgresume q _ => (s.launches.filter (fun e => decide (e.2.queue = q) && decide (e.2.debugAt ≠ 0))).flatMap (fun e => State.pagesIn e.2.asid e.2.debugAt 80)
  | _ => []

/-- A page is on its way, or can be. -/
def State.coming (s : State) (x : Nat × Nat) : Bool :=
  match s.walk x.1 x.2 with
  | .ok p => !p.res && s.migratable p
  | .error _ => false

/-- The next input can be taken: no page it needs is still to come. (DESIGN CHOICE, assumption log 69) -/
def State.inputReady (s : State) (i : Instr) : Bool := (s.inputWants i).all (fun x => !s.coming x)

/-- Pages Sundesh and Sett need (R198). -/
def State.sunWants (s : State) : List (Nat × Nat) :=
  s.threads.flatMap s.packetWants ++ s.activeWants ++ s.saveWants ++ s.argWants ++ s.settWants
    ++ (match s.run.env with
      | i :: _ => s.inputWants i
      | [] => [])

end Sys2Proof.Machine
end

