-- ==== Sys2Proof/Machine/Dispatch.lean ====
section
/-! DEFINITION. The dispatch: one arm for each constructor of Instr, one direct call of its meaning. -/
namespace Sys2Proof.Machine

/-- What an instruction word does when it issues, or what a step of another agent does. -/
def exec (i : Instr) (s : State) : Host.Outcome State Fault Refusal :=
  match i with
  | .ext pay => Sys2Proof.Machine.execExt pay s
  | .nop f => Sys2Proof.Machine.execNop f s
  | .bkpt f => Sys2Proof.Machine.execBkpt f s
  | .yield f => Sys2Proof.Machine.execYield f s
  | .exit f => Sys2Proof.Machine.execExit f s
  | .trap f => Sys2Proof.Machine.execTrap f s
  | .rtt f => Sys2Proof.Machine.execRtt f s
  | .srd f => Sys2Proof.Machine.execSrd f s
  | .swr f => Sys2Proof.Machine.execSwr f s
  | .brAny f => Sys2Proof.Machine.execBrAny f s
  | .brAll f => Sys2Proof.Machine.execBrAll f s
  | .call f => Sys2Proof.Machine.execCall f s
  | .jmpr f => Sys2Proof.Machine.execJmpr f s
  | .callr f => Sys2Proof.Machine.execCallr f s
  | .ret f => Sys2Proof.Machine.execRet f s
  | .regang f => Sys2Proof.Machine.execRegang f s
  | .spawn f => Sys2Proof.Machine.execSpawn f s
  | .spill f => Sys2Proof.Machine.execSpill f s
  | .fill f => Sys2Proof.Machine.execFill f s
  | .pand f => Sys2Proof.Machine.execPand f s
  | .por f => Sys2Proof.Machine.execPor f s
  | .pxor f => Sys2Proof.Machine.execPxor f s
  | .pnot f => Sys2Proof.Machine.execPnot f s
  | .voteAny f => Sys2Proof.Machine.execVoteAny f s
  | .voteAll f => Sys2Proof.Machine.execVoteAll f s
  | .ballot f => Sys2Proof.Machine.execBallot f s
  | .pmov f => Sys2Proof.Machine.execPmov f s
  | .shflIdx f => Sys2Proof.Machine.execShflIdx f s
  | .shflUp f => Sys2Proof.Machine.execShflUp f s
  | .shflDown f => Sys2Proof.Machine.execShflDown f s
  | .shflXor f => Sys2Proof.Machine.execShflXor f s
  | .lswz f => Sys2Proof.Machine.execLswz f s
  | .gredIadd f => Sys2Proof.Machine.execGredIadd f s
  | .gredFmax f => Sys2Proof.Machine.execGredFmax f s
  | .gscanIadd f => Sys2Proof.Machine.execGscanIadd f s
  | .iadd f => Sys2Proof.Machine.execIadd f s
  | .isub f => Sys2Proof.Machine.execIsub f s
  | .imul f => Sys2Proof.Machine.execImul f s
  | .imulhI f => Sys2Proof.Machine.execImulhI f s
  | .imulhN f => Sys2Proof.Machine.execImulhN f s
  | .ineg f => Sys2Proof.Machine.execIneg f s
  | .iabs f => Sys2Proof.Machine.execIabs f s
  | .iaddSat f => Sys2Proof.Machine.execIaddSat f s
  | .iminI f => Sys2Proof.Machine.execIminI f s
  | .iminN f => Sys2Proof.Machine.execIminN f s
  | .imaxI f => Sys2Proof.Machine.execImaxI f s
  | .imaxN f => Sys2Proof.Machine.execImaxN f s
  | .iadd64 f => Sys2Proof.Machine.execIadd64 f s
  | .isub64 f => Sys2Proof.Machine.execIsub64 f s
  | .lea f => Sys2Proof.Machine.execLea f s
  | .isubSat f => Sys2Proof.Machine.execIsubSat f s
  | .imad f => Sys2Proof.Machine.execImad f s
  | .imadwI f => Sys2Proof.Machine.execImadwI f s
  | .imadwN f => Sys2Proof.Machine.execImadwN f s
  | .iaccw f => Sys2Proof.Machine.execIaccw f s
  | .idot4I8 f => Sys2Proof.Machine.execIdot4I8 f s
  | .idot4N8 f => Sys2Proof.Machine.execIdot4N8 f s
  | .idot2I16 f => Sys2Proof.Machine.execIdot2I16 f s
  | .isad f => Sys2Proof.Machine.execIsad f s
  | .and f => Sys2Proof.Machine.execAnd f s
  | .or f => Sys2Proof.Machine.execOr f s
  | .xor f => Sys2Proof.Machine.execXor f s
  | .andn f => Sys2Proof.Machine.execAndn f s
  | .orn f => Sys2Proof.Machine.execOrn f s
  | .not f => Sys2Proof.Machine.execNot f s
  | .mov f => Sys2Proof.Machine.execMov f s
  | .sel f => Sys2Proof.Machine.execSel f s
  | .shl f => Sys2Proof.Machine.execShl f s
  | .shr f => Sys2Proof.Machine.execShr f s
  | .sar f => Sys2Proof.Machine.execSar f s
  | .rol f => Sys2Proof.Machine.execRol f s
  | .ror f => Sys2Proof.Machine.execRor f s
  | .shl64 f => Sys2Proof.Machine.execShl64 f s
  | .shr64 f => Sys2Proof.Machine.execShr64 f s
  | .sar64 f => Sys2Proof.Machine.execSar64 f s
  | .popc f => Sys2Proof.Machine.execPopc f s
  | .clz f => Sys2Proof.Machine.execClz f s
  | .ctz f => Sys2Proof.Machine.execCtz f s
  | .brev f => Sys2Proof.Machine.execBrev f s
  | .bfxI f => Sys2Proof.Machine.execBfxI f s
  | .bfxN f => Sys2Proof.Machine.execBfxN f s
  | .bfi f => Sys2Proof.Machine.execBfi f s
  | .bswp f => Sys2Proof.Machine.execBswp f s
  | .isetEq f => Sys2Proof.Machine.execIsetEq f s
  | .isetNe f => Sys2Proof.Machine.execIsetNe f s
  | .isetLtI f => Sys2Proof.Machine.execIsetLtI f s
  | .isetLeI f => Sys2Proof.Machine.execIsetLeI f s
  | .isetLtN f => Sys2Proof.Machine.execIsetLtN f s
  | .isetLeN f => Sys2Proof.Machine.execIsetLeN f s
  | .isetTst f => Sys2Proof.Machine.execIsetTst f s
  | .movi f => Sys2Proof.Machine.execMovi f s
  | .movh f => Sys2Proof.Machine.execMovh f s
  | .mov64 f => Sys2Proof.Machine.execMov64 f s
  | .idxset f => Sys2Proof.Machine.execIdxset f s
  | .idxadd f => Sys2Proof.Machine.execIdxadd f s
  | .winset f => Sys2Proof.Machine.execWinset f s
  | .unif f => Sys2Proof.Machine.execUnif f s
  | .fadd f => Sys2Proof.Machine.execFadd f s
  | .fsub f => Sys2Proof.Machine.execFsub f s
  | .fmul f => Sys2Proof.Machine.execFmul f s
  | .fmin f => Sys2Proof.Machine.execFmin f s
  | .fmax f => Sys2Proof.Machine.execFmax f s
  | .fabs f => Sys2Proof.Machine.execFabs f s
  | .fneg f => Sys2Proof.Machine.execFneg f s
  | .fcpys f => Sys2Proof.Machine.execFcpys f s
  | .ffma f => Sys2Proof.Machine.execFfma f s
  | .ffms f => Sys2Proof.Machine.execFfms f s
  | .fnma f => Sys2Proof.Machine.execFnma f s
  | .twosum f => Sys2Proof.Machine.execTwosum f s
  | .ftsum f => Sys2Proof.Machine.execFtsum f s
  | .twoprod f => Sys2Proof.Machine.execTwoprod f s
  | .fsetEq f => Sys2Proof.Machine.execFsetEq f s
  | .fsetNe f => Sys2Proof.Machine.execFsetNe f s
  | .fsetLt f => Sys2Proof.Machine.execFsetLt f s
  | .fsetLe f => Sys2Proof.Machine.execFsetLe f s
  | .fsetUnord f => Sys2Proof.Machine.execFsetUnord f s
  | .fsetOrd f => Sys2Proof.Machine.execFsetOrd f s
  | .fsetClass f => Sys2Proof.Machine.execFsetClass f s
  | .frcp f => Sys2Proof.Machine.execFrcp f s
  | .frsq f => Sys2Proof.Machine.execFrsq f s
  | .fsqrt f => Sys2Proof.Machine.execFsqrt f s
  | .fexp2 f => Sys2Proof.Machine.execFexp2 f s
  | .flog2 f => Sys2Proof.Machine.execFlog2 f s
  | .fsin f => Sys2Proof.Machine.execFsin f s
  | .fcos f => Sys2Proof.Machine.execFcos f s
  | .ftanh f => Sys2Proof.Machine.execFtanh f s
  | .hadd2Bf16 f => Sys2Proof.Machine.execHadd2Bf16 f s
  | .hmul2Bf16 f => Sys2Proof.Machine.execHmul2Bf16 f s
  | .hfma2Bf16 f => Sys2Proof.Machine.execHfma2Bf16 f s
  | .hadd2F16 f => Sys2Proof.Machine.execHadd2F16 f s
  | .hmul2F16 f => Sys2Proof.Machine.execHmul2F16 f s
  | .hfma2F16 f => Sys2Proof.Machine.execHfma2F16 f s
  | .hmax2Bf16 f => Sys2Proof.Machine.execHmax2Bf16 f s
  | .hmin2Bf16 f => Sys2Proof.Machine.execHmin2Bf16 f s
  | .dadd f => Sys2Proof.Machine.execDadd f s
  | .dsub f => Sys2Proof.Machine.execDsub f s
  | .dmul f => Sys2Proof.Machine.execDmul f s
  | .dfma f => Sys2Proof.Machine.execDfma f s
  | .dmin f => Sys2Proof.Machine.execDmin f s
  | .dmax f => Sys2Proof.Machine.execDmax f s
  | .dsetLt f => Sys2Proof.Machine.execDsetLt f s
  | .dsetEq f => Sys2Proof.Machine.execDsetEq f s
  | .cvtF32I32 f => Sys2Proof.Machine.execCvtF32I32 f s
  | .cvtF32N32 f => Sys2Proof.Machine.execCvtF32N32 f s
  | .cvtI32F32 f => Sys2Proof.Machine.execCvtI32F32 f s
  | .cvtN32F32 f => Sys2Proof.Machine.execCvtN32F32 f s
  | .cvtF32F64 f => Sys2Proof.Machine.execCvtF32F64 f s
  | .cvtF64F32 f => Sys2Proof.Machine.execCvtF64F32 f s
  | .cvtBf16x2F32 f => Sys2Proof.Machine.execCvtBf16x2F32 f s
  | .cvtF16x2F32 f => Sys2Proof.Machine.execCvtF16x2F32 f s
  | .unpkBf16x2 f => Sys2Proof.Machine.execUnpkBf16x2 f s
  | .unpkF16x2 f => Sys2Proof.Machine.execUnpkF16x2 f s
  | .cvtF64I32 f => Sys2Proof.Machine.execCvtF64I32 f s
  | .cvtI32F64 f => Sys2Proof.Machine.execCvtI32F64 f s
  | .packI8x4 f => Sys2Proof.Machine.execPackI8x4 f s
  | .packN8x4 f => Sys2Proof.Machine.execPackN8x4 f s
  | .unpkI8x4 f => Sys2Proof.Machine.execUnpkI8x4 f s
  | .unpkN8x4 f => Sys2Proof.Machine.execUnpkN8x4 f s
  | .qnt f => Sys2Proof.Machine.execQnt f s
  | .dqnt f => Sys2Proof.Machine.execDqnt f s
  | .qpack f => Sys2Proof.Machine.execQpack f s
  | .qunpk f => Sys2Proof.Machine.execQunpk f s
  | .segscl f => Sys2Proof.Machine.execSegscl f s
  | .fmtchk f => Sys2Proof.Machine.execFmtchk f s
  | .ld f => Sys2Proof.Machine.execLd f s
  | .st f => Sys2Proof.Machine.execSt f s
  | .ldNt f => Sys2Proof.Machine.execLdNt f s
  | .stNt f => Sys2Proof.Machine.execStNt f s
  | .ldfe f => Sys2Proof.Machine.execLdfe f s
  | .stfe f => Sys2Proof.Machine.execStfe f s
  | .pf f => Sys2Proof.Machine.execPf f s
  | .cmoClean f => Sys2Proof.Machine.execCmoClean f s
  | .cmoInv f => Sys2Proof.Machine.execCmoInv f s
  | .cmoCleaninv f => Sys2Proof.Machine.execCmoCleaninv f s
  | .atomG f => Sys2Proof.Machine.execAtomG f s
  | .atomS f => Sys2Proof.Machine.execAtomS f s
  | .atomC f => Sys2Proof.Machine.execAtomC f s
  | .redG f => Sys2Proof.Machine.execRedG f s
  | .bara f => Sys2Proof.Machine.execBara f s
  | .barw f => Sys2Proof.Machine.execBarw f s
  | .baraw f => Sys2Proof.Machine.execBaraw f s
  | .barinit f => Sys2Proof.Machine.execBarinit f s
  | .gbar f => Sys2Proof.Machine.execGbar f s
  | .barq f => Sys2Proof.Machine.execBarq f s
  | .arrvInit f => Sys2Proof.Machine.execArrvInit f s
  | .arrvAdd f => Sys2Proof.Machine.execArrvAdd f s
  | .await f => Sys2Proof.Machine.execAwait f s
  | .awaitT f => Sys2Proof.Machine.execAwaitT f s
  | .arrvRd f => Sys2Proof.Machine.execArrvRd f s
  | .fenceAcq f => Sys2Proof.Machine.execFenceAcq f s
  | .fenceRel f => Sys2Proof.Machine.execFenceRel f s
  | .fenceAr f => Sys2Proof.Machine.execFenceAr f s
  | .fenceSp f => Sys2Proof.Machine.execFenceSp f s
  | .ifence f => Sys2Proof.Machine.execIfence f s
  | .pbar f => Sys2Proof.Machine.execPbar f s
  | .psync f => Sys2Proof.Machine.execPsync f s
  | .mma f => Sys2Proof.Machine.execMma f s
  | .mzero f => Sys2Proof.Machine.execMzero f s
  | .mrd f => Sys2Proof.Machine.execMrd f s
  | .mwr f => Sys2Proof.Machine.execMwr f s
  | .mdrain f => Sys2Proof.Machine.execMdrain f s
  | .mfence f => Sys2Proof.Machine.execMfence f s
  | .mwait f => Sys2Proof.Machine.execMwait f s
  | .mwm f => Sys2Proof.Machine.execMwm f s
  | .mtld f => Sys2Proof.Machine.execMtld f s
  | .mstat f => Sys2Proof.Machine.execMstat f s
  | .cpy f => Sys2Proof.Machine.execCpy f s
  | .cpym f => Sys2Proof.Machine.execCpym f s
  | .cpystg f => Sys2Proof.Machine.execCpystg f s
  | .cpystgRet f => Sys2Proof.Machine.execCpystgRet f s
  | .cpytst f => Sys2Proof.Machine.execCpytst f s
  | .cpywt f => Sys2Proof.Machine.execCpywt f s
  | .cpyq f => Sys2Proof.Machine.execCpyq f s
  | .cpycnl f => Sys2Proof.Machine.execCpycnl f s
  | .rput f => Sys2Proof.Machine.execRput f s
  | .rget f => Sys2Proof.Machine.execRget f s
  | .rred f => Sys2Proof.Machine.execRred f s
  | .rstv f => Sys2Proof.Machine.execRstv f s
  | .rrcv f => Sys2Proof.Machine.execRrcv f s
  | .name f => Sys2Proof.Machine.execName f s
  | .rstat f => Sys2Proof.Machine.execRstat f s
  | .meetEntryFree pack => Sys2Proof.Machine.execMeetEntryFree pack s
  | .partialGangTimer pack => Sys2Proof.Machine.execPartialGangTimer pack s
  | .heldSetExchange entry => Sys2Proof.Machine.execHeldSetExchange entry s
  | .splitPromotion entry => Sys2Proof.Machine.execSplitPromotion entry s
  | .binTimer bin => Sys2Proof.Machine.execBinTimer bin s
  | .spawnRoom slice => Sys2Proof.Machine.execSpawnRoom slice s
  | .tokenGrant die => Sys2Proof.Machine.execTokenGrant die s
  | .mmaEngineStart quad => Sys2Proof.Machine.execMmaEngineStart quad s
  | .mmaBlockEnd quad => Sys2Proof.Machine.execMmaBlockEnd quad s
  | .mmaResume id => Sys2Proof.Machine.execMmaResume id s
  | .mmaSuspend id => Sys2Proof.Machine.execMmaSuspend id s
  | .refillAccept pack entry => Sys2Proof.Machine.execRefillAccept pack entry s
  | .copyQueueSpace slice => Sys2Proof.Machine.execCopyQueueSpace slice s
  | .chunkStart core queue => Sys2Proof.Machine.execChunkStart core queue s
  | .copyQueueResume core queue => Sys2Proof.Machine.execCopyQueueResume core queue s
  | .chunkEnd core queue => Sys2Proof.Machine.execChunkEnd core queue s
  | .copyComplete core queue => Sys2Proof.Machine.execCopyComplete core queue s
  | .barrierWake slice => Sys2Proof.Machine.execBarrierWake slice s
  | .groupPhaseComplete launch group => Sys2Proof.Machine.execGroupPhaseComplete launch group s
  | .awaitWake slice => Sys2Proof.Machine.execAwaitWake slice s
  | .awaitTimeout slice => Sys2Proof.Machine.execAwaitTimeout slice s
  | .loadDataReturn req => Sys2Proof.Machine.execLoadDataReturn req s
  | .homeRead req => Sys2Proof.Machine.execHomeRead req s
  | .homeWrite req => Sys2Proof.Machine.execHomeWrite req s
  | .storeAck req => Sys2Proof.Machine.execStoreAck req s
  | .parkedReplay req => Sys2Proof.Machine.execParkedReplay req s
  | .migrationComplete asid va => Sys2Proof.Machine.execMigrationComplete asid va s
  | .pageMove asid va tier stack => Sys2Proof.Machine.execPageMove asid va tier stack s
  | .wcBufferDrain core => Sys2Proof.Machine.execWcBufferDrain core s
  | .l2Writeback line => Sys2Proof.Machine.execL2Writeback line s
  | .clockTick core => Sys2Proof.Machine.execClockTick core s
  | .sweepComplete die => Sys2Proof.Machine.execSweepComplete die s
  | .fenceSpValidate gang => Sys2Proof.Machine.execFenceSpValidate gang s
  | .persistAccept id => Sys2Proof.Machine.execPersistAccept id s
  | .epochClosedNotice slice epoch opq => Sys2Proof.Machine.execEpochClosedNotice slice epoch opq s
  | .cxlSnoopInvalidation hpa data => Sys2Proof.Machine.execCxlSnoopInvalidation hpa data s
  | .hostMemRead pa size => Sys2Proof.Machine.execHostMemRead pa size s
  | .hostMemWrite pa data => Sys2Proof.Machine.execHostMemWrite pa data s
  | .cxlCompletionTimeout req => Sys2Proof.Machine.execCxlCompletionTimeout req s
  | .ideCheckFail => Sys2Proof.Machine.execIdeCheckFail s
  | .ideKm => Sys2Proof.Machine.execIdeKm s
  | .remoteAccessArrive a => Sys2Proof.Machine.execRemoteAccessArrive a s
  | .remoteResponse req rcode data => Sys2Proof.Machine.execRemoteResponse req rcode data s
  | .remoteTimeout req => Sys2Proof.Machine.execRemoteTimeout req s
  | .dropNotice req => Sys2Proof.Machine.execDropNotice req s
  | .bulkPacketArrive p => Sys2Proof.Machine.execBulkPacketArrive p s
  | .bulkAck op packet rcode data => Sys2Proof.Machine.execBulkAck op packet rcode data s
  | .messageArrive m => Sys2Proof.Machine.execMessageArrive m s
  | .linkTraining port => Sys2Proof.Machine.execLinkTraining port s
  | .linkRekey port => Sys2Proof.Machine.execLinkRekey port s
  | .linkDown port => Sys2Proof.Machine.execLinkDown port s
  | .packDispatch launch core => Sys2Proof.Machine.execPackDispatch launch core s
  | .launchComplete launch => Sys2Proof.Machine.execLaunchComplete launch s
  | .drainPreemption launch => Sys2Proof.Machine.execDrainPreemption launch s
  | .hardPreemption launch => Sys2Proof.Machine.execHardPreemption launch s
  | .packRestore pack core slot => Sys2Proof.Machine.execPackRestore pack core slot s
  | .sundeshThreadWake queue => Sys2Proof.Machine.execSundeshThreadWake queue s
  | .waitTimeout queue => Sys2Proof.Machine.execWaitTimeout queue s
  | .queueRotation out into => Sys2Proof.Machine.execQueueRotation out into s
  | .poolUpdate die => Sys2Proof.Machine.execPoolUpdate die s
  | .telemetryRefresh => Sys2Proof.Machine.execTelemetryRefresh s
  | .railOvercurrent => Sys2Proof.Machine.execRailOvercurrent s
  | .clockStepUp => Sys2Proof.Machine.execClockStepUp s
  | .junctionOver105 die => Sys2Proof.Machine.execJunctionOver105 die s
  | .thermalTrip => Sys2Proof.Machine.execThermalTrip s
  | .powerLoss => Sys2Proof.Machine.execPowerLoss s
  | .powerOn => Sys2Proof.Machine.execPowerOn s
  | .bringupStage => Sys2Proof.Machine.execBringupStage s
  | .poisonRecheck line => Sys2Proof.Machine.execPoisonRecheck line s
  | .uncontainableError => Sys2Proof.Machine.execUncontainableError s
  | .settPageCopy asid va => Sys2Proof.Machine.execSettPageCopy asid va s
  | .snapshotComplete asid => Sys2Proof.Machine.execSnapshotComplete asid s
  | .parityFold asid desc => Sys2Proof.Machine.execParityFold asid desc s
  | .rebuildDone asid => Sys2Proof.Machine.execRebuildDone asid s
  | .heartbeatTimeout => Sys2Proof.Machine.execHeartbeatTimeout s
  | .doorbell queue count => Sys2Proof.Machine.execDoorbell queue count s
  | .warmReset => Sys2Proof.Machine.execWarmReset s
  | .plimWrite value => Sys2Proof.Machine.execPlimWrite value s
  | .hostRegisterWrite offset value => Sys2Proof.Machine.execHostRegisterWrite offset value s
  | .qreg queue va => Sys2Proof.Machine.execQreg queue va s
  | .qunreg queue => Sys2Proof.Machine.execQunreg queue s
  | .qresume queue => Sys2Proof.Machine.execQresume queue s
  | .preempt queue mode => Sys2Proof.Machine.execPreempt queue mode s
  | .fwstage slot va => Sys2Proof.Machine.execFwstage slot va s
  | .fwact expected => Sys2Proof.Machine.execFwact expected s
  | .dbgstate queue name va => Sys2Proof.Machine.execDbgstate queue name va s
  | .dbgwrite queue name va => Sys2Proof.Machine.execDbgwrite queue name va s
  | .dbgresume queue name => Sys2Proof.Machine.execDbgresume queue name s
  | .nopPacket queue index => Sys2Proof.Machine.execNopPacket queue index s
  | .launch queue index => Sys2Proof.Machine.execLaunch queue index s
  | .graphSeal queue index => Sys2Proof.Machine.execGraphSeal queue index s
  | .graphLaunch queue index => Sys2Proof.Machine.execGraphLaunch queue index s
  | .wait queue index => Sys2Proof.Machine.execWait queue index s
  | .signalWrite queue index => Sys2Proof.Machine.execSignalWrite queue index s
  | .signalAdd queue index => Sys2Proof.Machine.execSignalAdd queue index s
  | .barrier queue index => Sys2Proof.Machine.execBarrier queue index s
  | .mapRoot queue index => Sys2Proof.Machine.execMapRoot queue index s
  | .mapSync queue index => Sys2Proof.Machine.execMapSync queue index s
  | .dspalloc queue index => Sys2Proof.Machine.execDspalloc queue index s
  | .dspfree queue index => Sys2Proof.Machine.execDspfree queue index s
  | .migreg queue index => Sys2Proof.Machine.execMigreg queue index s
  | .mcgroup queue index => Sys2Proof.Machine.execMcgroup queue index s
  | .mcfree queue index => Sys2Proof.Machine.execMcfree queue index s
  | .unmap queue index => Sys2Proof.Machine.execUnmap queue index s
  | .bias queue index => Sys2Proof.Machine.execBias queue index s
  | .cap queue index => Sys2Proof.Machine.execCap queue index s
  | .step queue index => Sys2Proof.Machine.execStep queue index s
  | .snapregionAdd queue index => Sys2Proof.Machine.execSnapregionAdd queue index s
  | .snapregionRemove queue index => Sys2Proof.Machine.execSnapregionRemove queue index s
  | .rebuild queue index => Sys2Proof.Machine.execRebuild queue index s
  | .persist queue index => Sys2Proof.Machine.execPersist queue index s
  | .attest queue index => Sys2Proof.Machine.execAttest queue index s
  | .getVersion => Sys2Proof.Machine.execGetVersion s
  | .getCapabilities => Sys2Proof.Machine.execGetCapabilities s
  | .negotiateAlgorithms => Sys2Proof.Machine.execNegotiateAlgorithms s
  | .getDigests => Sys2Proof.Machine.execGetDigests s
  | .getCertificate slot => Sys2Proof.Machine.execGetCertificate slot s
  | .challenge nonce => Sys2Proof.Machine.execChallenge nonce s
  | .getMeasurements index => Sys2Proof.Machine.execGetMeasurements index s
  | .keyExchange => Sys2Proof.Machine.execKeyExchange s
  | .finish => Sys2Proof.Machine.execFinish s
  | .endSession => Sys2Proof.Machine.execEndSession s
  | .keyset slot key => Sys2Proof.Machine.execKeyset slot key s
  | .keyrevoke slot => Sys2Proof.Machine.execKeyrevoke slot s
  | .opqDrain die => Sys2Proof.Machine.execOpqDrain die s
  | .leaseCopyEviction copy => Sys2Proof.Machine.execLeaseCopyEviction copy s

end Sys2Proof.Machine
end

