-- ==== Sys2Proof/Machine/Group.lean ====
section
/-! DEFINITION. Issuing a split: whether it is ready and with what (R64, R201, R229), and the combined effects of a chained group (R25 to R27, R96, R97, R164). -/
namespace Sys2Proof.Machine

/-- What a split would do now. -/
inductive Plan where
  /-- not ready (R64) -/
  | wait
  /-- the slices named take their traps, before any word has an effect; the flag says that a transient window open before the group is still open (R39) -/
  | trap (ts : List (Nat × Trap)) (opens : Bool)
  /-- the group, the packet's bytes and the pages it was fetched from -/
  | run (ms : List Member) (bytes : List Byte) (pages : List (Page × Nat))
  deriving DecidableEq, Repr

/-- The place after a group. -/
def afterGroup (pkt : Nat) (ms : List Member) : Nat × Nat :=
  match ms.getLast? with
  | some m => if m.idx = 2 then (pkt + 12, 0) else (pkt, m.idx + 1)
  | none => (pkt, 0)

/-- Word index at which an instruction begins: its EXT word when it has one. -/
def Member.start (m : Member) : Nat := if m.ext = none then m.idx else m.idx - 1

/-- The place after one member. -/
def Member.after (pkt : Nat) (m : Member) : Nat × Nat := if m.idx = 2 then (pkt + 12, 0) else (pkt, m.idx + 1)

/-- Where the slices of a split go on after their group: after an instruction that RTT with RPL executes again, its whole group is done (R113, DEDUCED, assumption log 81). -/
def nextPlace (only : Bool) (pkt word : Nat) (ws : List (BitVec 32)) (ms : List Member) : Nat × Nat :=
  afterGroup pkt (if only then (match groupFrom 3 word (ws.drop word) with
    | .ok all _ => all
    | .ill _ _ => ms) else ms)

/-- A group leaves open transient windows open at its start (R38): its first instruction, if it is one, is an ALU-pipe instruction, LD, LD.nt or PF. (DEDUCED, assumption log 74) -/
def opensOf : List Member → Bool
  | [] => true
  | m :: _ => m.v.bypass

/-- FENCE.SP chained with other instructions acts as FENCE.AR, whose outcomes are its own (R226, R230). (DEDUCED, assumption log 31) -/
def asGroup (ms : List Member) : List Member :=
  if ms.length = 1 then ms
  else ms.map (fun m => match m.i with
    | .fenceSp f => (match view (.fenceAr f) with
      | .word v => { m with i := .fenceAr f, v := { v with c := m.v.c } }
      | _ => m)
    | _ => m)

/-- The Cur of the k-th member of a group. Its `next` is the place after the whole group (R22). -/
def memberCur (e : Nat) (all slices : List Nat) (pkt first : Nat) (next : Nat × Nat) (opens : Bool) (n k : Nat) (m : Member) : Cur :=
  { entry := e, slices := slices, pkt := pkt, word := m.start, nextPkt := next.1, nextWord := next.2, firstPkt := pkt, firstWord := first, ext := m.ext, iid := n + k, index := k, all := all, opens := opens }

/-- What one line of a packet that is read from memory changes (R220, R235): OBSV, and at its home the read lease; the line enters the die's L2 where that is not its home. A host-bias line is asked of the host (R202). (DEDUCED, assumption log 27) -/
def State.lineFetchActs (s : State) (core : Nat) (p : Page × Nat) : List Act :=
  let line := lineOf (p.1.key p.2)
  match s.leaseCopy core line with
  | some x => [.raiseObsv core x.wts]
  | none =>
    let ck := (s.core core).ck
    .raiseObsv core (s.wtsOf line) :: .times line (s.wtsOf line) (s.leaseEnd core line ck)
      :: (if p.1.hb then [.send (.cacheRead (p.1.key p.2))] else [])
      ++ s.fillActs core line ck (s.wtsOf line) false false

/-- What fetching changes (R193, R235): A bits, cached translations, the core's instruction cache, the leases of the lines read, and the choices used up. -/
def State.fetchActs (s : State) (sl pkt : Nat) (bytes : List Byte) (pages : List (Page × Nat)) : List Act :=
  let old := s.cachedPacket sl pkt
  let own := pages.filter (fun p => decide (p.2 = pkt) || decide (p.2 % 2 ^ 16 = 0))
  own.flatMap (fun p => s.pageActs sl false p.1 p.2)
    ++ (if old = bytes then [] else pages.flatMap (s.lineFetchActs (s.coreOf sl)) ++ [.icache (icacheKey (s.coreOf sl) (s.packOf sl).asid pkt) bytes])
    ++ (if old ≠ [] ∧ old ≠ s.fetchMem sl pkt pages ∧ !(own.any (fun p => (s.staleTlb (s.tlbsOf sl) (s.packOf sl).asid p.2).isSome)) then [.draw 1] else [])

/-- What a word reads in a slice (R40): its guard, the index registers its fields name, and its source registers. -/
def State.srcs (s : State) (sl : Nat) (m : Member) : List Dst :=
  (s.liveLanes sl).flatMap (fun l =>
    let idx := fun (o : Opnd) (field : Nat) => if o.regs ≠ 0 ∧ 56 ≤ field then [Dst.x l (field - 56)] else []
    let reg := fun (o : Opnd) (field : Nat) => if !o.reads then [] else (match s.resolve sl l field o.regs with
      | .ok r => (List.range o.regs).map (fun k => Dst.r l (r + k))
      | .error _ => [])
    let b := if (m.v.imm m.ext).isSome then Opnd.non else m.v.form.b
    (if m.v.pg = 0 then [] else [.p l m.v.pg]) ++ idx m.v.form.d m.v.d ++ idx m.v.form.a m.v.a ++ idx b m.v.b ++ reg m.v.form.d m.v.d ++ reg m.v.form.a m.v.a ++ reg b m.v.b)

/-- The transient span of a slice with one more instruction in it (R40): a write of what the producer or an instruction of the span reads breaks it. (DEDUCED, assumption log 16) -/
def State.spanWith (s : State) (sl : Nat) (x : Span) (m : Member) : Span :=
  if !m.v.bypass then {}
  else if x = {} ∧ !m.v.transient m.ext then {}
  else
    let reads := x.reads ++ s.srcs sl m
    let writes := if m.v.transient m.ext then [] else s.dsts sl m.v
    { reads := reads, writes := x.writes ++ writes, broken := x.broken || writes.any (fun d => reads.contains d) }

/-- What the group changes in the span book-keeping of a slice: its span, and a broken span that is executed again (R40), whose destinations hold undefined values from the restart on, and again when the slice is back where it was interrupted. -/
def State.spanActs (s : State) (sl pkt first : Nat) (ms : List Member) : List Act :=
  let x := s.slice sl
  let span := ms.foldl (s.spanWith sl) (if x.trans = [] then {} else x.span)
  (if span = {} ∧ x.spanNext = {} then [] else [.slice sl (.spanNext span)])
    ++ (match x.redo with
      | none => []
      | some r =>
        let on := r.on || (decide (r.pkt = pkt) && decide (r.word = first))
        if !on || decide (hmOf x.trapcause ≠ r.hm) then []
        else if r.left < ms.length then .slice sl (.redo none) :: r.dsts.map (.undef sl)
        else .slice sl (.redo (some { r with on := true, left := r.left - ms.length })) :: (if r.on then [] else r.dsts.map (.undef sl)))

/-- The state in which a split's group executes: fetched, counted, and noted as its entry's issue (R65, R66); YIELD leaves the promotion count as it is (R111). -/
def State.arm (s : State) (e pkt : Nat) (ms : List Member) (bytes : List Byte) (pages : List (Page × Nat)) : State :=
  let sp := s.split e
  let sl := sp.slices.headD 0
  let yields := ms.any (fun m => match m.i with
    | .yield _ => true
    | _ => false)
  applyAll s (plain (s.fetchActs sl pkt bytes pages
    ++ sp.slices.flatMap (fun x => (if (s.slice x).drain then [.slice x (.drain false)] else []) ++ s.spanActs x pkt (s.slice x).word ms)
    ++ [.split e (if yields then { sp with yield := none, issuedAt := some s.run.ac } else { sp with last := s.run.ac, promoted := false, yield := none, issuedAt := some s.run.ac })]
    ++ ms.map (fun _ => .countIssue)))

/-- The SWR FPCTL writes among some effects, which a later word of the group uses (R164). -/
def fpctlOf (es : List Eff) : List Eff := es.filter (fun e => match e.2 with
  | .slice _ (.fpctl _ _) => true
  | _ => false)

/-- What a fence of the group changes for its memory access, which follows it (R226): the core's clock, stale host copies, the instruction cache. -/
def fenceOf (es : List Eff) : List Eff := es.filter (fun e => match e.2 with
  | .raiseCk _ _ => true
  | .copy _ none => true
  | .icacheDrop _ => true
  | .freshSlice _ => true
  | _ => false)

/-- The effects of the fences of a group on its memory access (R226). -/
def fenceEffs (s : State) (cur : Nat → Member → Cur) : Nat → List Member → List Eff
  | _, [] => []
  | k, m :: ms =>
    (if m.v.op = 0x2E then (match exec m.i { s with run := { s.run with cur := some (cur k m) } } with
      | .next t => fenceOf t.log
      | _ => []) else []) ++ fenceEffs s cur (k + 1) ms

/-- The effects of each member, all computed from the state before the group (R25), but for FPCTL (R164) and a memory access after a fence (R226). The answer is the outcome of the first member that does not answer a next state, or the logs. (DESIGN CHOICE, assumption log 2) -/
def runMembers (s : State) (cur : Nat → Member → Cur) (pre : List Eff) : Nat → List Eff → List Member → Except (Host.Outcome State Fault Refusal) (List (List Eff))
  | _, _, [] => .ok []
  | k, fp, m :: ms =>
    let s1 := applyAll { s with run := { s.run with cur := some (cur k m) } } (fp ++ if m.v.needsMem then pre else [])
    match exec m.i s1 with
    | .next t =>
      (match runMembers s cur pre (k + 1) (fp ++ fpctlOf t.log) ms with
      | .ok ls => .ok (t.log :: ls)
      | .error o => .error o)
    | .fault f => .error (.fault f)
    | .refused r => .error (.refused r)

/-- The rank of a trap among those of one group (R96): illegal instructions, operand tests, then the conditions of the entries. -/
def Trap.rank (t : Trap) : Nat := if t.code = 0x01 then 0 else if t.operand then 1 else 2

/-- The first of some traps by rank, then by word (R96). (DEDUCED, assumption log 12) -/
def firstTrap : List Trap → Option Trap
  | [] => none
  | t :: ts =>
    match firstTrap ts with
    | none => some t
    | some u => some (if u.rank < t.rank then u else t)

/-- The traps of a slice in one word's effects. -/
def wordTraps (sl : Nat) (es : List Eff) : List Trap :=
  es.filterMap (fun e => match e with
    | (some x, .trap _ t) => if x = sl then some t else none
    | _ => none)

/-- The traps of a slice in the logs of a group, in word order, each with what R94 and R97 say of its word: DIST counts the instructions of the group before it, and with AFT = 1 the slice resumes after the word itself. (DEDUCED, assumption log 12) (DEDUCED, assumption log 26) -/
def trapsOf (sl pkt : Nat) (ms : List Member) (logs : List (List Eff)) : List Trap :=
  (ms.zip logs).zipIdx.flatMap (fun x => (wordTraps sl x.1.2).map (fun t =>
    if t.aft then { t with resume := t.resume <|> some (x.1.1.after pkt) } else { t with dist := x.2 }))

/-- A word of the group waits for space in a queue or bin in a slice (R80, R292). -/
def parksOf (sl : Nat) (logs : List (List Eff)) : List Act :=
  logs.flatten.filterMap (fun e => match e with
    | (some x, .slice y (.status (.copySpace q m))) => if x = sl then some (.slice y (.status (.copySpace q m))) else none
    | (some x, .slice y (.status (.spawnRoom b n))) => if x = sl then some (.slice y (.status (.spawnRoom b n))) else none
    | _ => none)

/-- Effects that come after the split is settled: meets and the end of a pack. (DEDUCED, assumption log 26) -/
def isLate : Act → Bool
  | .meets _ _ => true
  | .packEnd _ => true
  | _ => false
/-- Book-keeping effects of one word that the group does once. (DEDUCED, assumption log 26) -/
def isOnce : Act → Bool
  | .settle => true
  | .cur _ => true
  | .trap _ _ => true
  | _ => false

/-- Floating-point flags: they are raised at completion, after an SWR of the group (R164). -/
def isFlags : Act → Bool
  | .slice _ (.flags _) => true
  | .slice _ (.flight _ _ _) => true
  | _ => false

/-- The register writes of one word in a slice: lane key, register and value. -/
def regWrites (sl : Nat) (es : List Eff) : List (Nat × Nat × Word) :=
  es.filterMap (fun e => match e with
    | (some x, .reg l r v _) => if x = sl then some (l, r, v) else none
    | _ => none)

/-- The uniform tags of registers that more than one word of the group writes in a slice (R125): set where the group leaves all live lanes equal; when one of the words is no ALU-pipe instruction, the hardware chooses. -/
def State.retag (s : State) (sl : Nat) (ms : List Member) (logs : List (List Eff)) : List Act :=
  let ws := (ms.zip logs).map (fun x => (x.1, regWrites sl x.2))
  let all := ws.flatMap (fun x => x.2)
  ((all.map (fun w => w.2.1)).eraseDups).flatMap (fun r =>
    let by_ := ws.filter (fun x => x.2.any (fun w => decide (w.2.1 = r)))
    if by_.length < 2 then []
    else
      let vals : List Word := (maskLanes (s.slice sl).live).map (fun l =>
        match (all.filter (fun w => decide (w.1 = laneKey sl l) && decide (w.2.1 = r))).getLast? with
        | some w => w.2.2
        | none => s.file (laneKey sl l) r)
      let alu := by_.all (fun x => decide (x.1.v.form.pipe = .alu) || decide (x.1.v.form.pipe = .alu0))
      let same := vals.all (fun x => decide ((some x : Option Word) = vals.head?)) && (alu || decide (s.pick 0 2 = 1))
      .untag sl r (!same) :: (if same then [.uniform (s.quadOf sl) 1] else []))

/-- The combined effects of a group (R25 to R27). A slice that takes a trap in any word keeps no effect of the group (R97); one whose word waits for space issues the group again. `whole` gives the unsliced effects of the slices that remain, `tags` the uniform tags of a slice. (DEDUCED, assumption log 26) -/
def groupEffs (slices : List Nat) (first : Nat × Nat) (next : Nat × Nat) (ms : List Member) (logs : List (List Eff)) (tags : Nat → List Act) (whole : List Nat → List Eff) : List Eff :=
  let trap := fun (sl : Nat) => firstTrap (trapsOf sl first.1 ms logs)
  let parked := slices.filter (fun sl => trap sl = none && !(parksOf sl logs).isEmpty)
  let left := slices.filter (fun sl => trap sl = none && (parksOf sl logs).isEmpty)
  let sliced := logs.flatten.filter (fun e => match e.1 with
    | some sl => left.contains sl && !isOnce e.2 && !(match e.2 with
      | .slice _ (.goto p w) => decide ((p, w) = next)
      | _ => false)
    | none => false)
  let un := whole left
  left.map (fun sl => (some sl, .slice sl (.goto next.1 next.2))) ++ sliced.filter (fun e => !isFlags e.2) ++ sliced.filter (fun e => isFlags e.2)
    ++ left.flatMap (fun sl => (tags sl).map (fun a => (some sl, a)))
    ++ un.filter (fun e => !isOnce e.2 && !isLate e.2)
    ++ parked.flatMap (fun sl => (some sl, Act.slice sl (.goto first.1 first.2)) :: ((parksOf sl logs).take 1).map (fun a => (some sl, a)))
    ++ slices.filterMap (fun sl => (trap sl).map (fun t => (some sl, Act.trap sl t)))
    ++ [(none, .settle)] ++ un.filter (fun e => isLate e.2)

/-- The logs of a group's words for some slices of a split, from the armed state. -/
def State.wordLogs (s : State) (e : Nat) (all slices : List Nat) (pkt first : Nat) (next : Nat × Nat) (n : Nat) (ms : List Member) : Except (Host.Outcome State Fault Refusal) (List (List Eff)) :=
  let cur := memberCur e all slices pkt first next (opensOf ms) n
  runMembers s cur (fenceEffs s cur 0 ms) 0 [] ms

/-- The effects of issuing a group, from the armed state. -/
def State.groupLog (s : State) (e pkt first : Nat) (next : Nat × Nat) (n : Nat) (ms : List Member) : Except (Host.Outcome State Fault Refusal) (List Eff) :=
  let slices := s.byGslot (s.split e).slices
  match s.wordLogs e slices slices pkt first next n ms with
  | .error o => .error o
  | .ok logs =>
    .ok (groupEffs slices (pkt, first) next ms logs (fun sl => s.retag sl ms logs) (fun left =>
      if left = slices then logs.flatten.filter (fun x => x.1 = none)
      else match s.wordLogs e slices left pkt first next n ms with
        | .ok ls => ls.flatten.filter (fun x => x.1 = none)
        | .error _ => []))

/-! ### Readiness -/

/-- A slice waits whatever its next group is (R64, R97): it is not running, a debug stop or a fatal trap of its launch holds it, an access of it is parked, an MDRAIN of it waits as a whole (R284), or its handler waits for earlier accesses. -/
def State.sliceWaits (s : State) (sl : Nat) : Bool :=
  let x := s.slice sl
  decide (x.status ≠ .run) || x.stop || !(s.packOf sl).here || (s.packOf sl).freeze || s.ctl.fatal.any (fun f => decide (f.1 = (s.packOf sl).launch))
    || s.mat.drains.any (fun d => d.slices.any (fun y => decide (y.1 = sl)))
    || s.reqs.any (fun e => decide (e.2.slice = sl) && (decide (e.2.state = .parked) || (match e.2.kind with
      | .ldfe _ => true
      | _ => false) || (x.drain && e.2.pending)))

/-- A member's own stalls in a slice. -/
def State.memberWaits (s : State) (sl : Nat) (m : Member) : Bool :=
  s.scoreboard sl m.v m.ext || s.heldReg sl m.v m.ext || s.scratchWait sl m.v || s.strongWait sl m.v || s.orderWait sl m.v

/-- The group would make a strongly ordered access while an earlier access of the slice is outstanding (R195). -/
def State.strongLog (s : State) (es : List Eff) : Bool :=
  es.any (fun e => match e.2 with
    | .addReq r => decide (r.ty = 3) && s.reqs.any (fun q => decide (q.2.slice = r.slice))
    | _ => false)

/-- An access of a slice that counts among its core's 1,024 outstanding global accesses (R200). -/
def Req.counts (r : Req) (core : Nat) : Bool :=
  decide (r.core = core) && decide (r.tier ≤ 4) && r.out.isNone && (match r.kind with
    | .bulk _ _ => false
    | .message => false
    | _ => true)

/-- The group's accesses would exceed the global accesses its core keeps outstanding (R200). -/
def State.fullLog (s : State) (core : Nat) (es : List Eff) : Bool :=
  let n := (s.reqs.filter (fun e => e.2.counts core)).length
  decide (n ≠ 0) && decide (1024 < n + (es.filter (fun e => match e.2 with
    | .addReq r => r.counts core
    | _ => false)).length)

/-- What a FENCE.SP window admits (R229): ALU-pipe words, BR.ANY and BR.ALL, PF, LD and LD.nt of the g space, ST and ST.nt of the g space. -/
def View.windowed (v : View) : Bool :=
  decide (v.form.pipe = .alu) || decide (v.form.pipe = .alu0) || decide (v.op = 1) || decide (v.op = 2) || decide (v.op = 0x26)
    || ((decide (v.op = 0x20) || decide (v.op = 0x21) || decide (v.op = 0x22) || decide (v.op = 0x23)) && decide (v.b % 8 = 0))

/-- The effects a window admits (R229): no trap, no parked lane, loads of TYPE 0 pages of TIER 0 to 2. -/
def windowLog (es : List Eff) : Bool :=
  es.all (fun e => match e.2 with
    | .trap _ _ => false
    | .addReq r => decide (r.state ≠ .parked) && (match r.kind with
      | .load _ _ => decide (r.ty = 0) && decide (r.tier ≤ 2)
      | _ => true)
    | _ => true)

/-- A group keeps its split in one piece. -/
def State.undivided (s : State) (slices : List Nat) : Bool := decide ((s.places slices).length ≤ 1)

/-- A window holds the group back (R229): something it does not admit, the seventeenth instruction, or a divergent branch. -/
def State.windowWaits (s : State) (slices : List Nat) (ms : List Member) (es : List Eff) : Bool :=
  match s.windowOf (slices.headD 0) with
  | none => false
  | some w =>
    decide (16 < w.count + ms.length) || !(ms.all (fun m => m.v.windowed)) || !(windowLog es)
      || !((applyAll s (es.filter (fun e => decide (e.2 ≠ .settle)))).undivided slices)

/-- The single-step trap of a slice that was stepped and waited in its group, or that STEP stops before its first group (R107). -/
def State.steppedTrap (s : State) (sl : Nat) : Option Trap :=
  let x := s.slice sl
  if x.stepped then some { code := 0x0C, lanes := x.live, aft := decide (x.issued ≠ 0), resume := some (x.pc, x.word) } else none

/-- The illegal-instruction trap a slice takes in a word's execution (R27, R96 step 1): it comes before the illegal-chain trap and a breakpoint. -/
def execIllegal (sl pkt : Nat) (ms : List Member) (logs : List (List Eff)) : Option Trap :=
  (firstTrap (trapsOf sl pkt ms logs)).filter (fun t => decide (t.rank = 0))

/-- What the split of an entry would do now. -/
def State.plan (s : State) (e : Nat) : Plan :=
  let slices := s.byGslot (s.split e).slices
  match slices with
  | [] => .wait
  | sl :: _ =>
    let x := s.slice sl
    if slices.any s.sliceWaits then .wait
    else if slices.any (fun y => (s.slice y).owed.isSome) then .trap (slices.filterMap (fun y => ((s.slice y).owed.map (s.slice y).owedTrap).map (fun t => (y, t)))) false
    else if slices.any (fun y => (s.slice y).stepped) then .trap (slices.filterMap (fun y => (s.steppedTrap y).map (fun t => (y, t)))) true
    else if slices.any s.lookWait || slices.any s.parkedMma then .wait
    else
      match s.fetch sl x.pc with
      | .wait => .wait
      | .fault t => .trap (slices.map (fun y => (y, { t with lanes := (s.slice y).live, resume := some (x.pc, x.word) }))) true
      | .words ws bytes pages =>
        let g := chainAt x.only.isSome x.word ws
        let ms := asGroup g.members
        let last := (ms.getLast?.map (fun m => m.idx)).getD x.word
        let next := nextPlace x.only.isSome x.pc x.word ws ms
        let regWaits := fun (y : Nat) => ms.any (fun m => s.scoreboard y m.v m.ext || s.heldReg y m.v m.ext)
        match g with
        | .ill _ _ => .trap (slices.filterMap (fun y => (s.groupTrap y g).map (fun t => (y, t)))) (opensOf ms)
        | .ok _ _ =>
          if slices.any regWaits then .wait
          else if slices.any (fun y => (s.groupTrap y g).isSome || (s.breakTrap y x.pc x.word last).isSome) then
            let logs := match (s.arm e x.pc ms bytes pages).wordLogs e slices slices x.pc x.word next s.run.count ms with
              | .ok ls => ls
              | .error _ => []
            .trap (slices.filterMap (fun y => (execIllegal y x.pc ms logs <|> s.groupTrap y g <|> s.breakTrap y x.pc x.word last).map (fun t => (y, t)))) (opensOf ms)
          else if slices.any (fun y => ms.any (s.memberWaits y)) || ms.any (fun m => s.matrixWait slices m.v || slices.any (fun y => s.copyPending y m.v || s.remoteWait y m.v)) then .wait
          else
            match (s.arm e x.pc ms bytes pages).groupLog e x.pc x.word next s.run.count ms with
            | .error _ => .run ms bytes pages
            | .ok es => if s.strongLog es || s.fullLog (s.coreOf sl) es || s.windowWaits slices ms es then .wait else .run ms bytes pages

/-- A split can issue (R64). -/
def State.ready (s : State) (e : Nat) : Bool := decide (s.plan e ≠ .wait)

/-! ### Issuing -/

/-- The single-step traps after a group (R107): of every stepped slice that goes on running. One that waits in the group, or whose lanes have parked, stops before its next group. A stop inside an open transient window resumes after the group and drops the bypassed results (DESIGN CHOICE, assumption log 80). -/
def State.stepTraps (s : State) (slices : List Nat) : List Eff :=
  slices.flatMap (fun sl =>
    let x := s.slice sl
    if !x.stepping then []
    else if x.status = .run ∧ !(s.reqs.any (fun e => decide (e.2.slice = sl) && decide (e.2.state = .parked))) then
      [(some sl, .trap sl { code := 0x0C, lanes := x.live, aft := true, resume := some (x.pc, x.word) }), (none, .resplit sl)]
    else [(some sl, .slice sl (.stepping false)), (some sl, .slice sl (.stepped true))])

/-- A poisoned fetch records its address as the origin, and the marked line (R201, R426). (DEDUCED, assumption log 24) -/
def State.originActs (s : State) (ts : List (Nat × Trap)) : List Eff :=
  ts.flatMap (fun t => if t.2.code = 0x10 then
      (none, .slice t.1 (.origin (some t.2.addr))) :: (match s.walk (s.packOf t.1).asid t.2.addr.toNat with
        | .ok p => plain (s.suspectActs (p.key t.2.addr.toNat) 1 p.keyid)
        | .error _ => [])
    else [])

/-- A split whose group is one instruction, without EXT, outside a window and not stepped: it is executed alone. -/
def State.lone (s : State) (e : Nat) (ms : List Member) : Option Member :=
  match ms with
  | [m] => if m.ext = none ∧ s.windowOf ((s.split e).slices.headD 0) = none ∧ (s.split e).slices.all (fun x => !(s.slice x).stepping && (s.slice x).only.isNone) then some m else none
  | _ => none

/-- The state in which a lone instruction executes. -/
def State.armOne (s : State) (e pkt : Nat) (m : Member) (bytes : List Byte) (pages : List (Page × Nat)) : State :=
  let s1 := s.arm e pkt [m] bytes pages
  let slices := s.byGslot (s.split e).slices
  { s1 with run := { s1.run with cur := some (memberCur e slices slices pkt m.start (afterGroup pkt [m]) m.v.bypass s.run.count 0 m) } }

/-- The split of an entry issues. -/
def State.issueSplit (s : State) (e : Nat) : Host.Outcome State Fault Refusal :=
  let slices := s.byGslot (s.split e).slices
  let sl := slices.headD 0
  let pkt := (s.slice sl).pc
  let first := (s.slice sl).word
  match s.plan e with
  | .wait => .next s
  | .trap ts opens =>
    let c : Cur := { entry := e, slices := slices, pkt := pkt, word := first, nextPkt := pkt, nextWord := first, firstPkt := pkt, firstWord := first, all := slices, opens := opens }
    .next (commit { s with run := { s.run with cur := some c } }
      (s.originActs ts ++ ts.flatMap (fun t => if (s.slice t.1).owed.isSome then [(none, .slice t.1 (.owed none))] else []) ++ ts.map (fun t => (some t.1, .trap t.1 t.2)) ++ [(none, .settle)]))
  | .run ms bytes pages =>
    match s.lone e ms with
    | some m => exec m.i (s.armOne e pkt m bytes pages)
    | none =>
      let s1 := s.arm e pkt ms bytes pages
      let next := nextPlace (s.slice sl).only.isSome pkt first (packetWords bytes) ms
      match s1.groupLog e pkt first next s.run.count ms with
      | .error o => o
      | .ok es =>
        let c : Cur := { entry := e, slices := slices, pkt := pkt, word := first, nextPkt := next.1, nextWord := next.2, firstPkt := pkt, firstWord := first, all := slices, opens := opensOf ms }
        let s2 := { s1 with run := { s1.run with cur := some c } }
        let done := applyAll s2 es
        let win := match s.windowOf sl with
          | some w => [(none, Act.window w.key (some { w with count := w.count + ms.length }))]
          | none => []
        .next (commit s2 (es ++ win ++ done.stepTraps slices))

end Sys2Proof.Machine
end

