-- ==== Sys2Proof/Machine/Events.lean ====
section
/-! DEFINITION. The steps of the other agents that are due in a state. The step chooses among them, the splits that can issue and the next input of the outside world (R5). -/
namespace Sys2Proof.Machine

/-- The steps an agent of the device takes of its own accord; each is the row of the opcode table of the same name. -/
inductive Agent where
  /-- MEET_ENTRY_FREE (R57) -/
  | meetEntryFree (pack : Nat)
  /-- PARTIAL_GANG_TIMER (R59) -/
  | partialGangTimer (pack : Nat)
  /-- HELD_SET_EXCHANGE (R54) -/
  | heldSetExchange (entry : Nat)
  /-- SPLIT_PROMOTION (R66) -/
  | splitPromotion (entry : Nat)
  /-- BARRIER_WAKE (R254) -/
  | barrierWake (slice : Nat)
  /-- GROUP_PHASE_COMPLETE (R255) -/
  | groupPhaseComplete (launch group : Nat)
  /-- AWAIT_WAKE (R259) -/
  | awaitWake (slice : Nat)
  /-- AWAIT_TIMEOUT (R259) -/
  | awaitTimeout (slice : Nat)
  /-- LOAD_DATA_RETURN (R220) -/
  | loadDataReturn (req : Nat)
  /-- HOME_READ (R220) -/
  | homeRead (req : Nat)
  /-- HOME_WRITE (R221) -/
  | homeWrite (req : Nat)
  /-- STORE_ACK (R221) -/
  | storeAck (req : Nat)
  /-- PARKED_REPLAY (R211) -/
  | parkedReplay (req : Nat)
  /-- MIGRATION_COMPLETE (R198) -/
  | migrationComplete (asid : Nat) (va : Nat)
  /-- PAGE_MOVE (R199) -/
  | pageMove (asid : Nat) (va tier stack : Nat)
  /-- WC_BUFFER_DRAIN (R195) -/
  | wcBufferDrain (core : Nat)
  /-- L2_WRITEBACK (R197) -/
  | l2Writeback (line : Nat)
  /-- CLOCK_TICK (R219) -/
  | clockTick (core : Nat)
  /-- SWEEP_COMPLETE (R225) -/
  | sweepComplete (die : Nat)
  /-- FENCE_SP_VALIDATE (R229) -/
  | fenceSpValidate (gang : Nat)
  /-- PERSIST_ACCEPT (R237) -/
  | persistAccept (id : Nat)
  /-- EPOCH_CLOSED_NOTICE (R239) -/
  | epochClosedNotice (slice epoch opq : Nat)
  /-- OPQ_DRAIN (R237) -/
  | opqDrain (die : Nat)
  /-- LEASE_COPY_EVICTION (R220) -/
  | leaseCopyEviction (copy : Nat)
  /-- TOKEN_GRANT (R19) -/
  | tokenGrant (die : Nat)
  /-- MMA_ENGINE_START (R265) -/
  | mmaEngineStart (quad : Nat)
  /-- MMA_BLOCK_END (R267) -/
  | mmaBlockEnd (quad : Nat)
  /-- MMA_RESUME (R275) -/
  | mmaResume (id : Nat)
  /-- MMA_SUSPEND (R276) -/
  | mmaSuspend (id : Nat)
  /-- COPY_QUEUE_SPACE (R292) -/
  | copyQueueSpace (slice : Nat)
  /-- CHUNK_START (R294) -/
  | chunkStart (core queue : Nat)
  /-- COPY_QUEUE_RESUME (R302) -/
  | copyQueueResume (core queue : Nat)
  /-- CHUNK_END (R293) -/
  | chunkEnd (core queue : Nat)
  /-- COPY_COMPLETE (R301) -/
  | copyComplete (core queue : Nat)
  /-- REFILL_ACCEPT (R308) -/
  | refillAccept (pack entry : Nat)
  /-- REMOTE_TIMEOUT (R325) -/
  | remoteTimeout (req : Nat)
  /-- MESSAGE_ARRIVE (R340) -/
  | messageArrive (m : Message)
  /-- REMOTE_ACCESS_ARRIVE (R324) -/
  | remoteAccessArrive (a : RemoteAccess)
  /-- BULK_PACKET_ARRIVE (R330) -/
  | bulkPacketArrive (p : BulkPacket)
  /-- NOP_PACKET (R358) -/
  | nopPacket (queue index : Nat)
  /-- LAUNCH (R370) -/
  | launch (queue index : Nat)
  /-- GRAPH_SEAL (R375) -/
  | graphSeal (queue index : Nat)
  /-- GRAPH_LAUNCH (R376) -/
  | graphLaunch (queue index : Nat)
  /-- WAIT (R357) -/
  | wait (queue index : Nat)
  /-- SIGNAL_WRITE (R359) -/
  | signalWrite (queue index : Nat)
  /-- SIGNAL_ADD (R359) -/
  | signalAdd (queue index : Nat)
  /-- BARRIER (R358) -/
  | barrier (queue index : Nat)
  /-- MAP_ROOT (R361) -/
  | mapRoot (queue index : Nat)
  /-- MAP_SYNC (R361) -/
  | mapSync (queue index : Nat)
  /-- DSPALLOC (R361) -/
  | dspalloc (queue index : Nat)
  /-- DSPFREE (R361) -/
  | dspfree (queue index : Nat)
  /-- MIGREG (R361) -/
  | migreg (queue index : Nat)
  /-- MCGROUP (R321) -/
  | mcgroup (queue index : Nat)
  /-- MCFREE (R321) -/
  | mcfree (queue index : Nat)
  /-- UNMAP (R362) -/
  | unmap (queue index : Nat)
  /-- BIAS (R203) -/
  | bias (queue index : Nat)
  /-- CAP (R364) -/
  | cap (queue index : Nat)
  /-- STEP (R388) -/
  | step (queue index : Nat)
  /-- SNAPREGION_ADD (R390) -/
  | snapregionAdd (queue index : Nat)
  /-- SNAPREGION_REMOVE (R390) -/
  | snapregionRemove (queue index : Nat)
  /-- REBUILD (R400) -/
  | rebuild (queue index : Nat)
  /-- PERSIST (R366) -/
  | persist (queue index : Nat)
  /-- ATTEST (R387) -/
  | attest (queue index : Nat)
  /-- SUNDESH_THREAD_WAKE (R349) -/
  | sundeshThreadWake (queue : Nat)
  /-- WAIT_TIMEOUT (R357) -/
  | waitTimeout (queue : Nat)
  /-- QUEUE_ROTATION (R353) -/
  | queueRotation (out into : Nat)
  /-- PACK_DISPATCH (R371) -/
  | packDispatch (launch core : Nat)
  /-- BIN_TIMER (R77) -/
  | binTimer (bin : Nat)
  /-- SPAWN_ROOM (R80) -/
  | spawnRoom (slice : Nat)
  /-- DRAIN_PREEMPTION (R378) -/
  | drainPreemption (launch : Nat)
  /-- HARD_PREEMPTION (R379) -/
  | hardPreemption (launch : Nat)
  /-- PACK_RESTORE (R379) -/
  | packRestore (pack core slot : Nat)
  /-- LAUNCH_COMPLETE (R373) -/
  | launchComplete (launch : Nat)
  /-- SETT_PAGE_COPY (R394) -/
  | settPageCopy (asid : Nat) (va : Nat)
  /-- SNAPSHOT_COMPLETE (R395) -/
  | snapshotComplete (asid : Nat)
  /-- PARITY_FOLD (R399) -/
  | parityFold (asid : Nat) (desc : Nat)
  /-- REBUILD_DONE (R401) -/
  | rebuildDone (asid : Nat)
  /-- FWACT (R384) -/
  | fwact (expected : Nat)
  /-- HEARTBEAT_TIMEOUT (R385) -/
  | heartbeatTimeout 
  /-- KEYREVOKE (R421) -/
  | keyrevoke (slot : Nat)
  /-- POISON_RECHECK (R426) -/
  | poisonRecheck (line : Nat)
  /-- HOST_MEM_WRITE (R202) -/
  | hostMemWrite (pa : Nat) (data : List Byte)
  /-- CXL_SNOOP_INVALIDATION (R232) -/
  | cxlSnoopInvalidation (hpa : Nat) (data : List Byte)
  /-- BRINGUP_STAGE (R431) -/
  | bringupStage 
  deriving DecidableEq, Repr

/-- An agent's step is its row's meaning. (DESIGN CHOICE, assumption log 67) -/
def runAgent : Agent → State → Host.Outcome State Fault Refusal
  | .meetEntryFree pack, s => execMeetEntryFree pack s
  | .partialGangTimer pack, s => execPartialGangTimer pack s
  | .heldSetExchange entry, s => execHeldSetExchange entry s
  | .splitPromotion entry, s => execSplitPromotion entry s
  | .barrierWake slice, s => execBarrierWake slice s
  | .groupPhaseComplete launch group, s => execGroupPhaseComplete launch group s
  | .awaitWake slice, s => execAwaitWake slice s
  | .awaitTimeout slice, s => execAwaitTimeout slice s
  | .loadDataReturn req, s => execLoadDataReturn req s
  | .homeRead req, s => execHomeRead req s
  | .homeWrite req, s => execHomeWrite req s
  | .storeAck req, s => execStoreAck req s
  | .parkedReplay req, s => execParkedReplay req s
  | .migrationComplete asid va, s => execMigrationComplete asid va s
  | .pageMove asid va tier stack, s => execPageMove asid va tier stack s
  | .wcBufferDrain core, s => execWcBufferDrain core s
  | .l2Writeback line, s => execL2Writeback line s
  | .clockTick core, s => execClockTick core s
  | .sweepComplete die, s => execSweepComplete die s
  | .fenceSpValidate gang, s => execFenceSpValidate gang s
  | .persistAccept id, s => execPersistAccept id s
  | .epochClosedNotice slice epoch opq, s => execEpochClosedNotice slice epoch opq s
  | .opqDrain die, s => execOpqDrain die s
  | .leaseCopyEviction copy, s => execLeaseCopyEviction copy s
  | .tokenGrant die, s => execTokenGrant die s
  | .mmaEngineStart quad, s => execMmaEngineStart quad s
  | .mmaBlockEnd quad, s => execMmaBlockEnd quad s
  | .mmaResume id, s => execMmaResume id s
  | .mmaSuspend id, s => execMmaSuspend id s
  | .copyQueueSpace slice, s => execCopyQueueSpace slice s
  | .chunkStart core queue, s => execChunkStart core queue s
  | .copyQueueResume core queue, s => execCopyQueueResume core queue s
  | .chunkEnd core queue, s => execChunkEnd core queue s
  | .copyComplete core queue, s => execCopyComplete core queue s
  | .refillAccept pack entry, s => execRefillAccept pack entry s
  | .remoteTimeout req, s => execRemoteTimeout req s
  | .messageArrive m, s => execMessageArrive m s
  | .remoteAccessArrive a, s => execRemoteAccessArrive a s
  | .bulkPacketArrive p, s => execBulkPacketArrive p s
  | .nopPacket queue index, s => execNopPacket queue index s
  | .launch queue index, s => execLaunch queue index s
  | .graphSeal queue index, s => execGraphSeal queue index s
  | .graphLaunch queue index, s => execGraphLaunch queue index s
  | .wait queue index, s => execWait queue index s
  | .signalWrite queue index, s => execSignalWrite queue index s
  | .signalAdd queue index, s => execSignalAdd queue index s
  | .barrier queue index, s => execBarrier queue index s
  | .mapRoot queue index, s => execMapRoot queue index s
  | .mapSync queue index, s => execMapSync queue index s
  | .dspalloc queue index, s => execDspalloc queue index s
  | .dspfree queue index, s => execDspfree queue index s
  | .migreg queue index, s => execMigreg queue index s
  | .mcgroup queue index, s => execMcgroup queue index s
  | .mcfree queue index, s => execMcfree queue index s
  | .unmap queue index, s => execUnmap queue index s
  | .bias queue index, s => execBias queue index s
  | .cap queue index, s => execCap queue index s
  | .step queue index, s => execStep queue index s
  | .snapregionAdd queue index, s => execSnapregionAdd queue index s
  | .snapregionRemove queue index, s => execSnapregionRemove queue index s
  | .rebuild queue index, s => execRebuild queue index s
  | .persist queue index, s => execPersist queue index s
  | .attest queue index, s => execAttest queue index s
  | .sundeshThreadWake queue, s => execSundeshThreadWake queue s
  | .waitTimeout queue, s => execWaitTimeout queue s
  | .queueRotation out into, s => execQueueRotation out into s
  | .packDispatch launch core, s => execPackDispatch launch core s
  | .binTimer bin, s => execBinTimer bin s
  | .spawnRoom slice, s => execSpawnRoom slice s
  | .drainPreemption launch, s => execDrainPreemption launch s
  | .hardPreemption launch, s => execHardPreemption launch s
  | .packRestore pack core slot, s => execPackRestore pack core slot s
  | .launchComplete launch, s => execLaunchComplete launch s
  | .settPageCopy asid va, s => execSettPageCopy asid va s
  | .snapshotComplete asid, s => execSnapshotComplete asid s
  | .parityFold asid desc, s => execParityFold asid desc s
  | .rebuildDone asid, s => execRebuildDone asid s
  | .fwact expected, s => execFwact expected s
  | .heartbeatTimeout, s => execHeartbeatTimeout s
  | .keyrevoke slot, s => execKeyrevoke slot s
  | .poisonRecheck line, s => execPoisonRecheck line s
  | .hostMemWrite pa data, s => execHostMemWrite pa data s
  | .cxlSnoopInvalidation hpa data, s => execCxlSnoopInvalidation hpa data s
  | .bringupStage, s => execBringupStage s

/-- The row of a packet, as the step that starts it. -/
def Row.agent (r : Row) (q i : Nat) : Agent :=
  match r with
  | .nop => .nopPacket q i
  | .launch => .launch q i
  | .graphSeal => .graphSeal q i
  | .graphLaunch => .graphLaunch q i
  | .wait => .wait q i
  | .signalWrite => .signalWrite q i
  | .signalAdd => .signalAdd q i
  | .barrier => .barrier q i
  | .mapRoot => .mapRoot q i
  | .mapSync => .mapSync q i
  | .dspalloc => .dspalloc q i
  | .dspfree => .dspfree q i
  | .migreg => .migreg q i
  | .mcgroup => .mcgroup q i
  | .mcfree => .mcfree q i
  | .unmap => .unmap q i
  | .bias => .bias q i
  | .cap => .cap q i
  | .step => .step q i
  | .snapregionAdd => .snapregionAdd q i
  | .snapregionRemove => .snapregionRemove q i
  | .rebuild => .rebuild q i
  | .persist => .persist q i
  | .attest => .attest q i

/-- What the next step may be. -/
inductive Cand where
  /-- the next input of the outside world -/
  | input (i : Instr)
  /-- a step of an agent of the device -/
  | agent (a : Agent)
  /-- the split of an entry issues -/
  | issue (e : Nat)
  /-- it issues, and in the same ac one instruction of another gang's split does (R67) -/
  | pair (e f : Nat)
  deriving DecidableEq, Repr

/-- Requests at their homes, on the way back, and parked (R211, R220, R221). -/
def State.requestEvents (s : State) : List Agent :=
  s.reqs.flatMap (fun e => if (s.packOf e.2.slice).saved then [] else
    match e.2.state with
    | .served _ _ _ => if s.returnReady e.1 then [.loadDataReturn e.1] else []
    | .forming => []
    | .done _ _ _ => if s.ackReady e.1 then [.storeAck e.1] else []
    | .parked => if s.replayReady e.1 then [.parkedReplay e.1] else []
    | .queued => if s.readReady e.1 then [.homeRead e.1] else if s.writeReady e.1 then [.homeWrite e.1] else [])

/-- A core's write-combining buffer drains: 256 ac have passed, or its 16 lines are held (R195). -/
def State.wcDue (s : State) (core : Nat) : Bool :=
  let hs := s.reqs.filter (fun e => decide (e.2.core = core) && !e.2.window && decide (e.2.held ≠ none))
  hs.any (fun e => decide (e.2.held.getD 0 + 256 ≤ s.run.ac)) || decide (16 ≤ ((hs.map (fun e => lineOf e.2.key)).eraseDups).length)

/-- The cores of resident packs. -/
def State.activeCores (s : State) : List Nat := ((s.ctl.packs.filter (fun e => e.2.here)).map (fun e => e.2.core)).eraseDups

/-- Pages that waiting work of the fabric needs. -/
def State.fabricWants (s : State) : List (Nat × Nat) :=
  s.fab.bulk.flatMap s.bulkWants ++ s.fab.access.map (fun e => (e.1.asid, e.1.va))
    ++ s.fab.inbound.flatMap (fun x => if x.started then [] else (linePieces x.p.va x.p.len).map (fun l => (x.p.asid, l.2.1)))

/-- Pages that a parked access, a parked MDRAIN or a waiting fetch needs (R198, R201, R284): (ASID, VA). -/
def State.wantedPages (s : State) : List (Nat × Nat) :=
  let parked := s.reqs.flatMap (fun e => if e.2.state = .parked ∧ !(s.packOf e.2.slice).saved then (match e.2.kind with
    | .drain _ => []
    | _ => [(e.2.asid, e.2.va), (e.2.asid, e.2.va + (e.2.size - 1))]) else [])
  let drains := s.mat.drains.flatMap (fun d => if d.going || (s.pack (d.gang / 128)).saved then [] else match s.drainTest d with
    | .ok ts => (missingPages ts).map (fun va => ((s.pack (d.gang / 128)).asid, va))
    | .error _ => [])
  let fetch := s.ctl.slices.flatMap (fun e => if e.2.here ∧ e.2.status = .run ∧ (s.packOf e.1).here then [((s.packOf e.1).asid, e.2.pc), ((s.packOf e.1).asid, e.2.pc + 11)] else [])
  let copies := s.cpy.queues.flatMap (fun e => s.copyWants e.1)
  let mmas := s.mmas.filterMap (fun e => e.2.parked.map (fun va => ((s.pack (e.2.gang / 128)).asid, va)))
  ((parked ++ drains ++ fetch ++ copies ++ mmas ++ s.fabricWants ++ s.sunWants).filter (fun x => match s.walk x.1 x.2 with
    | .ok p => !p.res && s.migratable p
    | .error _ => false)).map (fun x => (x.1, x.2 / 2 ^ 16 * 2 ^ 16)) |>.eraseDups

/-- Caches, clocks and the fault unit. -/
def State.memoryEvents (s : State) : List Agent :=
  (s.activeCores.filter s.wcDue).map .wcBufferDrain
    ++ s.mem.dirty.map (fun e => .l2Writeback e.1)
    ++ s.coh.copies.map (fun e => .leaseCopyEviction e.1)
    ++ (s.activeCores.filter (fun c => decide (0 < s.ticksDue c))).map .clockTick
    ++ (s.coh.dies.filter (fun e => e.2.sweep.isSome)).map (fun e => .sweepComplete e.1)
    ++ s.wantedPages.map (fun x => .migrationComplete x.1 x.2)
    ++ s.maps.moves.map (fun m => .pageMove m.1 m.2.1 m.2.2.1 m.2.2.2)

/-- Fences and persistence (R229, R237, R239). -/
def State.persistEvents (s : State) : List Agent :=
  s.ctl.windows.filterMap (fun e => match e.2 with
    | some w => if s.windowReady w then some (.fenceSpValidate e.1) else none
    | none => none)
    ++ (s.transit.filter (fun e => s.acceptReady e.1)).map (fun e => .persistAccept e.1)
    ++ (s.ctl.slices.flatMap (fun e => e.2.pbars.flatMap (fun b => (List.range 4).filterMap (fun o =>
      if s.noticeReady e.1 b.1 o then some (.epochClosedNotice e.1 b.1 o) else none))))
    ++ (s.opq.entries.filter (fun e => !e.2.isEmpty)).map (fun e => .opqDrain e.1)

/-- Waits that are over (R254, R255, R259), meets and split tables (R54, R57, R59). -/
def State.waitEvents (s : State) : List Agent :=
  s.ctl.slices.flatMap (fun e => if !(s.packOf e.1).here then [] else
    match e.2.status with
    | .barrier b ph => if (s.bar (barKey (packKey e.1) b)).phase = ph then [] else [.barrierWake e.1]
    | .await xs t _ => if s.awaitHeld xs then (match t with
        | some t => if t ≤ s.run.ac then [.awaitTimeout e.1] else []
        | none => []) else [.awaitWake e.1]
    | .spawnRoom _ _ => if s.roomReady e.1 then [.spawnRoom e.1] else []
    | _ => [])
    ++ ((s.ctl.packs.filter (fun e => e.2.here)).flatMap (fun e =>
      (if s.meetsReady e.1 false then [.meetEntryFree e.1] else if s.meetsReady e.1 true then [.partialGangTimer e.1] else [])))
    ++ (((s.ctl.packs.filter (fun e => e.2.here)).flatMap (fun e => e.2.groups.map (fun g => (e.2.launch, g)))).eraseDups.filter (fun x =>
      let ps := s.members x.1 x.2
      decide (ps ≠ []) && ps.all (fun p => s.packAt p x.2 (s.groupPhase x.1 x.2)))).map (fun x => .groupPhaseComplete x.1 x.2)
    ++ (s.ctl.splits.filter (fun e => s.moveReady e.1)).map (fun e => .heldSetExchange e.1)

/-- Power tokens and matrix engines (R19, R265 to R267, R275, R276). -/
def State.matrixEvents (s : State) : List Agent :=
  ((List.range 4).filter s.tokenReady).map .tokenGrant
    ++ (s.mat.engines.flatMap (fun e => (if s.engineReady e.1 then [.mmaEngineStart e.1] else []) ++ (if s.blockReady e.1 then [.mmaBlockEnd e.1] else [])))
    ++ (s.mmas.flatMap (fun e => if (s.pack (e.2.gang / 128)).saved then [] else (if s.resumeReady e.1 then [.mmaResume e.1] else []) ++ (if s.suspendReady e.1 then [.mmaSuspend e.1] else [])))

/-- The Marten engines (R292 to R308). -/
def State.copyEvents (s : State) : List Agent :=
  s.cpy.queues.flatMap (fun e =>
      let c := e.1 / 16
      let q := e.1 % 16
      (if s.nextQueue c = some q then [.chunkStart c q] else [])
        ++ (if s.resumeQueue e.1 then [.copyQueueResume c q] else [])
        ++ (match e.2.jobs with
          | j :: _ => if s.moves j = [] then [] else [.chunkEnd c q]
          | [] => [])
        ++ (if (s.completing e.1).isSome then [.copyComplete c q] else []))
    ++ s.ctl.slices.flatMap (fun e => if (s.packOf e.1).here && s.spaceReady e.1 then [.copyQueueSpace e.1] else [])
    ++ s.ctl.packs.flatMap (fun e => if e.2.saved || e.2.freeze then [] else (List.range e.2.sched.length).filterMap (fun i => if s.refillReady e.1 i then some (.refillAccept e.1 i) else none))

/-- The fabric (R318 to R345). -/
def State.fabricEvents (s : State) : List Agent :=
  s.fab.bulk.flatMap (fun b =>
      let c := (s.pack b.pack).core
      (if s.bulkReady c b then [.chunkStart c (16 + b.id)] else [])
        ++ (if s.bulkResume b then [.copyQueueResume c (16 + b.id)] else [])
        ++ (if s.bulkMoves b = [] then [] else [.chunkEnd c (16 + b.id)]))
    ++ (s.reqs.filter (fun e => s.timeoutReady e.1)).map (fun e => .remoteTimeout e.1)
    ++ (s.fab.msgs.filter s.messageTurn).map .messageArrive
    ++ (s.fab.access.filter (fun e => s.accessReady e.1)).map (fun e => .remoteAccessArrive e.1)
    ++ (s.fab.inbound.filter (fun e => s.inboundReady e.p)).map (fun e => .bulkPacketArrive e.p)

/-- The threads of Sundesh: packets that start or go on, queues that change places (R349, R353, R357, R384, R385). -/
def State.queueEvents (s : State) : List Agent :=
  (s.threads.filterMap (fun q => (s.packetReady q).map (fun p => p.row.agent q p.index)))
    ++ (s.sun.queues.flatMap (fun e =>
      (if (s.wakeActs e.1).isSome then [.sundeshThreadWake e.1] else [])
        ++ (if s.sun.active.any (fun a => decide (a.queue = e.1) && s.waitLate a && s.cstReady a.asid a.cst) then [.waitTimeout e.1] else [])))
    ++ s.rotations.map (fun x => .queueRotation x.1 x.2)
    ++ (if s.dev.act.isSome && !s.saving then [.fwact 0] else [])
    ++ (if s.heartLate then [.heartbeatTimeout] else if s.dev.heart.isSome then [.fwact 0] else [])

/-- The places where a saved pack can come back (R379). -/
def State.restoreEvents (s : State) (p : Nat) : List Agent :=
  if !(s.pack p).saved || (s.sectionGood p).isNone then []
  else (List.range 160).flatMap (fun c => (List.range 8).filterMap (fun k => if (s.restoreNow p c k).isSome then some (.packRestore p c k) else none))

/-- Packs, bins and launches (R77, R80, R371 to R373, R378 to R381). -/
def State.launchEvents (s : State) : List Agent :=
  (s.sun.bins.filter (fun e => s.timerReady e.1)).map (fun e => .binTimer e.1)
    ++ s.launches.flatMap (fun e =>
      (List.range 160).filterMap (fun c => if (s.dueBins e.1).any (fun k => s.binFits k c) || (s.dispatchPlan e.1 c).isSome then some (.packDispatch e.1 c) else none)
        ++ (if s.drainDue e.1 then [.drainPreemption e.1] else [])
        ++ (if s.hardDue e.1 || s.saveDue e.1 then [.hardPreemption e.1] else [])
        ++ (if s.launchOver e.1 then [.launchComplete e.1] else []))
    ++ s.ctl.packs.flatMap (fun e => s.restoreEvents e.1)

/-- Sett (R395 to R402). -/
def State.settEvents (s : State) : List Agent :=
  s.settPages.map (fun x => .settPageCopy x.1 x.2)
    ++ (s.sett.asids.filter (fun e => s.snapDone e.1)).map (fun e => .snapshotComplete e.1)
    ++ s.sett.stripes.filterMap (fun x => match s.groupAt x.asid x.desc with
      | some g => if s.foldDue x g then some (.parityFold x.asid x.desc) else none
      | none => none)
    ++ (s.sett.rebuilds.filter (fun x => (s.rebuilt x.asid).isSome)).map (fun x => .rebuildDone x.asid)

/-- The platform: second readings of marked lines, key slots to be emptied, host writes that waited for a page copy (R394, R421, R426). (DESIGN CHOICE, assumption log 39) -/
def State.platformEvents (s : State) : List Agent :=
  s.recheckDue.map .poisonRecheck ++ (s.dev.lasting.filter (fun x => s.lastingQuiet x.1 x.2.1)).map (fun x => .poisonRecheck x.1)
    ++ (s.dev.revokes.filter s.keyFree).map .keyrevoke
    ++ s.dev.writes.filterMap (fun w =>
      if !(linePieces w.1 w.2.length).all (fun x => s.hostFits x.2.1) then none
      else if hostBase ≤ w.1 then some (.cxlSnoopInvalidation (w.1 - hostBase) w.2) else some (.hostMemWrite w.1 w.2))

/-- Every step of an agent of a device that runs. -/
def State.runEvents (s : State) : List Agent :=
  s.requestEvents ++ s.memoryEvents ++ s.persistEvents ++ s.waitEvents ++ s.matrixEvents ++ s.copyEvents ++ s.fabricEvents
    ++ s.queueEvents ++ s.launchEvents ++ s.settEvents ++ s.platformEvents

/-- The device runs: it has power, bring-up is complete and nothing has stopped it (R425, R431). (DESIGN CHOICE, assumption log 69) -/
def State.running (s : State) : Bool := s.dev.on && s.dev.ready && !s.dev.fail

/-- Every step of an agent that is due; until READY those are the stages of bring-up (R431). (DESIGN CHOICE, assumption log 67) -/
def State.agentEvents (s : State) : List Agent :=
  if s.running then s.runEvents else if s.dev.on && !s.dev.fail then [.bringupStage] else []

/-- The first of two splits in the order of R65: a promoted one, the higher queue priority, one that issued the previous ac, the earlier dispatch, the lower GANG, the lower SID. (DEDUCED, assumption log 68) -/
def State.before (s : State) (a b : Nat) : Bool :=
  let x := s.split a
  let y := s.split b
  let px := s.packOf (x.slices.headD 0)
  let py := s.packOf (y.slices.headD 0)
  let last := fun (sp : Split) => decide (sp.issuedAt = some (s.run.ac - 1)) && decide (sp.yield = none)
  let sid := fun (sp : Split) => (sp.slices.map (fun z => (s.slice z).sid)).foldl min 128
  if x.promoted ≠ y.promoted then x.promoted
  else if px.prio ≠ py.prio then decide (py.prio < px.prio)
  else if last x ≠ last y then last x
  else if x.age ≠ y.age then decide (x.age < y.age)
  else if x.gang % 128 ≠ y.gang % 128 then decide (x.gang % 128 < y.gang % 128)
  else decide (sid x < sid y)

/-- The split a quadrant issues among its ready ones (R65, R111): one that has yielded comes after the others for 16 ac. -/
def State.chosen (s : State) (ready : List Nat) : Option Nat :=
  let yields := fun (e : Nat) => match (s.split e).yield with
    | some t => decide (s.run.ac < t)
    | none => false
  let pool := if ready.any (fun e => !yields e) then ready.filter (fun e => !yields e) else ready
  pool.foldl (fun best e => match best with
    | none => some e
    | some b => some (if s.before e b then e else b)) none

/-- The entries whose split can issue. (DEDUCED, assumption log 68) -/
def State.readyEntries (s : State) : List Nat := (s.ctl.splits.filter (fun e => s.ready e.1)).map (fun e => e.1)

/-- The group a split would issue, from its plan. -/
def State.groupOf (s : State) (e : Nat) : List Member := match s.plan e with
  | .run ms _ _ => ms
  | _ => []

/-- The bank of each register-file read a group needs (R68): each register of a source operand, an indexed one in every bank its lanes name; a read that the bypass serves needs none. -/
def State.ports (s : State) (e : Nat) : List Nat :=
  let sls := (s.split e).slices
  (s.groupOf e).flatMap (fun m =>
    let b := if (m.v.imm m.ext).isSome then Opnd.non else m.v.form.b
    [(m.v.form.d, m.v.d), (m.v.form.a, m.v.a), (b, m.v.b)].flatMap (fun o =>
      if !o.1.reads then []
      else (List.range o.1.regs).flatMap (fun k => (sls.flatMap (fun sl => (s.activeLanes sl m.v.pg).flatMap (fun l =>
        let r := s.regOf sl l o.2 o.1.regs + k
        if m.v.bypass && (s.slice sl).trans.any (fun t => decide (t.lane = l) && decide (t.reg = r)) then [] else [r % 4]))).eraseDups)))

/-- At most two reads of each bank (R68). -/
def portsFit (banks : List Nat) : Bool := (List.range 4).all (fun b => decide ((banks.filter (fun x => decide (x = b))).length ≤ 2))

/-- The second split of an ac beside a first one (R67): the first in the order of R65 among the ready splits of other gangs whose next group is one instruction for a free pipe. -/
def State.second (s : State) (ready : List Nat) (e : Nat) : Option Nat :=
  s.chosen (ready.filter (fun f => decide ((s.split f).gang ≠ (s.split e).gang) && (match s.groupOf f with
    | [m] => !pipeClash ((s.groupOf e).map (fun x => x.v) ++ [m.v])
    | _ => false)))

/-- What a quadrant may issue in one ac (R65, R67 to R69): its first split, alone or with a second; where both need too many reads of one bank the older gang's alone. (DEDUCED, assumption log 68) -/
def State.quadIssues (s : State) (ready : List Nat) : List Cand :=
  match s.chosen ready with
  | none => []
  | some e =>
    .issue e :: (if s.groupOf e = [] ∨ !portsFit (s.ports e) then [] else
      match s.second ready e with
      | none => []
      | some f => if portsFit (s.ports e ++ s.ports f) then [.pair e f] else if (s.split f).age < (s.split e).age then [.issue f] else [])

/-- The choices of each quadrant. (DEDUCED, assumption log 68) -/
def State.issues (s : State) (ready : List Nat) : List Cand :=
  ((ready.map (fun e => e / 64)).eraseDups).flatMap (fun q => s.quadIssues (ready.filter (fun e => decide (e / 64 = q))))

/-- What R54, R66, R70 and R353 bound in time comes before everything else: exchanges that are due, promotions, the issue of a promoted split, and rotations that are due. -/
def State.urgent (s : State) (ready : List Nat) : List Cand :=
  (s.ctl.splits.filter (fun e => s.exchangeDue e.1)).map (fun e => .agent (.heldSetExchange e.1))
    ++ (ready.filter s.promotionDue).map (fun e => .agent (.splitPromotion e))
    ++ (s.issues (ready.filter (fun e => (s.split e).promoted)))
    ++ s.rotationsDue.map (fun x => .agent (.queueRotation x.1 x.2))

/-- Everything the next step may be. (DESIGN CHOICE, assumption log 18) -/
def State.candidates (s : State) : List Cand :=
  let ready := if s.running then s.readyEntries else []
  let due := if s.running then s.urgent ready else []
  if due ≠ [] then due
  else
    (match s.run.env with
      | i :: _ => if s.inputReady i then [.input i] else []
      | [] => []) ++ s.agentEvents.map .agent ++ s.issues ready

/-- One ac later, with nothing issuing; undefined values differ from those of the ac before (R6). (DESIGN CHOICE, assumption log 18) -/
def State.tickAc (s : State) : State :=
  let t := s.drift
  { t with run := { t.run with ac := t.run.ac + 1, time := t.run.time + s.acTime, cur := none } }

/-- The state after one choice is used up. -/
def State.usePick (s : State) : State := (Act.draw 1).apply s

/-- Take one candidate. -/
def State.take (s : State) : Cand → Host.Outcome State Fault Refusal
  | .input i => exec i { s with run := { s.run with env := s.run.env.drop 1 } }
  | .agent a => runAgent a s
  | .issue e => s.issueSplit e
  | .pair e f =>
    match s.issueSplit e with
    | .next t => t.usePick.issueSplit f
    | o => o

end Sys2Proof.Machine
end

