-- ==== Sys2Proof/Machine/Step.lean ====
section
/-! DEFINITION. The step of the machine: one ac passes, and one of the things that may happen next happens; where there are several, the hardware chooses (R5, assumption log 1). -/
namespace Sys2Proof.Machine

/-- One step. (DESIGN CHOICE, assumption log 18) -/
def step (s : State) : Host.Outcome State Fault Refusal :=
  let t := s.tickAc
  match t.candidates with
  | [] => .next t
  | [c] => t.take c
  | cs => (t.usePick).take (cs.getD (t.pick 0 cs.length) (.agent (.meetEntryFree 0)))

/-! ### A machine about to run one instruction (assumption log 13) -/

/-- Where withFetchWord puts its page tables and its page: a root table, two tables below it, and one 2 MiB page of HBM that maps VA 0. -/
def demoRoot : Nat := 0x200000
/-- The page's key. -/
def demoPage : Nat := 0x800000
/-- The table entries on the walk of VA 0: two table entries and a 2 MiB leaf that is readable, writable and executable (R191). (DESIGN CHOICE, assumption log 13) -/
def demoMem (m : Mem) (code : List Byte) : Mem :=
  let table := fun (a : Nat) => leBytes 8 (1 + a + 3 * 2 ^ 60)
  let leaf := leBytes 8 (0xCC3 + demoPage + 2 ^ 60)
  ((((m.write demoRoot 0 (table 0x400000)).write 0x400000 0 (table 0x401000)).write 0x401000 0 leaf).write demoPage 0 code)

/-- One pack of one gang of one slice on core 0, at VA 0, with four tiles and 64 KiB of scratchpad. (DESIGN CHOICE, assumption log 13) -/
def demoCtl : Ctl :=
  { slices := [(128, { here := true, live := 15, sptop := 4096 })]
    splits := [(0, { slices := [128], gang := 128 })]
    gangs := [(128, { accmap := 15, nsl := 1 })]
    packs := [(1, { here := true, launch := 1, launchId := 1, asid := 1, nsl := 1, tiles := 4, scratch := 65536, lpbase := 0x100000, groups := [0], groupEntries := 1, quota := [1, 0, 0, 0] })]
    bars := (List.range 16).map (fun b => (16 + b, { exp := 1 }))
    nextPack := 2 }

/-- s with an instruction, and words of zeros after it, where the next step fetches: the pack of demoCtl is resident and alone. (DESIGN CHOICE, assumption log 13) -/
def State.withFetchWord (s : State) (nbits w : Nat) : State :=
  { s with
    run := { s.run with ac := 0, env := [], cur := none }
    log := []
    lanes := {}
    ctl := demoCtl
    mem := demoMem {} (leBytes 12 (w % 2 ^ nbits))
    coh := {}
    maps := { roots := [(1, some demoRoot)] }
    opq := {}
    mat := {}
    cpy := {}
    fab := {}
    sun := {}
    sett := {}
    dev := { s.dev with on := true, ready := true, fail := false, act := none, heart := none, suspects := [], lasting := [], revokes := [], writes := [] } }

end Sys2Proof.Machine
end

