-- ==== Sys2Proof/Machine/Canon.lean ====
section
/-! DEFINITION. The canonical form of the state's sparse maps: keys strictly rising and no entry equal to what an unlisted key reads as. Equal contents are then equal data. The parts held here change only by single writes (Act); statements about every state take this form as their premise, and it is an invariant of every step. -/
namespace Sys2Proof.Machine

/-- Memory is in canonical form: its bytes, the SCM array, and what lines and words carry beside their bytes. (DESIGN CHOICE, assumption log 3) -/
def Memory.wf (m : Mem) : Bool :=
  Sparse.wf 0 m.bytes && Sparse.wf 0 m.nv && Sparse.wf false m.marks && Sparse.wf false m.nvMarks && Sparse.wf false m.dirty
    && Sparse.wf false m.wmarks && Sparse.wf 0 m.keys && Sparse.wf false m.full && Sparse.wf 0 m.wts && Sparse.wf 0 m.rts && Sparse.wf false m.undef

/-- The lane files are in canonical form. -/
def Lanes.wf (x : Lanes) : Bool := Sparse.wf 0 x.regs && Sparse.wf false x.psn && Sparse.wf 0 x.pred && Sparse.wf 0 x.idx && Sparse.wf false x.untag && Sparse.wf false x.undef

/-- Slices, splits, gangs, packs and their synchronisation are in canonical form. -/
def Ctl.wf (x : Ctl) : Bool :=
  Sparse.wf {} x.slices && Sparse.wf {} x.splits && Sparse.wf {} x.gangs && Sparse.wf {} x.packs && Sparse.wf {} x.bars && Sparse.wf 0 x.groupPh
    && Sparse.wf 0 x.tcs && Sparse.wf 0 x.uniform && Sparse.wf none x.windows && Sparse.wf 0 x.steps

/-- Tiles and engines are in canonical form. -/
def Mat.wf (x : Mat) : Bool :=
  Sparse.wf (0, 0) x.els && Sparse.wf false x.marks && Sparse.wf {} x.tiles && Sparse.wf none x.mmas && Sparse.wf {} x.engines && Sparse.wf false x.undef

/-- The Marten engines are in canonical form. -/
def Cpy.wf (x : Cpy) : Bool := Sparse.wf {} x.queues && Sparse.wf 0 x.slots && Sparse.wf {} x.covers && Sparse.wf 0 x.turn

/-- Clocks, copies of lines, instruction caches and requests are in canonical form, and every request has a number that has been given. -/
def Coh.wf (x : Coh) : Bool :=
  Sparse.wf {} x.cores && Sparse.wf {} x.dies && Sparse.wf none x.copies && Sparse.wf none x.reqs && Sparse.wf [] x.icache && x.reqs.all (fun e => decide (e.1 < x.nextReq))

/-- Memory, lanes, control, requests, tiles and copy queues are in canonical form. -/
def State.canon (s : State) : Bool := (Memory.wf s.mem && s.coh.wf) && s.lanes.wf && s.ctl.wf && s.mat.wf && s.cpy.wf

end Sys2Proof.Machine
end

