-- ==== Sys2Proof/Safety.lean ====
section
/-! DEFINITION. What a safe run of this machine is, and the terms the statements use: an instruction word about to act, what a destination holds, and the functions of the lane-wise instructions by name. -/
namespace Sys2Proof

open Machine

/-- A step that neither faults nor is refused. -/
def Goes (s : State) : Prop := ∃ t, step s = .next t

/-- The instruction word i acts: c says where, v is its view; its fields and its EXT prefix are legal, and its split holds each slice once. Every part of the state is in canonical form. -/
def Acts (i : Instr) (s : State) (c : Cur) (v : View) : Prop :=
  s.canon = true ∧ s.run.cur = some c ∧ view i = .word v ∧ v.ill = none ∧ v.extOk c.ext = true ∧ c.slices.Nodup

/-- A slice goes on after the word (R22). -/
def WentOn (c : Cur) (t : State) (sl : Nat) : Prop := (t.slice sl).pc = c.nextPkt ∧ (t.slice sl).word = c.nextWord

/-- Operand D of a lane holds a result: one register or a pair, low half first (R132), in the register file with its poison bit cleared (R100), or, when the word is transient, as the next ALU-pipe word reads it (R38); a predicate, where p0 stays true (R120); an index register, whose bits 13 to 8 do not exist (R118). -/
def HoldsD (s t : State) (v : View) (sl l : Nat) (x : Dword) : Prop :=
  let put := fun (r : Nat) (w : Word) => if v.transient s.ext then t.readReg true sl l r = w else t.file (laneKey sl l) r = w ∧ t.poisoned (laneKey sl l) r = false
  match v.form.d with
  | .v n _ _ _ => put (s.regOf sl l v.d n) (x.setWidth 32) ∧ (n = 1 ∨ put (s.regOf sl l v.d n + 1) (x.extractLsb' 32 32))
  | .p => t.predOf (laneKey sl l) (v.d % 8) = (decide (v.d % 8 = 0) || x.getLsbD 0)
  | .x => t.idxOf (laneKey sl l) (v.d % 8) = x.setWidth 16 &&& 0xC0FF#16
  | _ => True

/-- Register r of lane l is one a word writes. -/
def InD (s : State) (v : View) (sl l r : Nat) : Prop :=
  match v.form.d with
  | .v n _ _ _ => l ∈ s.activeLanes sl v.pg ∧ s.regOf sl l v.d n ≤ r ∧ r < s.regOf sl l v.d n + n
  | _ => False


/-- The function of each lane-wise instruction (05_integer, 07_float). -/
def laneFn : Instr → Option (LaneIn → LaneOut)
  | .pmov _ => some fnPmov
  | .iadd _ => some fnIadd
  | .isub _ => some fnIsub
  | .imul _ => some fnImul
  | .imulhI _ => some fnImulhI
  | .imulhN _ => some fnImulhN
  | .ineg _ => some fnIneg
  | .iabs _ => some fnIabs
  | .iaddSat _ => some fnIaddSat
  | .iminI _ => some fnIminI
  | .iminN _ => some fnIminN
  | .imaxI _ => some fnImaxI
  | .imaxN _ => some fnImaxN
  | .iadd64 _ => some fnIadd64
  | .isub64 _ => some fnIsub64
  | .lea _ => some fnLea
  | .isubSat _ => some fnIsubSat
  | .imad _ => some fnImad
  | .imadwI _ => some fnImadwI
  | .imadwN _ => some fnImadwN
  | .iaccw _ => some fnIaccw
  | .idot4I8 _ => some fnIdot4I8
  | .idot4N8 _ => some fnIdot4N8
  | .idot2I16 _ => some fnIdot2I16
  | .isad _ => some fnIsad
  | .and _ => some fnAnd
  | .or _ => some fnOr
  | .xor _ => some fnXor
  | .andn _ => some fnAndn
  | .orn _ => some fnOrn
  | .not _ => some fnNot
  | .mov _ => some fnMov
  | .shl _ => some fnShl
  | .shr _ => some fnShr
  | .sar _ => some fnSar
  | .rol _ => some fnRol
  | .ror _ => some fnRor
  | .shl64 _ => some fnShl64
  | .shr64 _ => some fnShr64
  | .sar64 _ => some fnSar64
  | .popc _ => some fnPopc
  | .clz _ => some fnClz
  | .ctz _ => some fnCtz
  | .brev _ => some fnBrev
  | .bfxI _ => some fnBfxI
  | .bfxN _ => some fnBfxN
  | .bfi _ => some fnBfi
  | .bswp _ => some fnBswp
  | .isetEq _ => some fnIsetEq
  | .isetNe _ => some fnIsetNe
  | .isetLtI _ => some fnIsetLtI
  | .isetLeI _ => some fnIsetLeI
  | .isetLtN _ => some fnIsetLtN
  | .isetLeN _ => some fnIsetLeN
  | .isetTst _ => some fnIsetTst
  | .movi f => some (fnMovi f.a f.b)
  | .movh _ => some fnMovh
  | .mov64 _ => some fnMov64
  | .idxset _ => some fnIdxset
  | .fadd _ => some fnFadd
  | .fsub _ => some fnFsub
  | .fmul _ => some fnFmul
  | .fmin _ => some fnFmin
  | .fmax _ => some fnFmax
  | .fabs _ => some fnFabs
  | .fneg _ => some fnFneg
  | .fcpys _ => some fnFcpys
  | .ffma _ => some fnFfma
  | .ffms _ => some fnFfms
  | .fnma _ => some fnFnma
  | .twosum _ => some fnTwosum
  | .ftsum _ => some fnFtsum
  | .twoprod _ => some fnTwoprod
  | .fsetEq _ => some fnFsetEq
  | .fsetNe _ => some fnFsetNe
  | .fsetLt _ => some fnFsetLt
  | .fsetLe _ => some fnFsetLe
  | .fsetUnord _ => some fnFsetUnord
  | .fsetOrd _ => some fnFsetOrd
  | .fsetClass _ => some fnFsetClass
  | .frcp _ => some fnFrcp
  | .frsq _ => some fnFrsq
  | .fsqrt _ => some fnFsqrt
  | .fexp2 _ => some fnFexp2
  | .flog2 _ => some fnFlog2
  | .fsin _ => some fnFsin
  | .fcos _ => some fnFcos
  | .ftanh _ => some fnFtanh
  | .hadd2Bf16 _ => some fnHadd2Bf16
  | .hmul2Bf16 _ => some fnHmul2Bf16
  | .hfma2Bf16 _ => some fnHfma2Bf16
  | .hadd2F16 _ => some fnHadd2F16
  | .hmul2F16 _ => some fnHmul2F16
  | .hfma2F16 _ => some fnHfma2F16
  | .hmax2Bf16 _ => some fnHmax2Bf16
  | .hmin2Bf16 _ => some fnHmin2Bf16
  | .dadd _ => some fnDadd
  | .dsub _ => some fnDsub
  | .dmul _ => some fnDmul
  | .dfma _ => some fnDfma
  | .dmin _ => some fnDmin
  | .dmax _ => some fnDmax
  | .dsetLt _ => some fnDsetLt
  | .dsetEq _ => some fnDsetEq
  | .cvtF32I32 f => some (fnCvtF32I32 f.b)
  | .cvtF32N32 f => some (fnCvtF32N32 f.b)
  | .cvtI32F32 f => some (fnCvtI32F32 f.b)
  | .cvtN32F32 f => some (fnCvtN32F32 f.b)
  | .cvtF32F64 f => some (fnCvtF32F64 f.b)
  | .cvtF64F32 _ => some fnCvtF64F32
  | .cvtBf16x2F32 _ => some fnCvtBf16x2F32
  | .cvtF16x2F32 _ => some fnCvtF16x2F32
  | .unpkBf16x2 _ => some fnUnpkBf16x2
  | .unpkF16x2 _ => some fnUnpkF16x2
  | .cvtF64I32 _ => some fnCvtF64I32
  | .cvtI32F64 f => some (fnCvtI32F64 f.b)
  | .packI8x4 _ => some fnPackI8x4
  | .packN8x4 _ => some fnPackN8x4
  | .unpkI8x4 _ => some fnUnpkI8x4
  | .unpkN8x4 _ => some fnUnpkN8x4
  | .qnt _ => some fnQnt
  | .dqnt _ => some fnDqnt
  | .qpack _ => some fnQpack
  | .qunpk _ => some fnQunpk
  | .segscl _ => some fnSegscl
  | .fmtchk _ => some fnFmtchk
  | _ => none

/-- exec answers a next state in which every slice of the split has P. -/
def Acted (i : Instr) (s : State) (c : Cur) (P : State → Nat → Prop) : Prop := ∃ t, exec i s = .next t ∧ ∀ sl ∈ c.slices, P t sl

/-- The word completes: exec answers a next state in which every slice of the split has gone on after the word and has P. -/
def Completes (i : Instr) (s : State) (c : Cur) (P : State → Nat → Prop) : Prop := Acted i s c (fun t sl => WentOn c t sl ∧ P t sl)

/-- The operand tests of R96 pass in some lanes of a slice. -/
def Passes (s : State) (c : Cur) (v : View) (sl : Nat) (ls : List Nat) : Prop := s.operandTrap v c.ext sl ls = none

/-- The operand tests of an instruction that reads its operands in lane l alone pass in a slice (R96): the index bounds hold in every active lane (R119), and no operand of lane l is poisoned. -/
def HeadPasses (s : State) (c : Cur) (v : View) (sl l : Nat) : Prop := s.operandTrapIn v c.ext sl (s.activeLanes sl v.pg) [l] = none

/-- A register of a lane holds a value in the file, and is not poisoned. -/
def HoldsR (t : State) (sl l r : Nat) (w : Word) : Prop := t.file (laneKey sl l) r = w ∧ t.poisoned (laneKey sl l) r = false

/-- A request was made between two states. -/
def Asks (s t : State) (r : Req) : Prop := ∃ id, s.coh.nextReq ≤ id ∧ t.req id = some r

/-- Byte a after some writes (key, bytes), one after another, of memory that held old there. -/
def lastByte (ws : List (Nat × List Byte)) (a : Nat) (old : Byte) : Byte :=
  ws.foldl (fun b w => if w.1 ≤ a ∧ a < w.1 + w.2.length then w.2.getD (a - w.1) 0 else b) old

/-- Between two states memory took some writes and no other byte of it changed. -/
def Wrote (s t : State) (ws : List (Nat × List Byte)) : Prop := ∀ a, t.byte a = lastByte ws a (s.byte a)

/-- The bytes a change stores at once. -/
def actStores : Machine.Act → List (Nat × List Byte)
  | .store key bs _ => [(key, bs)]
  | _ => []

/-- The A and D bits an access through a page sets in its table entry (R193). -/
def adBits (s : State) (sl : Nat) (write : Bool) (p : Page) (va : Nat) : List (Nat × List Byte) := (s.pageActs sl write p va).flatMap actStores

/-- The predicate function of PAND, POR, PXOR and PNOT (R128). -/
def predFn : Instr → Option (Bool → Bool → Bool)
  | .pand _ => some (fun a b => a && b)
  | .por _ => some (fun a b => a || b)
  | .pxor _ => some (fun a b => a != b)
  | .pnot _ => some (fun a _ => !a)
  | _ => none

/-- The source lane number of each shuffle (R129), from the receiving gang lane number n, its slice's GSLOT g and B. -/
def shuffleFn : Instr → Option (Nat → Nat → Word → Int)
  | .shflIdx _ => some (fun _ _ b => Int.ofNat (b.toNat % 32))
  | .shflUp _ => some (fun n _ b => Int.ofNat n - Int.ofNat b.toNat)
  | .shflDown _ => some (fun n _ b => Int.ofNat n + Int.ofNat b.toNat)
  | .shflXor _ => some (fun n _ b => Int.ofNat (n ^^^ (b.toNat % 32)))
  | .lswz _ => some (fun n g b => Int.ofNat (4 * g + b.toNat / 4 ^ (n % 4) % 4))
  | _ => none

/-- The slices of a split stand at different GSLOT numbers below 8 (R55). -/
def Placed (s : State) (c : Cur) : Prop := (c.slices.map (fun x => (s.slice x).gslot)).Nodup ∧ ∀ x ∈ c.slices, (s.slice x).gslot < 8

/-- The entry of a split holds its slices, which run and are not to stop. -/
def Running (s : State) (c : Cur) : Prop :=
  c.slices ≠ [] ∧ (s.split c.entry).slices = c.slices ∧ ∀ x ∈ c.slices, s.inSplit x = true ∧ (s.slice x).stop = false

/-- No debugger is attached to a slice's pack. -/
def Unwatched (s : State) (sl : Nat) : Prop := ∀ d, (s.packOf sl).debug = some d → d.attach = false

/-- A slice has entered its launch's handler with a trap (R97, R94): cause, detail, lanes, address, and the place it will resume at. -/
def Handles (s t : State) (sl code info : Nat) (addr : Dword) (lanes : BitVec 4) (aft : Bool) (pkt word : Nat) : Prop :=
  let x := t.slice sl
  x.trapcause.toNat % 256 = code % 256 ∧ x.trapcause.toNat / 256 % 256 = info % 256 ∧ x.trapcause.toNat / 2 ^ 17 % 4 = word % 4 ∧ x.trapcause.getLsbD 19 = aft ∧ hmOf x.trapcause = true
    ∧ x.trappc = BitVec.ofNat 32 (pkt + 2 ^ 64 - (s.packOf sl).textBase) ∧ x.trapaddr = addr ∧ x.traplanes = lanes.setWidth 32
    ∧ x.pc = (s.packOf sl).handler ∧ x.word = 0 ∧ x.status = .run

/-- The instructions that write only registers, predicates and flags. -/
def registerOnly (i : Instr) : Bool :=
  (laneFn i).isSome || (predFn i).isSome || (shuffleFn i).isSome || (match i with
    | .sel _ => true
    | .idxadd _ => true
    | .unif _ => true
    | .voteAny _ => true
    | .voteAll _ => true
    | .ballot _ => true
    | .gredIadd _ => true
    | .gredFmax _ => true
    | .gscanIadd _ => true
    | _ => false)

/-- SEL. -/
def isSel : Instr → Bool
  | .sel _ => true
  | _ => false

/-- The page and address of n bytes at offset o of a lane's private window (R186, R208), where they lie in the window, are aligned and their page is there. -/
def stackPage (s : State) (sl l o n : Nat) (write : Bool) : Option (Page × Nat) :=
  match s.accessAt l sl l 3 o n 0 write with
  | .ok (.window p va) => some (p, va)
  | _ => none

/-- The tests of an access of a lane's private window pass (R208): it has its page, and a write is let through. `field` is the one a POISON page reports. -/
def StackThere (s : State) (sl l o n field : Nat) (write : Bool) : Prop :=
  ∃ p va, stackPage s sl l o n write = some (p, va) ∧ (write = true → s.writeTest sl field (.window p va) = .ok (.window p va))

/-- No watchpoint of a slice meets some accesses (R105): kind 1 reads, 2 writes, of n bytes. -/
def Unseen (s : State) (sl kind n : Nat) (addrs : List (Nat × Nat)) : Prop := s.watchTrapAs (s.slice sl).suppress sl kind n addrs = none

/-- The bytes a CALL or CALLR of one slice stores (R73): the page's A and D bits, and the return address. -/
def callWrites (s : State) (c : Cur) (v : View) (sl : Nat) : List (Nat × List Byte) :=
  if s.activeLanes sl v.pg = [] then [] else
  match stackPage s sl 0 ((s.slice sl).sptop - 8) 8 true with
  | some (p, va) => adBits s sl true p va ++ [(p.key va, leBytes 8 (c.pkt + 12))]
  | none => []

/-- The bytes of SPILL and FILL (R89): a block of B + 1 words rounded up to a multiple of 8. -/
def blockSize (v : View) : Nat := (4 * (v.b + 1) + 7) / 8 * 8

/-- The block of a SPILL (below SPTOP) or FILL (at SPTOP) in the windows of a slice (R89). -/
def blockBase (s : State) (v : View) (fill : Bool) (sl : Nat) : Nat := if fill then (s.slice sl).sptop else (s.slice sl).sptop - blockSize v

/-- The words of a SPILL or FILL of one slice with the pages they lie on: lane, number in the block, page and address, lanes and words ascending. -/
def blockWords (s : State) (v : View) (fill : Bool) (sl : Nat) : List (Nat × Nat × Page × Nat) :=
  (s.activeLanes sl v.pg).flatMap (fun l => (List.range (v.b + 1)).filterMap (fun i => (stackPage s sl l (blockBase s v fill sl + 4 * i) 4 (!fill)).map (fun x => (l, i, x))))

/-- The tests of a SPILL or FILL of one slice pass: the registers resolve, the spill area has room, every word of the block is there (R89, R90) and no watchpoint meets it (R105). SPTOP and LPSIZE are 32-bit values. -/
def SpillPasses (s : State) (v : View) (fill : Bool) (sl : Nat) : Prop :=
  let x := s.slice sl
  s.boundsTrap sl (.v (v.b + 1) 1 false false) v.d (s.activeLanes sl v.pg) = none ∧ x.sptop < 2 ^ 32
    ∧ (if fill then x.sptop + blockSize v ≤ (s.packOf sl).lpsize ∧ (s.packOf sl).lpsize < 2 ^ 32 else x.splim + blockSize v ≤ x.sptop)
    ∧ (∀ l ∈ s.activeLanes sl v.pg, ∀ i, i < v.b + 1 → StackThere s sl l (blockBase s v fill sl + 4 * i) 4 v.d (!fill))
    ∧ Unseen s sl (if fill then 1 else 2) (4 * (v.b + 1)) ((s.activeLanes sl v.pg).map (fun l => (l, blockBase s v fill sl)))

/-- The A and D bits of the pages of a SPILL's or FILL's words (R193). -/
def blockAd (s : State) (v : View) (fill : Bool) (sl : Nat) : List (Nat × List Byte) := (blockWords s v fill sl).flatMap (fun x => adBits s sl (!fill) x.2.2.1 x.2.2.2)

/-- The bytes a SPILL of one slice stores: the pages' A and D bits, then each register of each active lane, lanes and registers ascending. -/
def spillWrites (s : State) (v : View) (sl : Nat) : List (Nat × List Byte) :=
  blockAd s v false sl ++ (blockWords s v false sl).map (fun x => (x.2.2.1.key x.2.2.2, leBytes 4 (s.file (laneKey sl x.1) (s.regOf sl x.1 v.d (v.b + 1) + x.2.1)).toNat))

/-- Registers of a lane hold words, all poisoned or none. -/
def Loaded (t : State) (sl l : Nat) (rs : List Nat) (ws : List Word) (psn : Bool) : Prop :=
  ∀ e ∈ rs.zip ws, t.file (laneKey sl l) e.1 = e.2 ∧ t.poisoned (laneKey sl l) e.1 = psn

/-- A request of a lane: kind, address, memory key, size and data. -/
def ReqFor (r : Req) (c : Cur) (sl l : Nat) (kind : ReqKind) (va key size : Nat) (data : List Byte) : Prop :=
  r.slice = sl ∧ r.lane = l ∧ r.iid = c.iid ∧ r.kind = kind ∧ r.va = va ∧ r.key = key ∧ r.size = size ∧ r.data = data

/-- What the tests of R208 answer for the active lanes of a slice of an X-format access: lane, address and target of each. -/
def accessTests (s : State) (v : View) (kind : Nat) (write : Bool) (sl : Nat) : Except Trap (List (Nat × Nat × Target)) :=
  s.testAccess sl (v.b % 8) (widthBytes (v.b / 8)) (v.b / 8) v.d kind write (s.addrs v sl (v.b % 8) (s.activeLanes sl v.pg))

/-- The targets of a slice when its tests pass. -/
def targetsOf (r : Except Trap (List (Nat × Nat × Target))) : List (Nat × Nat × Target) :=
  match r with
  | .ok ts => ts
  | .error _ => []

/-- The A and D bits an access to a target sets. -/
def adOf (s : State) (sl : Nat) (write : Bool) : Target → List (Nat × List Byte)
  | .page p va => adBits s sl write p va
  | .window p va => adBits s sl write p va
  | _ => []

/-- What a store of a slice writes at once: the A and D bits, and the bytes of its scratchpad and lane-private targets, lanes ascending. -/
def storeWrites (s : State) (v : View) (sl : Nat) : List (Nat × List Byte) :=
  (targetsOf (accessTests s v 2 true sl)).flatMap (fun e => adOf s sl true e.2.2 ++ (match e.2.2 with
    | .scratch key => [(key, storeBytes (v.b / 8) (s.dVals v sl e.1))]
    | .window p va => [(p.key va, storeBytes (v.b / 8) (s.dVals v sl e.1))]
    | _ => []))

/-- A barrier register after n arrivals (R251). -/
def arriveN (n : Nat) (b : Bar) : Bar := (List.range n).foldl (fun b _ => b.arrive) b

/-- A barrier register after BARINIT with a count (R254). -/
def initBar (b : Bar) (n : Nat) : Bar := if n ≤ b.cnt then { exp := n, cnt := 0, phase := (b.phase + 1) % 256 } else { b with exp := n }

/-- The slices of a split, of one pack, that have an active lane. -/
def acting (s : State) (c : Cur) (v : View) : List Nat := c.slices.filter (fun x => !decide (s.activeLanes x v.pg = []))

/-- The slices of a split belong to pack p and its kernel has the barrier register the word names. -/
def HasBar (s : State) (c : Cur) (v : View) (p : Nat) : Prop := c.slices ≠ [] ∧ ∀ x ∈ c.slices, packKey x = p ∧ v.b < (s.pack p).barriers

/-- The arrival-word accesses of a word: slice, lane, and the key of the word each active lane names, when all lie in the allocation (R258). -/
def arrivalLanes (s : State) (c : Cur) (v : View) : List (Nat × Nat × Nat) :=
  c.slices.flatMap (fun sl => (s.activeLanes sl v.pg).map (fun l => (sl, l, s.laneWord v sl l)))

/-- The tests of an arrival-word instruction pass in every slice (R258, R259). -/
def ArrivalOk (s : State) (c : Cur) (v : View) : Prop :=
  ∀ x ∈ c.slices, Passes s c v x (s.activeLanes x v.pg) ∧ ∀ l ∈ s.activeLanes x v.pg, s.arrvKey (packKey x) ((s.valA v x l).toNat % 2 ^ 16) ≠ none

/-- The active lanes of a split that a matrix or copy word acts in, all operand tests passing. -/
def WholePasses (s : State) (c : Cur) (v : View) : Prop := (∀ x ∈ c.slices, Passes s c v x (s.activeLanes x v.pg)) ∧ s.mlanes c.slices v.pg ≠ []

/-- Gang of a split. -/
def gangOf (s : State) (c : Cur) : Nat := s.gangKey (c.slices.headD 0)

/-- The MDRAIN of a split, with the descriptor values read at issue (R284). -/
def drainAt (s : State) (c : Cur) (v : View) (trans : Bool) : Drain := s.drainOf c v (s.mlanes c.slices v.pg) trans

/-- What an MDRAIN writes at once (R284, R285): piece by piece the A and D bits of its page, and the bytes of a scratchpad piece whose row block is final. -/
def drainWrites (s : State) (d : Drain) (ts : List (Piece × Target)) : List (Nat × List Byte) :=
  ts.flatMap (fun e => adOf s d.lead true e.2 ++ (match e.2 with
    | .scratch key => if s.pieceReady d e.1.out e.1.row then [(key, (s.pieceBytes d e.1.out e.1.row e.1.off e.1.len).1)] else []
    | _ => []))

/-- A step of another agent, or an input, completes: exec answers a next state, and P holds of it. -/
def Happens (i : Instr) (s : State) (P : State → Prop) : Prop := ∃ t, exec i s = .next t ∧ P t

/-- A slice goes on: it waits for nothing and stands where it stood. -/
def GoesOn (s t : State) (sl : Nat) : Prop := (t.slice sl).status = .run ∧ (t.slice sl).pc = (s.slice sl).pc ∧ (t.slice sl).word = (s.slice sl).word

/-- The RSTATUS of a slice's gang records a code (R326): the flags that stood stay, the code's flag joins them and the code replaces the one before; code 0 changes nothing. -/
def Recorded (s t : State) (sl code : Nat) : Prop :=
  (t.gang (s.gangKey sl)).rstatus = if code = 0 then (s.gang (s.gangKey sl)).rstatus
    else ((s.gang (s.gangKey sl)).rstatus &&& 7#32) ||| BitVec.ofNat 32 (rcodeFlag code + code % 256 * 2 ^ 8)

/-- The capability entry of a pack that an instruction used has been charged some bytes (R323), and no other entry changed: the entry in force, or, while a CAP replaces it, the new one where the hardware took that (R365). -/
def Charged (s t : State) (p c n : Nat) : Prop :=
  (t.fab.caps, t.fab.fresh) = if (s.newCap p c).isSome then (s.fab.caps, Sparse.set none s.fab.fresh (p * 64 + c) (some ((s.cap p c).charge n)))
    else (Sparse.set {} s.fab.caps (p * 64 + c) ((s.cap p c).charge n), s.fab.fresh)

/-- The bytes an answer brings, as many as were asked for. -/
def answered (n : Nat) (data : List Byte) : List Byte := (List.range n).map (fun i => data.getD i 0)

/-- The packet rows of the opcode table (R354): what they ask for, queue and index, whether RDIDX passes at once (a launch's only when its first pack is out, R355), and their effect. -/
def packetRow : Instr → Option (Row × Nat × Nat)
  | .nopPacket q i => some (.nop, q, i)
  | .launch q i => some (.launch, q, i)
  | .graphSeal q i => some (.graphSeal, q, i)
  | .graphLaunch q i => some (.graphLaunch, q, i)
  | .wait q i => some (.wait, q, i)
  | .signalWrite q i => some (.signalWrite, q, i)
  | .signalAdd q i => some (.signalAdd, q, i)
  | .barrier q i => some (.barrier, q, i)
  | .mapRoot q i => some (.mapRoot, q, i)
  | .mapSync q i => some (.mapSync, q, i)
  | .dspalloc q i => some (.dspalloc, q, i)
  | .dspfree q i => some (.dspfree, q, i)
  | .migreg q i => some (.migreg, q, i)
  | .mcgroup q i => some (.mcgroup, q, i)
  | .mcfree q i => some (.mcfree, q, i)
  | .unmap q i => some (.unmap, q, i)
  | .bias q i => some (.bias, q, i)
  | .cap q i => some (.cap, q, i)
  | .step q i => some (.step, q, i)
  | .snapregionAdd q i => some (.snapregionAdd, q, i)
  | .snapregionRemove q i => some (.snapregionRemove, q, i)
  | .rebuild q i => some (.rebuild, q, i)
  | .persist q i => some (.persist, q, i)
  | .attest q i => some (.attest, q, i)
  | _ => none

/-- Packet p of a queue can start now as a row: it is the queue's next, HOE does not stop it, it is well formed, and its status word can be written (R349, R354, R355). `as` are the acts of reading it. -/
def Starts (s : State) (p : Packet) (as : List Machine.Act) (row : Row) : Prop :=
  s.canon = true ∧ s.startable p.queue p.index = some (p, as) ∧ p.row = row ∧ p.bad = none ∧ (p.hoe && (s.queue p.queue).err.isSome) = false ∧ s.cstReady p.asid p.cst = true

/-- The state in which a packet acts: it has been read, and RDIDX has passed it. -/
def begun (s : State) (p : Packet) (as : List Machine.Act) : State := s.actAll (as ++ s.startActs p.queue p.index)

/-- The record of a packet's queue once RDIDX has passed the packet. -/
def started (s : State) (p : Packet) : Queue := { s.queue p.queue with rd := p.index + 1, since := s.run.ac }

/-- n bytes at a VA of an address space that has no page table: in host memory that Sundesh may write (R386), and apart from a queue's descriptor. -/
def HostArea (s : State) (asid queue va n : Nat) : Prop :=
  Sparse.get none s.maps.roots asid = none ∧ s.dev.ide = false ∧ (∀ k < n, s.mayWriteHost (va + k) = true) ∧ va + n ≤ 2 ^ 52
    ∧ (s.queue queue).space = none ∧ (va + n ≤ (s.queue queue).desc + 0x10 ∨ (s.queue queue).desc + 0x28 ≤ va)

/-- A packet completes between two states with a code and a detail (R351, R355, R356): its queue, whose record was x, counts it, nothing of it stays active, and its status word is written. -/
def Ended (s t : State) (x : Queue) (a : Active) (code detail : Nat) : Prop :=
  (x.here = true → x.gen = a.gen → t.queue a.queue = x.finish a.index code) ∧ (∀ b ∈ t.sun.active, ¬(b.queue = a.queue ∧ b.index = a.index))
    ∧ (a.cst ≠ 0 → HostArea s a.asid a.queue a.cst 8 → t.bytes (hostBase + a.cst) 8 = statusWord code detail)

/-- A packet starts and completes in one step. -/
def Completed (s t : State) (p : Packet) (code detail : Nat) : Prop := Ended s t (started s p) (p.active .rebuild) code detail

/-- A packet starts and stays active with some work still to be done (R349, R355). -/
def Waiting (s t : State) (p : Packet) (w : Work) : Prop := t.queue p.queue = started s p ∧ p.active w ∈ t.sun.active

/-- A mailbox command answers with a status (R350), and P holds; before READY it answers status 8 (R432). -/
def Answers (i : Instr) (s : State) (status : Nat) (P : State → Prop) : Prop := Happens i s (fun t => if s.dev.ready then t.dev.mbstat = status ∧ P t else t.dev.mbstat = 8)

/-- A bin has launched a gang of its oldest records on a core (R77, R78): a pack of its own, a record in the first registers of each live lane, and the records gone from the bin. -/
def GangLaunched (s t : State) (k core : Nat) (n : Node) : Prop :=
  let recs := (s.bin k).recs.take 32
  let p := s.ctl.nextPack
  t.bin k = { s.bin k with recs := (s.bin k).recs.drop 32, count := (s.bin k).count + 1 }
    ∧ (t.pack p).here = true ∧ (t.pack p).core = core ∧ (t.pack p).launch = k / 256 ∧ (t.pack p).px = BitVec.ofNat 32 (k % 64) ∧ (t.pack p).py = BitVec.ofNat 32 (s.bin k).count
    ∧ ∀ j < recs.length, let r := (recs.getD j (0, [])).2
      (t.slice (p * 128 + j / 4)).pc = n.entry ∧ (t.slice (p * 128 + j / 4)).live.getLsbD (j % 4) = true ∧ (r.length ≤ 64 → (∀ x ∈ recs, x.2.length ≤ 64) → ∀ w < r.length, t.file (laneKey (p * 128 + j / 4) (j % 4)) w = r.getD w 0)

end Sys2Proof
end

