-- ==== Sys2Proof/Certificates/Slice0/Obligations.lean ====
section
/-! DEFINITION. The statements about this machine, for the provers. -/
open Sys2Proof Sys2Proof.Machine

/-- The decoder reads instruction i from word w exactly when i is well-formed and its encoding is w: every well-formed instruction with every operand value comes back from its word, no two instructions share a word, and no word is read that is not the encoding of what it is read as. -/
def Obligations.DecodeInverse : Prop :=
  ∀ (i : Instr) (w : Word), decode w = .ok i ↔ (WellFormed i = true ∧ encode i = some w)

/-- Words put together bit by bit from the spec's formats (C, OPCODE, D, A, B, FN, T, PG, or OFF22) decode to what they stand for; a reserved function code, an EXT word with bit 31 set and a nonzero unused field are refused by name. -/
def Obligations.DecodeWords : Prop :=
  decode 0x00000000#32 = .ok (.nop ⟨false, 0, 0, 0, false, 0⟩)
  ∧ decode 0x00000030#32 = .ok (.exit ⟨false, 0, 0, 0, false, 0⟩)
  ∧ decode 0b1_001000_001010_000011_000100_000_0_010#32 = .ok (.iadd ⟨true, 10, 3, 4, false, 2⟩)
  ∧ decode 0b0_001011_000101_000110_000111_111_0_011#32 = .ok (.sel ⟨false, 5, 6, 7, false, 3⟩)
  ∧ decode 0b0_001111_000001_000010_000011_101_0_000#32 = .ok (.winset ⟨false, 1, 2, 3, false, 0⟩)
  ∧ decode 0b0_000001_1111111111111111111101_011#32 = .ok (.brAny ⟨false, 0x3FFFFD, 3⟩)
  ∧ decode 0b0_100000_001000_000010_011000_0010_000#32 = .ok (.ld ⟨false, 8, 2, 24, 2, 0⟩)
  ∧ decode 0b0_000111_0000000000000000000000101#32 = .ok (.ext 5)
  ∧ decode 0b1_000111_0000000000000000000000101#32 = .error .extChained
  ∧ decode 0b0_000100_000000_000000_000000_111_0_000#32 = .error .reserved
  ∧ decode 0b0_000000_000001_000000_000000_000_0_000#32 = .error (.illFormed .fixedBits)

/-- When the split of an entry is the one thing that may happen next and may issue (R64), every line of its first slice's packet lies on an executable page and is not poisoned, the instruction cache holds no bytes of the packet, and the word at its place decodes to an instruction that does not chain, needs no EXT, meets no breakpoint, no speculative window and no single-step, while no slice owes a trap of its matrix operation or executes again after an RTT with RPL, then the step is that instruction's exec, in the state one ac later in which the packet has been fetched and the word is the issuing one (State.armOne). -/
def Obligations.StepRunsDecoded : Prop :=
  ∀ (s : State) (e sl w32 : Nat) (ps : List (Page × Nat)) (w : Word) (i : Instr) (v : View),
    let t := s.tickAc
    let x := t.slice sl
    let bytes := t.fetchMem sl x.pc ps
    t.candidates = [.issue e] → t.plan e ≠ .wait → (t.byGslot (t.split e).slices).head? = some sl → x.word = w32 →
    t.fetchLines sl (packetLines x.pc) = .ok (some ps) → t.cachedPacket sl x.pc = [] →
    (packetWords bytes)[w32]? = some w → decode w = .ok i → view i = .word v → v.c = false → v.extOk none = true →
    (∀ y ∈ (t.split e).slices, t.breakTrap y x.pc w32 w32 = none ∧ (t.slice y).stepping = false ∧ (t.slice y).stepped = false ∧ (t.slice y).owed = none ∧ (t.slice y).only = none) →
    t.windowOf ((t.split e).slices.headD 0) = none →
    step s = exec i (t.armOne e x.pc ⟨i, v, none, w32⟩ bytes ps)

/-- From every state whose sparse maps are in canonical form (keys strictly rising, no entry equal to what an unlisted key reads as, every request with a number already given out), every step that answers a next state answers one in canonical form: equal contents stay equal data, whatever ran. The canonical form is the model's own (assumption log 3). -/
def Obligations.StepKeepsCanon : Prop :=
  ∀ (s t : State), s.canon = true → step s = .next t → t.canon = true

/-- After reset every part is in canonical form, memory lists nothing, no pack is resident, the device is not ready and has not failed, and its first step is a stage of bring-up. The values the spec does not give are the model's choices (assumption logs 5 to 10). -/
def Obligations.ResetCanon : Prop :=
  State.reset.canon = true ∧ State.reset.mem.bytes = [] ∧ State.reset.ctl.packs = [] ∧ State.reset.dev.ready = false ∧ State.reset.dev.fail = false
    ∧ State.reset.tickAc.candidates = [.agent .bringupStage]

/-- Whatever its state and operands, an instruction word answers a next state: what goes wrong in it is a trap, a wait or a parked access, never a stop. No instruction and no other step is refused; the one fault, an access to a physical frame that does not exist, arises only outside the instruction words. -/
def Obligations.WordsNeverStop : Prop :=
  (∀ (i : Instr) (v : View) (s : State), view i = .word v → ∃ t, exec i s = .next t)
  ∧ (∀ (i : Instr) (s : State) (r : Refusal), exec i s ≠ .refused r)
  ∧ (∀ (s : State) (r : Refusal), step s ≠ .refused r)

/-- FSET.CLASS writes, in each active lane, the bit of B that the class of A names: 0 signalling NaN, 1 quiet NaN, 2 minus infinity, 3 negative normal, 4 negative subnormal, 5 minus zero, 6 plus zero, 7 positive subnormal, 8 positive normal, 9 plus infinity; A is read as its bits, whatever FPCTL holds, and p0 stays true. -/
def Obligations.ClassBits : Prop :=
  ∀ (f : RF) (s : State) (c : Cur) (v : View), Acts (.fsetClass f) s c v → (∀ x ∈ c.slices, Passes s c v x (s.activeLanes x v.pg)) →
    Completes (.fsetClass f) s c (fun t sl => ∀ l ∈ s.activeLanes sl v.pg,
      let a := (s.valA v sl l).toNat % 2 ^ 32
      let neg := decide (a / 2 ^ 31 = 1)
      let e := a / 2 ^ 23 % 256
      let m := a % 2 ^ 23
      let k := if e = 255 then (if m = 0 then (if neg then 2 else 9) else if m / 2 ^ 22 = 1 then 1 else 0)
        else if e = 0 then (if m = 0 then (if neg then 5 else 6) else if neg then 4 else 7) else if neg then 3 else 8
      t.predOf (laneKey sl l) (v.d % 8) = (decide (v.d % 8 = 0) || (s.valB v c.ext sl l).getLsbD k))

/-- In a slice with an active lane, SRD of CLKLO writes the low word of the core's clock and latches its high word; SRD of CLKHI writes the latch where one is held, else the live high word, and spends the latch; CYCLO and CYCHI do the same with the cycle counter and a latch of their own. -/
def Obligations.LatchedClocks : Prop :=
  ∀ (f : RF) (s : State) (c : Cur) (v : View), Acts (.srd f) s c v → (∀ x ∈ c.slices, Passes s c v x (s.activeLanes x v.pg)) →
    Completes (.srd f) s c (fun t sl => ∀ l ∈ s.activeLanes sl v.pg,
      let x := s.slice sl
      let y := t.slice sl
      let ck := (s.core (s.coreOf sl)).ck
      let holds := fun (n : Nat) => HoldsR t sl l (s.regOf sl l v.d v.form.d.regs) (BitVec.ofNat 32 n)
      (v.a = 11 → holds ck ∧ y.clkLatch = some (BitVec.ofNat 32 (ck / 2 ^ 32)) ∧ y.cycLatch = x.cycLatch)
      ∧ (v.a = 12 → holds ((x.clkLatch.map BitVec.toNat).getD (ck / 2 ^ 32)) ∧ y.clkLatch = none ∧ y.cycLatch = x.cycLatch)
      ∧ (v.a = 13 → holds s.run.ac ∧ y.cycLatch = some (BitVec.ofNat 32 (s.run.ac / 2 ^ 32)) ∧ y.clkLatch = x.clkLatch)
      ∧ (v.a = 14 → holds ((x.cycLatch.map BitVec.toNat).getD (s.run.ac / 2 ^ 32)) ∧ y.cycLatch = none ∧ y.clkLatch = x.clkLatch))

/-- Lane-wise instructions (R122, R144): with no operand test failing in any slice of the split, the word completes; in every active lane D holds the instruction's function of the operands read at issue, and the flags of those lanes join FPCTL. -/
def Obligations.LanewiseResult : Prop :=
  ∀ (i : Instr) (g : LaneIn → LaneOut) (s : State) (c : Cur) (v : View), laneFn i = some g → Acts i s c v →
    (∀ x ∈ c.slices, Passes s c v x (s.activeLanes x v.pg) ∧ ∀ l ∈ s.activeLanes x v.pg, (g (s.laneIn v x l)).bad = none) →
    Completes i s c (fun t sl =>
      (t.slice sl).fpctl = (s.slice sl).fpctl ||| (((s.activeLanes sl v.pg).foldl (fun acc l => acc ||| (g (s.laneIn v sl l)).flags) 0).setWidth 32 &&& 0xF8#32)
        ∧ ∀ l ∈ s.activeLanes sl v.pg, HoldsD s t v sl l (g (s.laneIn v sl l)).v)

/-- Format words (R147): a slice in which some active lane's format word is invalid takes the trap 0x15 with the instruction's opcode, the word of the lowest such lane and the lanes that hold one, and enters its handler; its registers keep their values. -/
def Obligations.FormatTrap : Prop :=
  ∀ (i : Instr) (g : LaneIn → LaneOut) (s : State) (c : Cur) (v : View) (sl l : Nat) (w : Word), laneFn i = some g → Acts i s c v → sl ∈ c.slices →
    Passes s c v sl (s.activeLanes sl v.pg) → (s.activeLanes sl v.pg).find? (fun l => (g (s.laneIn v sl l)).bad.isSome) = some l → (g (s.laneIn v sl l)).bad = some w →
    hmOf (s.slice sl).trapcause = false → (s.packOf sl).handler ≠ 0 → Unwatched s sl → (s.slice sl).trans = [] →
    ∃ t, exec i s = .next t
      ∧ Handles s t sl 0x15 v.op (w.setWidth 64) (laneMask ((s.activeLanes sl v.pg).filter (fun l => (g (s.laneIn v sl l)).bad.isSome))) false c.firstPkt c.firstWord
      ∧ ∀ l, l < 4 → ∀ r, r < 256 → t.file (laneKey sl l) r = s.file (laneKey sl l) r

/-- SEL (R134). Its fields are resolved in every lane of the active mask, and a field that names no register there takes the index-bounds trap. With every field resolved and no lane's selected source poisoned, whatever the poison of the other source, the word completes: in every lane of the active mask, also where the guard is false, D holds A when the guard predicate holds and B otherwise, its poison cleared. A slice with a poisoned selected source takes the poison trap instead, and TRAPLANES names only lanes whose selected source is poisoned. -/
def Obligations.SelResult : Prop :=
  ∀ (f : RF) (s : State) (c : Cur) (v : View), Acts (.sel f) s c v →
    let ob := if (v.imm c.ext).isSome then Opnd.non else v.form.b
    let outside := fun sl => (s.boundsTrap sl v.form.d v.d (s.liveLanes sl)) <|> (s.boundsTrap sl v.form.a v.a (s.liveLanes sl)) <|> (s.boundsTrap sl ob v.b (s.liveLanes sl))
    let picksA := fun (sl l : Nat) => s.predOf (laneKey sl l) v.pg
    let bad := fun (sl l : Nat) => if picksA sl l then s.psnLanes v.bypass sl v.form.a v.a [l] ≠ [] else s.psnLanes v.bypass sl ob v.b [l] ≠ []
    let ready := fun (sl : Nat) => hmOf (s.slice sl).trapcause = false ∧ (s.packOf sl).handler ≠ 0 ∧ Unwatched s sl ∧ (s.slice sl).trans = []
    ((∀ x ∈ c.slices, outside x = none ∧ ∀ l ∈ s.liveLanes x, ¬ bad x l) →
      Completes (.sel f) s c (fun t sl => ∀ l ∈ s.liveLanes sl, HoldsD s t v sl l (if picksA sl l then s.valA v sl l else s.valB v c.ext sl l)))
    ∧ Acted (.sel f) s c (fun t sl =>
      (outside sl = none → (∃ l, l ∈ s.liveLanes sl ∧ bad sl l) → ready sl →
        let lanes := (t.slice sl).traplanes.setWidth 4
        Handles s t sl 0x10 ((t.slice sl).trapcause.toNat / 256 % 256) ((s.slice sl).origin.getD 0) lanes false c.firstPkt c.firstWord
          ∧ lanes ≠ 0 ∧ ∀ l, l < 4 → lanes.getLsbD l = true → l ∈ s.liveLanes sl ∧ bad sl l)
      ∧ (match outside sl with
        | some tr => ready sl → Handles s t sl 0x03 tr.info tr.addr tr.lanes false c.firstPkt c.firstWord
        | none => True))

/-- IDXADD keeps the window of the index register A names and adds B to its index modulo 256 (R135). WINSET, with a descriptor that R118 allows in the lowest active lane, writes that window of the slice and leaves it alone in a slice without an active lane (R136). UNIF writes 1 where the uniform tag of A is set, else 0 (R140). -/
def Obligations.IndexAndWindow : Prop :=
  (∀ (f : RF) (s : State) (c : Cur) (v : View), Acts (.idxadd f) s c v → (∀ x ∈ c.slices, Passes s c v x (s.activeLanes x v.pg)) →
    Completes (.idxadd f) s c (fun t sl => ∀ l ∈ s.activeLanes sl v.pg, t.idxOf (laneKey sl l) (v.d % 8) =
      (s.idxOf (laneKey sl l) (v.a % 8) &&& 0xC000#16) ||| ((s.idxOf (laneKey sl l) (v.a % 8) + (s.valB v c.ext sl l).setWidth 16) &&& 0xFF#16)))
  ∧ (∀ (f : RF) (s : State) (c : Cur) (v : View), Acts (.winset f) s c v →
    (∀ x ∈ c.slices, Passes s c v x (s.activeLanes x v.pg) ∧ ∀ l, (s.activeLanes x v.pg).head? = some l →
      56 ≤ (s.valA v x l).toNat % 256 ∧ 1 ≤ (s.valB v c.ext x l).toNat % 256 ∧ (s.valB v c.ext x l).toNat % 256 ≤ 200
        ∧ (s.valA v x l).toNat % 256 + (s.valB v c.ext x l).toNat % 256 ≤ (s.packOf x).regs) →
    Completes (.winset f) s c (fun t sl => (t.slice sl).window (v.d % 4) = match (s.activeLanes sl v.pg).head? with
      | some l => ⟨(s.valA v sl l).toNat % 256, (s.valB v c.ext sl l).toNat % 256⟩
      | none => (s.slice sl).window (v.d % 4)))
  ∧ (∀ (f : RF) (s : State) (c : Cur) (v : View), Acts (.unif f) s c v → (∀ x ∈ c.slices, Passes s c v x (s.activeLanes x v.pg)) →
    Completes (.unif f) s c (fun t sl => ∀ l ∈ s.activeLanes sl v.pg,
      HoldsD s t v sl l (if Sparse.get false s.lanes.untag (sl * 256 + s.regOf sl l v.a 1) then 0 else 1)))

/-- PAND, POR, PXOR and PNOT write their function of predicates A and B in each active lane; VOTE.ANY and VOTE.ALL write in each active lane whether predicate A holds in any, or in all, active lanes of the split (R128). A destination p0 stays true (R120). BALLOT (R128): every active lane receives one word; its bit j is set exactly when an active lane of the split with gang lane number j has predicate A true. -/
def Obligations.PredicateWords : Prop :=
  (∀ (i : Instr) (op : Bool → Bool → Bool) (s : State) (c : Cur) (v : View), predFn i = some op → Acts i s c v →
    Completes i s c (fun t sl => ∀ l ∈ s.activeLanes sl v.pg, t.predOf (laneKey sl l) (v.d % 8) =
      (decide (v.d % 8 = 0) || op (s.predOf (laneKey sl l) (v.a % 8)) (s.predOf (laneKey sl l) (v.b % 8)))))
  ∧ (∀ (f : RF) (s : State) (c : Cur) (v : View), Acts (.voteAny f) s c v →
    Completes (.voteAny f) s c (fun t sl => ∀ l ∈ s.activeLanes sl v.pg, t.predOf (laneKey sl l) (v.d % 8) =
      (decide (v.d % 8 = 0) || (s.splitLanes c v.pg).any (fun x => s.predOf (laneKey x.1 x.2) (v.a % 8)))))
  ∧ (∀ (f : RF) (s : State) (c : Cur) (v : View), Acts (.voteAll f) s c v →
    Completes (.voteAll f) s c (fun t sl => ∀ l ∈ s.activeLanes sl v.pg, t.predOf (laneKey sl l) (v.d % 8) =
      (decide (v.d % 8 = 0) || (s.splitLanes c v.pg).all (fun x => s.predOf (laneKey x.1 x.2) (v.a % 8)))))
  ∧ (∀ (f : RF) (s : State) (c : Cur) (v : View), Acts (.ballot f) s c v → Placed s c → (∀ x ∈ c.slices, Passes s c v x (s.activeLanes x v.pg)) →
    ∃ w : Word, (∀ j, j < 32 → (w.getLsbD j = (s.splitLanes c v.pg).any (fun x => decide (s.gangLane x.1 x.2 = j) && s.predOf (laneKey x.1 x.2) (v.a % 8))))
      ∧ Completes (.ballot f) s c (fun t sl => ∀ l ∈ s.activeLanes sl v.pg, HoldsD s t v sl l (w.setWidth 64)))

/-- Shuffles (R129): with the tests of R131 passing, each active lane receives A of the lane its form names, or its own A where the active mask of the split does not hold that lane (R123). Reductions (R130): with the tests of R131 passing, GRED.IADD gives every active lane the wrapped sum of A over the active lanes of the split, GSCAN.IADD the sum over those with a gang lane number at most its own, and GRED.FMAX the FP32 maximum. -/
def Obligations.CrossLaneWords : Prop :=
  (∀ (i : Instr) (j : Nat → Nat → Word → Int) (s : State) (c : Cur) (v : View), shuffleFn i = some j → Acts i s c v →
    (∀ x ∈ c.slices, s.crossTrap c v (shuffleSrc s j) x = none) →
    Completes i s c (fun t sl => ∀ l ∈ s.activeLanes sl v.pg, HoldsD s t v sl l
      ((s.laneA v ((s.findLane c (j (s.gangLane sl l) (s.slice sl).gslot ((s.valB v c.ext sl l).setWidth 32))).getD (sl, l))).setWidth 64)))
  ∧ (∀ (f : RF) (s : State) (c : Cur) (v : View), Acts (.gredIadd f) s c v → (∀ x ∈ c.slices, s.crossTrap c v (reduceSrc s) x = none) →
    Completes (.gredIadd f) s c (fun t sl => ∀ l ∈ s.activeLanes sl v.pg, HoldsD s t v sl l ((((s.splitLanes c v.pg).map (s.laneA v)).foldl (· + ·) 0).setWidth 64)))
  ∧ (∀ (f : RF) (s : State) (c : Cur) (v : View), Acts (.gscanIadd f) s c v → (∀ x ∈ c.slices, s.crossTrap c v (scanSrc s) x = none) →
    Completes (.gscanIadd f) s c (fun t sl => ∀ l ∈ s.activeLanes sl v.pg, HoldsD s t v sl l
      (((((s.splitLanes c v.pg).filter (fun (x : Nat × Nat) => decide (s.gangLane x.1 x.2 ≤ s.gangLane sl l))).map (s.laneA v)).foldl (· + ·) 0).setWidth 64)))
  ∧ (∀ (f : RF) (s : State) (c : Cur) (v : View), Acts (.gredFmax f) s c v → (∀ x ∈ c.slices, s.crossTrap c v (reduceSrc s) x = none) →
    Completes (.gredFmax f) s c (fun t sl => ∀ l ∈ s.activeLanes sl v.pg, HoldsD s t v sl l ((fmaxWords (s.slice sl) ((s.splitLanes c v.pg).map (s.laneA v))).1.setWidth 64)))

/-- The lane-wise instructions, SEL, IDXADD, UNIF, PAND, POR, PXOR, PNOT, the votes, BALLOT, the shuffles and the reductions, when no slice traps: memory, requests, mappings, tiles, copies, fabric, queues and device keep their values, and so do packs, gangs, barriers and the slices outside the split; in a slice of the split only D (an aligned result register of an active lane, for SEL of a live lane; predicate or index D of any lane), open transient results, the flags of FPCTL and the flags still to come change, and the place goes on. -/
def Obligations.RegisterWordsFrame : Prop :=
  ∀ (i : Instr) (s t : State) (c : Cur) (v : View), registerOnly i = true → Acts i s c v → exec i s = .next t → (∀ e ∈ t.log, ∀ x tr, e.2 ≠ .trap x tr) →
    t.mem = s.mem ∧ t.coh = s.coh ∧ t.maps = s.maps ∧ t.opq = s.opq ∧ t.mat = s.mat ∧ t.cpy = s.cpy ∧ t.fab = s.fab ∧ t.sun = s.sun ∧ t.sett = s.sett ∧ t.dev = s.dev
    ∧ t.ctl.packs = s.ctl.packs ∧ t.ctl.gangs = s.ctl.gangs ∧ t.ctl.bars = s.ctl.bars ∧ t.ctl.windows = s.ctl.windows ∧ t.ctl.fatal = s.ctl.fatal ∧ t.ctl.steps = s.ctl.steps
    ∧ (∀ sl, sl ∉ c.slices → t.slice sl = s.slice sl ∧ ∀ l, l < 4 → ∀ r, r < 256 → t.file (laneKey sl l) r = s.file (laneKey sl l) r ∧ t.poisoned (laneKey sl l) r = s.poisoned (laneKey sl l) r
        ∧ t.predOf (laneKey sl l) (r % 8) = s.predOf (laneKey sl l) (r % 8) ∧ t.idxOf (laneKey sl l) (r % 8) = s.idxOf (laneKey sl l) (r % 8))
    ∧ (∀ sl ∈ c.slices, ∃ ts fl fs, fl &&& 0xF8#32 = fl ∧ t.slice sl = { (s.slice sl).tick v.bypass with pc := c.nextPkt, word := c.nextWord, taken := false, trans := ts, fpctl := (s.slice sl).fpctl ||| fl, flight := fs })
    ∧ (∀ sl ∈ c.slices, ∀ l, l < 4 → ∀ r, r < 256 → (match v.form.d with
        | .v n _ _ _ => r < s.regOf sl l v.d n ∨ s.regOf sl l v.d n + n ≤ r ∨ (if isSel i then l ∉ s.liveLanes sl else l ∉ s.activeLanes sl v.pg)
        | _ => True) → t.file (laneKey sl l) r = s.file (laneKey sl l) r ∧ t.poisoned (laneKey sl l) r = s.poisoned (laneKey sl l) r)
    ∧ (∀ sl ∈ c.slices, ∀ l, l < 4 → ∀ k, k < 8 → (v.form.d = .p → k ≠ v.d % 8 ∨ l ∉ s.activeLanes sl v.pg) → t.predOf (laneKey sl l) k = s.predOf (laneKey sl l) k)
    ∧ (∀ sl ∈ c.slices, ∀ l, l < 4 → ∀ k, k < 8 → (v.form.d = .x → k ≠ v.d % 8 ∨ l ∉ s.activeLanes sl v.pg) → t.idxOf (laneKey sl l) k = s.idxOf (laneKey sl l) k)

/-- A slice out of handler mode whose launch has a handler takes a trap (R97): TRAPCAUSE holds the code, INFO, AFT, the resume word and HM, TRAPPC the resume packet less the text base, TRAPADDR the address, TRAPLANES the lanes, and the slice goes to the handler; its FPCTL, SPTOP, SPLIM, windows and live lanes, every other slice, and all registers, memory and requests keep their values. -/
def Obligations.TrapEntry : Prop :=
  ∀ (s : State) (sl : Nat) (tr : Trap), s.canon = true → hmOf (s.slice sl).trapcause = false → (s.packOf sl).handler ≠ 0 → Unwatched s sl →
    let t := s.takeTrap sl tr
    let r := s.resumeOf (s.slice sl) tr
    Handles s t sl tr.code tr.info tr.addr tr.lanes tr.aft r.1.1 r.1.2 ∧ (t.slice sl).trapcause.toNat / 2 ^ 20 % 16 = min r.2 15 ∧ rplOf (t.slice sl).trapcause = tr.rpl
      ∧ (t.slice sl).fpctl = (s.slice sl).fpctl ∧ (t.slice sl).sptop = (s.slice sl).sptop ∧ (t.slice sl).splim = (s.slice sl).splim ∧ (t.slice sl).live = (s.slice sl).live
      ∧ (∀ k, (t.slice sl).window k = (s.slice sl).window k) ∧ (∀ o, o ≠ sl → t.slice o = s.slice o)
      ∧ t.lanes = s.lanes ∧ t.mem = s.mem ∧ t.coh = s.coh ∧ t.mat = s.mat ∧ t.ctl.fatal = s.ctl.fatal

/-- A trap of a slice in handler mode, or of a launch without a handler, is fatal when no debugger is attached (R98): the slice stops, in handler mode with CODE 0x17 and the new cause in INFO, and no slice of the launch issues any more. -/
def Obligations.FatalTrap : Prop :=
  ∀ (s : State) (sl : Nat) (tr : Trap), s.canon = true → (hmOf (s.slice sl).trapcause = true ∨ (s.packOf sl).handler = 0) → Unwatched s sl →
    let t := s.takeTrap sl tr
    (t.slice sl).status = .halted
      ∧ (hmOf (s.slice sl).trapcause = true → (t.slice sl).trapcause.toNat % 256 = 0x17 ∧ (t.slice sl).trapcause.toNat / 256 % 256 = tr.code % 256 ∧ (t.slice sl).trapaddr = 0)
      ∧ (hmOf (s.slice sl).trapcause = false → (t.slice sl).trapcause.toNat % 256 = tr.code % 256 ∧ (t.slice sl).trapcause.toNat / 256 % 256 = tr.info % 256)
      ∧ ∀ o, (t.packOf o).launch = (s.packOf sl).launch → t.sliceWaits o = true

/-- NOP changes no register and no memory (R109). YIELD completes at once, and its split, when a lane's guard holds, gives way for 16 ac (R111). EXT hands its payload to the word that follows (R31). -/
def Obligations.NopYieldExt : Prop :=
  (∀ (f : RF) (s : State) (c : Cur) (v : View), Acts (.nop f) s c v →
    Completes (.nop f) s c (fun t sl => t.lanes = s.lanes ∧ t.mem = s.mem ∧ t.coh = s.coh ∧ t.mat = s.mat ∧ (t.slice sl).fpctl = (s.slice sl).fpctl ∧ (t.slice sl).status = (s.slice sl).status))
  ∧ (∀ (f : RF) (s : State) (c : Cur) (v : View), Acts (.yield f) s c v → Running s c →
    Completes (.yield f) s c (fun t _ => (t.split c.entry).slices = c.slices ∧ (t.split c.entry).yield =
      if c.slices.any (fun x => decide (s.activeLanes x v.pg ≠ [])) then some (s.run.ac + 16) else (s.split c.entry).yield))
  ∧ (∀ (x : BitVec 25) (s : State) (c : Cur), s.run.cur = some c →
    ∃ t, exec (.ext x) s = .next t ∧ t.run.cur = some { c with ext := some x } ∧ t.lanes = s.lanes ∧ t.ctl = s.ctl ∧ t.mem = s.mem)

/-- BKPT and TRAP (R110): in a slice with a guarded lane BKPT raises CODE 0x09 and TRAP CODE 0x08, with k in INFO, the guarded lanes in TRAPLANES, AFT = 1 and the next instruction as the resume point, whether or not the launch has a handler or a debugger. A handler is entered with these, and a slice stopped at a BKPT by an attached debugger stands at the next instruction, HM left 0. A slice without a guarded lane goes on after the word with its trap registers as they were. -/
def Obligations.SoftTraps : Prop :=
  ∀ (i : Instr) (code : Nat) (s : State) (c : Cur) (v : View), ((∃ f, i = .bkpt f) ∧ code = 0x09 ∨ (∃ f, i = .trap f) ∧ code = 0x08) → Acts i s c v →
    Acted i s c (fun t sl =>
      let x := s.slice sl
      let y := t.slice sl
      (s.activeLanes sl v.pg = [] → WentOn c t sl ∧ y.trapcause = x.trapcause ∧ y.trappc = x.trappc ∧ y.trapaddr = x.trapaddr ∧ y.traplanes = x.traplanes)
      ∧ (s.activeLanes sl v.pg ≠ [] → hmOf x.trapcause = false →
        y.trapcause.toNat % 256 = code ∧ y.trapcause.toNat / 256 % 256 = v.b ∧ y.trapcause.toNat / 2 ^ 17 % 4 = c.nextWord % 4 ∧ y.trapcause.getLsbD 19 = true
          ∧ y.trappc = BitVec.ofNat 32 (c.nextPkt + 2 ^ 64 - (s.packOf sl).textBase) ∧ y.traplanes = (laneMask (s.activeLanes sl v.pg)).setWidth 32
          ∧ ((s.packOf sl).handler ≠ 0 → Unwatched s sl → Handles s t sl code v.b 0 (laneMask (s.activeLanes sl v.pg)) true c.nextPkt c.nextWord)
          ∧ (code = 0x09 → ¬ Unwatched s sl → y.stop = true ∧ y.pc = c.nextPkt ∧ y.word = c.nextWord ∧ hmOf y.trapcause = false)))

/-- RTT (R113): in handler mode with WORD below 3 the slice leaves it, goes on at text base + TRAPPC at word WORD, RPL is cleared and, where it was set, the next group executes in the lanes of TRAPLANES only. With HM = 0 it takes the illegal-instruction trap. -/
def Obligations.RttReturns : Prop :=
  ∀ (f : RF) (s : State) (c : Cur) (v : View), Acts (.rtt f) s c v →
    Acted (.rtt f) s c (fun t sl =>
      let x := s.slice sl
      (hmOf x.trapcause = true → x.trapcause.toNat / 2 ^ 17 % 4 ≠ 3 →
        (t.slice sl).pc = ((s.packOf sl).textBase + x.trappc.toNat) % 2 ^ 64 ∧ (t.slice sl).word = x.trapcause.toNat / 2 ^ 17 % 4
          ∧ hmOf (t.slice sl).trapcause = false ∧ rplOf (t.slice sl).trapcause = false ∧ (t.slice sl).trapcause.toNat % 2 ^ 16 = x.trapcause.toNat % 2 ^ 16
          ∧ (t.slice sl).only = (if rplOf x.trapcause then some (x.traplanes.setWidth 4) else none))
      ∧ (hmOf x.trapcause = false → (s.packOf sl).handler ≠ 0 → Unwatched s sl → x.trans = [] →
        Handles s t sl 0x01 0x00 0 x.live false c.firstPkt c.firstWord))

/-- SRD (R114): every active lane receives the value of special register A, unpoisoned; a read of CLKLO latches the high half of the clock for the slice, and a read of CLKHI spends the latch (R92). -/
def Obligations.SpecialReads : Prop :=
  ∀ (f : RF) (s : State) (c : Cur) (v : View), Acts (.srd f) s c v → (∀ x ∈ c.slices, Passes s c v x (s.activeLanes x v.pg)) →
    Completes (.srd f) s c (fun t sl =>
      (∀ l ∈ s.activeLanes sl v.pg, HoldsR t sl l (s.regOf sl l v.d v.form.d.regs) (s.special c sl l v.a))
        ∧ (s.activeLanes sl v.pg ≠ [] → v.a = 11 → (t.slice sl).clkLatch = some (BitVec.ofNat 32 ((s.core (s.coreOf sl)).ck / 2 ^ 32)))
        ∧ (s.activeLanes sl v.pg ≠ [] → v.a = 12 → (t.slice sl).clkLatch = none)
        ∧ (t.slice sl).fpctl = (s.slice sl).fpctl ∧ (t.slice sl).trapcause = (s.slice sl).trapcause ∧ (t.slice sl).sptop = (s.slice sl).sptop)

/-- SWR (R114) takes its value from the lowest active lane: FPCTL takes RM and FTZ and clears the flags written as one, but for flags that an instruction still executing raises when it completes (R164); RSTATUS loses the flags written as one, one slice after another, and keeps its other flags and RCODE; in handler mode TRAPCAUSE takes WORD only and TRAPPC the value rounded down to a multiple of 12; SPTOP and SPLIM take a value up to the window size rounded down to a multiple of 8, where an SPTOP that falls stays at or above SPLIM (R74); WINCFG takes SEL. Of these registers only the one named changes, none without an active lane, and no other register or byte of memory changes. -/
def Obligations.SpecialWrites : Prop :=
  ∀ (f : RF) (s : State) (c : Cur) (v : View), Acts (.swr f) s c v →
    let val := fun (x l : Nat) => ((s.valB v none x l).setWidth 32 : Word)
    (∀ x ∈ c.slices, ∀ l, (s.activeLanes x v.pg).head? = some l → HeadPasses s c v x l ∧
      (v.a = 16 ∨ v.a = 17 ∨ v.a = 30 ∨ ((v.a = 18 ∨ v.a = 19) ∧ hmOf (s.slice x).trapcause = true)
        ∨ ((v.a = 23 ∨ v.a = 24) ∧ (val x l).toNat / 8 * 8 ≤ (s.packOf x).lpsize
          ∧ (v.a = 23 → (s.slice x).splim ≤ (val x l).toNat / 8 * 8 ∨ (s.slice x).sptop ≤ (val x l).toNat / 8 * 8)))) →
    Completes (.swr f) s c (fun t sl =>
      let old := s.slice sl
      let new := t.slice sl
      let given := fun (n x : Nat) => if v.a = n then (s.activeLanes x v.pg).head?.map (val x) else none
      new.fpctl = (match given 16 sl with
          | some x => old.flight.foldl (fun w e => if s.run.ac + 1 < e.1 then w ||| (e.2.setWidth 32 &&& 0xF8#32) else w) ((x &&& 0x7#32) ||| (old.fpctl &&& ~~~x &&& 0xF8#32))
          | none => old.fpctl)
        ∧ (t.gang (s.gangKey sl)).rstatus = (c.slices.filter (fun y => decide (s.gangKey y = s.gangKey sl))).foldl (fun w y => match given 17 y with
          | some x => w &&& ~~~(x &&& 0x7#32)
          | none => w) (s.gang (s.gangKey sl)).rstatus
        ∧ new.trapcause = (match given 18 sl with
          | some x => (old.trapcause &&& 0xFFF9FFFF#32) ||| (x &&& 0x00060000#32)
          | none => old.trapcause)
        ∧ new.trappc = (match given 19 sl with
          | some x => BitVec.ofNat 32 (x.toNat / 12 * 12)
          | none => old.trappc)
        ∧ new.sptop = ((given 23 sl).map (fun x => x.toNat / 8 * 8)).getD old.sptop
        ∧ new.splim = ((given 24 sl).map (fun x => x.toNat / 8 * 8)).getD old.splim
        ∧ new.sel = ((given 30 sl).map (fun x => x.toNat % 4)).getD old.sel
        ∧ t.lanes = s.lanes ∧ t.mem = s.mem)

/-- BR.ANY (R81) is taken in a slice whose guard holds in some live lane, BR.ALL in one whose guard holds in all of them; the target is the packet address plus 12 times OFF22, modulo 2^64. A taken slice goes to the target's first word, any other goes on after the group. A taken slice whose target R82 refuses takes the branch-target trap with the target in TRAPADDR. -/
def Obligations.BranchResult : Prop :=
  ∀ (i : Instr) (s : State) (c : Cur) (v : View) (taken : Nat → Bool),
    ((∃ f, i = .brAny f) ∧ (∀ x, taken x = (s.liveLanes x).any (fun l => s.predOf (laneKey x l) v.pg))
      ∨ (∃ f, i = .brAll f) ∧ (∀ x, taken x = (s.liveLanes x).all (fun l => s.predOf (laneKey x l) v.pg))) → Acts i s c v →
    let target := ((Int.ofNat c.pkt + 12 * v.off.toInt) % 2 ^ 64).toNat
    Acted i s c (fun t sl =>
      (taken sl = false → WentOn c t sl)
      ∧ (taken sl = true → target % 12 = 0 → target < 2 ^ 57 → (t.slice sl).pc = target ∧ (t.slice sl).word = 0)
      ∧ (taken sl = true → (target % 12 ≠ 0 ∨ 2 ^ 57 ≤ target) → hmOf (s.slice sl).trapcause = false → (s.packOf sl).handler ≠ 0 → Unwatched s sl → (s.slice sl).trans = [] →
        Handles s t sl 0x05 0 (BitVec.ofNat 64 target) (laneMask (s.liveLanes sl)) false c.firstPkt c.firstWord))

/-- When some slices of a running split take a branch and others do not, also where the target is the place after the branch, and the quadrant's split table has a free entry, the slices that fall through stay in the entry and the taken slices move to a free one of the same gang (R53). -/
def Obligations.DivergenceDivides : Prop :=
  ∀ (f : BF) (s : State) (c : Cur) (v : View), Acts (.brAny f) s c v → Running s c → targetOk (branchTarget c.pkt v.off) = true →
    s.freeEntries (c.entry / 64) ≠ [] → (∃ x ∈ c.slices, s.activeLanes x v.pg ≠ []) → (∃ x ∈ c.slices, s.activeLanes x v.pg = []) →
    ∃ t e, exec (.brAny f) s = .next t ∧ e ∈ s.freeEntries (c.entry / 64)
      ∧ (t.split c.entry).slices = c.slices.filter (fun x => decide (s.activeLanes x v.pg = []))
      ∧ (t.split e).slices = c.slices.filter (fun x => !decide (s.activeLanes x v.pg = []))
      ∧ (t.split e).gang = (s.split c.entry).gang ∧ (t.split e).held = []

/-- CALL and CALLR write the return packet address at SPTOP − 8 of lane 0's private window, lower SPTOP by 8 and go to the target (R73, R83, R84), when in every slice with an active lane the target, the spill area and the window's page allow it and no watchpoint meets the access (R105); JMPR goes to the address in the register pair of the lowest active lane; RET goes to the doubleword at SPTOP and raises SPTOP by 8. A slice without an active lane goes on after the group. The calls write no other byte of memory but the page's A and D bits, JMPR none, RET the page's A bit only. -/
def Obligations.CallsAndReturns : Prop :=
  (∀ (i : Instr) (s : State) (c : Cur) (v : View) (target : Nat → Nat → Nat),
    ((∃ f, i = .call f) ∧ (∀ x l, target x l = branchTarget c.pkt v.off) ∨ (∃ f, i = .callr f) ∧ (∀ x l, target x l = (s.valA v x l).toNat)) → Acts i s c v →
    (∀ x ∈ c.slices, ∀ l, (s.activeLanes x v.pg).head? = some l → ((∃ f, i = .callr f) → HeadPasses s c v x l) ∧ targetOk (target x l) = true
      ∧ (s.slice x).splim + 8 ≤ (s.slice x).sptop ∧ StackThere s x 0 ((s.slice x).sptop - 8) 8 0 true ∧ Unseen s x 2 8 [(0, (s.slice x).sptop - 8)]) →
    Acted i s c (fun t sl =>
      (s.activeLanes sl v.pg = [] → WentOn c t sl)
      ∧ (∀ l, (s.activeLanes sl v.pg).head? = some l → (t.slice sl).pc = target sl l ∧ (t.slice sl).word = 0 ∧ (t.slice sl).sptop + 8 = (s.slice sl).sptop)
      ∧ Wrote s t (c.slices.flatMap (callWrites s c v))))
  ∧ (∀ (f : RF) (s : State) (c : Cur) (v : View), Acts (.jmpr f) s c v →
    (∀ x ∈ c.slices, ∀ l, (s.activeLanes x v.pg).head? = some l → HeadPasses s c v x l ∧ targetOk (s.valA v x l).toNat = true) →
    Acted (.jmpr f) s c (fun t sl => (s.activeLanes sl v.pg = [] → WentOn c t sl)
      ∧ (∀ l, (s.activeLanes sl v.pg).head? = some l → (t.slice sl).pc = (s.valA v sl l).toNat ∧ (t.slice sl).word = 0) ∧ t.mem = s.mem))
  ∧ (∀ (f : RF) (s : State) (c : Cur) (v : View) (page : Nat → Page × Nat), Acts (.ret f) s c v →
    let back := fun (x : Nat) => leNat (s.bytesAs ((page x).1.key (page x).2) 8 (page x).1.keyid)
    (∀ x ∈ c.slices, s.activeLanes x v.pg ≠ [] → (s.slice x).sptop + 8 ≤ (s.packOf x).lpsize
      ∧ stackPage s x 0 (s.slice x).sptop 8 false = some (page x) ∧ targetOk (back x) = true ∧ Unseen s x 1 8 [(0, (s.slice x).sptop)]) →
    Acted (.ret f) s c (fun t sl => (s.activeLanes sl v.pg = [] → WentOn c t sl)
      ∧ (s.activeLanes sl v.pg ≠ [] → (t.slice sl).sptop = (s.slice sl).sptop + 8 ∧ (t.slice sl).word = 0 ∧ (t.slice sl).pc = back sl)
      ∧ Wrote s t (c.slices.flatMap (fun x => if s.activeLanes x v.pg = [] then [] else adBits s x false (page x).1 (page x).2))))

/-- SPILL (R89) stores registers D to D + B of each guarded lane, ascending, in a block of the lane's private window below SPTOP and lowers SPTOP by the block; it changes no register and, but for the A and D bits of the pages, no other byte. FILL reads the words of the block at SPTOP into the registers, poisoned where a word's page or bytes are (R100), and raises SPTOP by the block; it changes no other register and, but for the A bits of the pages, no byte. In a slice without a guarded lane SPTOP stays. -/
def Obligations.SpillAndFill : Prop :=
  (∀ (f : RF) (s : State) (c : Cur) (v : View), Acts (.spill f) s c v → (∀ x ∈ c.slices, s.activeLanes x v.pg ≠ [] → SpillPasses s v false x) →
    Completes (.spill f) s c (fun t sl => (t.slice sl).sptop = (if s.activeLanes sl v.pg = [] then (s.slice sl).sptop else (s.slice sl).sptop - blockSize v)
      ∧ Wrote s t (c.slices.flatMap (spillWrites s v)) ∧ t.lanes = s.lanes))
  ∧ (∀ (f : RF) (s : State) (c : Cur) (v : View), Acts (.fill f) s c v → (∀ x ∈ c.slices, s.activeLanes x v.pg ≠ [] → SpillPasses s v true x) →
    Completes (.fill f) s c (fun t sl => (t.slice sl).sptop = (if s.activeLanes sl v.pg = [] then (s.slice sl).sptop else (s.slice sl).sptop + blockSize v)
      ∧ (∀ l ∈ s.activeLanes sl v.pg, ∀ i, i < v.b + 1 → ∀ p va, stackPage s sl l (blockBase s v true sl + 4 * i) 4 false = some (p, va) →
        t.file (laneKey sl l) (s.regOf sl l v.d (v.b + 1) + i) = BitVec.ofNat 32 (leNat (s.bytesAs (p.key va) 4 p.keyid))
          ∧ t.poisoned (laneKey sl l) (s.regOf sl l v.d (v.b + 1) + i) = (p.poison || s.localPsn (p.key va) 4))
      ∧ (∀ l, l < 4 → ∀ r, r < 256 → (l ∉ s.activeLanes sl v.pg ∨ r < s.regOf sl l v.d (v.b + 1) ∨ s.regOf sl l v.d (v.b + 1) + v.b < r) →
        t.file (laneKey sl l) r = s.file (laneKey sl l) r ∧ t.poisoned (laneKey sl l) r = s.poisoned (laneKey sl l) r)
      ∧ Wrote s t (c.slices.flatMap (fun x => if s.activeLanes x v.pg = [] then [] else blockAd s v true x))))

/-- EXIT (R112): a slice with a guarded lane leaves the machine, its RRCV holds are released and its outstanding loads and prefetches are discarded, while its stores and atomics go on. -/
def Obligations.ExitEnds : Prop :=
  ∀ (f : RF) (s : State) (c : Cur) (v : View), Acts (.exit f) s c v →
    ∃ t, exec (.exit f) s = .next t ∧ (∀ sl ∈ c.slices, s.activeLanes sl v.pg ≠ [] → (t.slice sl).status = .exited ∧ (t.slice sl).holds = [])
      ∧ ∀ id r, s.req id = some r → t.req id = (if decide (r.slice ∈ c.slices) && !decide (s.activeLanes r.slice v.pg = []) && (match r.kind with
          | .load _ _ => true
          | .prefetch _ => true
          | .ldfe _ => true
          | _ => false) then none else some r)

/-- REGANG (R56): while a slice of the gang that counts has not arrived (mode 0, R57), or fewer than eight slices wait at the meet (mode 1, R59), every slice of the split waits at the meet, at the REGANG, with its mode, number, packet and the time of its arrival. -/
def Obligations.RegangWaits : Prop :=
  ∀ (f : RF) (s : State) (c : Cur) (v : View) (p g : Nat), Acts (.regang f) s c v → (∀ x ∈ c.slices, packKey x = p ∧ (s.slice x).gang = g) →
    (v.a % 2 = 0 ∧ (∃ y ∈ s.counted p g, y ∉ c.slices ∧ (s.slice y).meet? = none)
      ∨ v.a % 2 = 1 ∧ (s.pack p).tiles = 0 ∧ (s.at1 p (v.b, c.pkt)).length + c.slices.length < 8) →
    Acted (.regang f) s c (fun t sl => (t.slice sl).status = .meet (v.a % 2) v.b c.pkt s.run.ac ∧ (t.slice sl).pc = c.pkt ∧ (t.slice sl).word = c.word)

/-- SPAWN (R88): with every slice's tests passing and room for all records, the die's bin of the node gains one record for each active lane in ascending gang lane order, and the split goes on; without room every slice waits at the SPAWN (R80). -/
def Obligations.SpawnRecords : Prop :=
  ∀ (f : RF) (s : State) (c : Cur) (v : View), Acts (.spawn f) s c v → (∀ x ∈ c.slices, s.spawnTrap v x = none) →
    let recs := c.slices.flatMap (fun sl => (s.activeLanes sl v.pg).map (fun l => (s.rangeRegs sl l v.d (s.nodeWords sl v.b)).map (s.readReg false sl l)))
    let k := s.spawnBin (c.slices.headD 0) v.b
    (v.a % 2 = 0 → recs ≠ [] → (s.bin k).recs.length + recs.length ≤ 256 →
      Completes (.spawn f) s c (fun t _ => t.sun = { s.sun with bins := Sparse.set {} s.sun.bins k { s.bin k with recs := (s.bin k).recs ++ recs.map (fun r => (s.run.ac, r)), tc := max (s.bin k).tc 0 } }))
    ∧ (v.a % 2 = 1 → recs ≠ [] → (s.bin k).recs.length + recs.length ≤ 256 →
      Completes (.spawn f) s c (fun t sl => t.sun.bins = Sparse.set {} s.sun.bins k { s.bin k with
          recs := (s.bin k).recs ++ recs.map (fun r => (s.run.ac, r))
          tc := max (s.bin k).tc (maxOf (c.slices.map (fun sl => max (s.core (s.coreOf sl)).ck (s.slice sl).maxws))) } ∧ (t.slice sl).maxws = 0))
    ∧ (256 < (s.bin k).recs.length + recs.length →
      Acted (.spawn f) s c (fun t sl => (t.slice sl).status = .spawnRoom k recs.length ∧ (t.slice sl).pc = c.pkt ∧ (t.slice sl).word = c.word ∧ t.sun = s.sun))

/-- LD and LD.nt (R208): with the tests passing in every slice, the registers of a lane whose target is a scratchpad or its private window hold the bytes there, extended by width (R207), poisoned where the bytes are; a lane whose target is a page or the die scratchpad has a load request outstanding, and one whose page is not there is parked. No byte of memory changes but the A bits of page-table entries. -/
def Obligations.LoadResult : Prop :=
  ∀ (i : Instr) (nt : Bool) (s : State) (c : Cur) (v : View), ((∃ f, i = .ld f) ∧ nt = false ∨ (∃ f, i = .ldNt f) ∧ nt = true) → Acts i s c v →
    (∀ x ∈ c.slices, Passes s c v x (s.activeLanes x v.pg) ∧ ∃ ts, accessTests s v 1 false x = .ok ts) →
    let w := v.b / 8
    let start := fun (sl va key : Nat) (p : Page) => if s.lpBacked (s.packOf sl).asid va then ReqState.queued else (s.startLoad sl (s.coreOf sl) key (widthBytes w) p.ty p.keyid).1
    let size := widthBytes w
    Completes i s c (fun t sl => Wrote s t (c.slices.flatMap (fun x => (targetsOf (accessTests s v 1 false x)).flatMap (fun e => adOf s x false e.2.2)))
      ∧ ∀ e ∈ targetsOf (accessTests s v 1 false sl), match e.2.2 with
        | .scratch key => Loaded t sl e.1 (s.dRegs v sl e.1) (loadWords w (s.bytes key size)) (s.localPsn key size)
        | .window p va => Loaded t sl e.1 (s.dRegs v sl e.1) (loadWords w (s.bytesAs (p.key va) size p.keyid)) (p.poison || s.localPsn (p.key va) size)
        | .page p va => ∃ r, Asks s t r ∧ ReqFor r c sl e.1 (.load w (s.dRegs v sl e.1)) va (p.key va) size [] ∧ r.nt = nt ∧ r.keyid = p.keyid ∧ r.ty = p.ty
            ∧ r.tier = p.tier ∧ r.state = (start sl va (p.key va) p).marked p.poison
        | .dsp key => ∃ r, Asks s t r ∧ ReqFor r c sl e.1 (.load w (s.dRegs v sl e.1)) e.2.1 key size [] ∧ r.tier = 4 ∧ r.state = .queued
        | .park va => ∃ r, Asks s t r ∧ ReqFor r c sl e.1 (.load w (s.dRegs v sl e.1)) va 0 size [] ∧ r.nt = nt ∧ r.state = .parked)

/-- ST and ST.nt (R208): with the tests passing in every slice, memory takes the bytes of the lanes whose target is a scratchpad or a private window, lanes ascending, with the A and D bits of the page-table entries, and no other byte changes; a lane whose target is a page or the die scratchpad has a store request with its bytes outstanding, and one whose page is not there is parked with them. No register changes. -/
def Obligations.StoreResult : Prop :=
  ∀ (i : Instr) (nt : Bool) (s : State) (c : Cur) (v : View), ((∃ f, i = .st f) ∧ nt = false ∨ (∃ f, i = .stNt f) ∧ nt = true) → Acts i s c v →
    (∀ x ∈ c.slices, Passes s c v x (s.activeLanes x v.pg) ∧ ∃ ts, accessTests s v 2 true x = .ok ts) →
    Completes i s c (fun t sl => t.lanes = s.lanes ∧ Wrote s t (c.slices.flatMap (storeWrites s v))
      ∧ ∀ e ∈ targetsOf (accessTests s v 2 true sl), let bs := storeBytes (v.b / 8) (s.dVals v sl e.1)
        match e.2.2 with
        | .page p va => ∃ r, Asks s t r ∧ ReqFor r c sl e.1 .store va (p.key va) bs.length bs ∧ r.nt = nt ∧ r.keyid = p.keyid ∧ r.ty = p.ty ∧ r.tier = p.tier
            ∧ r.persist = (decide (p.tier = 1) && p.p) ∧ r.state = .queued
        | .dsp key => ∃ r, Asks s t r ∧ ReqFor r c sl e.1 .store e.2.1 key (widthBytes (v.b / 8)) bs ∧ r.tier = 4 ∧ r.state = .queued
        | .park va => ∃ r, Asks s t r ∧ ReqFor r c sl e.1 .store va 0 (widthBytes (v.b / 8)) bs ∧ r.nt = nt ∧ r.state = .parked
        | _ => True)

/-- LD, LD.nt, ST and ST.nt (R208): a slice whose tests answer a trap enters its handler with the cause, address and lanes of that trap, resuming at its group's first word, and its registers keep their values. -/
def Obligations.AccessTrap : Prop :=
  ∀ (i : Instr) (write : Bool) (s : State) (c : Cur) (v : View) (sl : Nat) (tr : Trap),
    ((∃ f, i = .ld f ∨ i = .ldNt f) ∧ write = false ∨ (∃ f, i = .st f ∨ i = .stNt f) ∧ write = true) → Acts i s c v → sl ∈ c.slices →
    Passes s c v sl (s.activeLanes sl v.pg) → accessTests s v (if write then 2 else 1) write sl = .error tr →
    hmOf (s.slice sl).trapcause = false → (s.packOf sl).handler ≠ 0 → Unwatched s sl → (s.slice sl).trans = [] →
    ∃ t, exec i s = .next t ∧ Handles s t sl tr.code tr.info tr.addr tr.lanes false c.firstPkt c.firstWord
      ∧ ∀ l, l < 4 → ∀ r, r < 256 → t.file (laneKey sl l) r = s.file (laneKey sl l) r

/-- PF (R213) requests the line of each active lane whose address translates to a TYPE 0 page of HBM, SCM or host memory, and changes no register and no byte. CMO.CLEAN and CMO.CLEANINV (R214) leave the line of each global page target clean, an SCM line that was dirty having reached the array; CMO.INV and CMO.CLEANINV drop the lease copy of the issuing core's L1 and, off the line's home, that of its die's L2. -/
def Obligations.CacheWords : Prop :=
  (∀ (f : XF) (s : State) (c : Cur) (v : View), Acts (.pf f) s c v → (∀ x ∈ c.slices, Passes s c v x (s.activeLanes x v.pg)) →
    Completes (.pf f) s c (fun t sl => t.lanes = s.lanes ∧ t.mem = s.mem ∧ ∀ a ∈ s.addrs v sl 0 (s.activeLanes sl v.pg), a.2 < 2 ^ 57 → ∀ p va, s.translate a.1 sl a.2 = .ok (.page p va) →
      p.ty = 0 → p.tier ≤ 2 → ∃ r, Asks s t r ∧ ReqFor r c sl a.1 (.prefetch (v.d % 2)) va (p.key va / 64 * 64) 64 [] ∧ r.state = .queued))
  ∧ (∀ (i : Instr) (clean inv : Bool) (s : State) (c : Cur) (v : View),
    ((∃ f, i = .cmoClean f) ∧ clean = true ∧ inv = false ∨ (∃ f, i = .cmoInv f) ∧ clean = false ∧ inv = true ∨ (∃ f, i = .cmoCleaninv f) ∧ clean = true ∧ inv = true) → Acts i s c v →
    (∀ x ∈ c.slices, Passes s c v x (s.activeLanes x v.pg) ∧ ∃ ts, s.testAccess x 0 0 0 0 0 false (s.addrs v x 0 (s.activeLanes x v.pg)) = .ok ts ∧ ∀ e ∈ ts, adOf s x false e.2.2 = []) →
    Completes i s c (fun t sl => t.lanes = s.lanes ∧ t.mem.bytes = s.mem.bytes
      ∧ ∀ e ∈ targetsOf (s.testAccess sl 0 0 0 0 0 false (s.addrs v sl 0 (s.activeLanes sl v.pg))), ∀ p va, e.2.2 = .page p va → p.tier ≠ 3 →
        (clean = true → Sparse.get false t.mem.dirty (lineOf (p.key va)) = false
          ∧ (Sparse.get false s.mem.dirty (lineOf (p.key va)) = true → scmBase ≤ lineOf (p.key va) * 64 → lineOf (p.key va) * 64 < hostBase →
            ∀ k, k < 64 → Sparse.get 0 t.mem.nv (lineOf (p.key va) * 64 + k) = s.byte (lineOf (p.key va) * 64 + k)))
        ∧ (inv = true → t.copy? (s.coreOf sl) (lineOf (p.key va)) = none
          ∧ (s.homeOf (p.key va) ≠ dieOfCore (s.coreOf sl) → t.copy? (160 + dieOfCore (s.coreOf sl)) (lineOf (p.key va)) = none))))

/-- Atomics (R248): with the tests passing, each active lane has an atomic request outstanding at its target with its operation, width and operand bytes, the second operand of a compare-and-swap after the first; the old value will go to D, or nowhere for RED.g. No register changes at issue. -/
def Obligations.AtomicRequests : Prop :=
  ∀ (i : Instr) (space : Nat) (red : Bool) (s : State) (c : Cur) (v : View),
    ((∃ f, i = .atomG f) ∧ space = 0 ∧ red = false ∨ (∃ f, i = .atomS f) ∧ space = 1 ∧ red = false ∨ (∃ f, i = .atomC f) ∧ space = 2 ∧ red = false ∨ (∃ f, i = .redG f) ∧ space = 0 ∧ red = true) →
    Acts i s c v →
    let size := awBytes (v.b % 4)
    let tests := fun (x : Nat) => s.testAccess x space size (if size = 8 then 3 else 2) v.d 3 true (s.addrs v x space (s.activeLanes x v.pg))
    (∀ x ∈ c.slices, Passes s c v x (s.activeLanes x v.pg) ∧ ∃ ts, tests x = .ok ts) →
    Completes i s c (fun t sl => t.lanes = s.lanes ∧ ∀ e ∈ targetsOf (tests sl),
      let ops := s.atomOps v sl e.1
      let kind := ReqKind.atom (v.b / 4) (v.b % 4) (if red then [] else (s.dRegs v sl e.1).take (awRegs (v.b % 4)))
      match e.2.2 with
      | .scratch key => ∃ r, Asks s t r ∧ ReqFor r c sl e.1 kind e.2.1 key size ops.1 ∧ r.op2 = ops.2 ∧ r.tier = 5 ∧ r.state = .queued
      | .dsp key => ∃ r, Asks s t r ∧ ReqFor r c sl e.1 kind e.2.1 key size ops.1 ∧ r.op2 = ops.2 ∧ r.tier = 4 ∧ r.state = .queued
      | .page p va => ∃ r, Asks s t r ∧ ReqFor r c sl e.1 kind va (p.key va) size ops.1 ∧ r.op2 = ops.2 ∧ r.tier = p.tier ∧ r.state = .queued
      | .park va => ∃ r, Asks s t r ∧ ReqFor r c sl e.1 kind va 0 size ops.1 ∧ r.op2 = ops.2 ∧ r.state = .parked
      | .window _ _ => True)

/-- LDFE (R261): each active lane has a request outstanding at its scratchpad word, which waits until the word is full. STFE stores the bytes of each active lane, lanes ascending, leaves the words it stores full, and changes no other byte. -/
def Obligations.FullEmptyWords : Prop :=
  (∀ (f : XF) (s : State) (c : Cur) (v : View), Acts (.ldfe f) s c v → (∀ x ∈ c.slices, Passes s c v x (s.activeLanes x v.pg) ∧ ∃ ts, accessTests s v 1 false x = .ok ts) →
    Completes (.ldfe f) s c (fun t sl => t.mem = s.mem ∧ t.lanes = s.lanes ∧ ∀ e ∈ targetsOf (accessTests s v 1 false sl), ∀ key, e.2.2 = .scratch key →
      ∃ r, Asks s t r ∧ ReqFor r c sl e.1 (.ldfe (s.dRegs v sl e.1)) e.2.1 key (widthBytes (v.b / 8)) [] ∧ r.state = .queued))
  ∧ (∀ (f : XF) (s : State) (c : Cur) (v : View), Acts (.stfe f) s c v → (v.b % 8 = 1 ∨ v.b % 8 = 2) → (∀ x ∈ c.slices, Passes s c v x (s.activeLanes x v.pg) ∧ ∃ ts, accessTests s v 2 true x = .ok ts) →
    Completes (.stfe f) s c (fun t sl => t.lanes = s.lanes ∧ Wrote s t (c.slices.flatMap (storeWrites s v))
      ∧ ∀ e ∈ targetsOf (accessTests s v 2 true sl), ∀ key, e.2.2 = .scratch key → ∀ k, k < widthBytes (v.b / 8) / 4 → Sparse.get false t.mem.full (key / 4 + k) = true))

/-- Barrier registers: BARA arrives once for each slice with an active lane, in some order of them, and each such slice receives the phase its arrival found (R251, R253); BARAW arrives so and waits where the phase has not moved on since; BARW waits while PHASE equals A[7:0] of its lowest active lane (R254); a slice that need not wait has raised its core's clock to the times of the copies behind the barrier's arrivals (R252). BARINIT sets EXP, and a CNT at or above it completes the phase; BARQ reads the register. GBAR (R257): in a slice whose lowest active lane names a group of its pack, the slice waits at the group in the group's phase, and its earlier writes have been released: the core's clock has reached their largest time, which starts again. -/
def Obligations.BarrierWords : Prop :=
  (∀ (f : RF) (s : State) (c : Cur) (v : View) (p : Nat), Acts (.bara f) s c v → HasBar s c v p → (∀ x ∈ c.slices, Passes s c v x (s.activeLanes x v.pg)) →
    ∃ order : List Nat, order.Perm (acting s c v) ∧ Completes (.bara f) s c (fun t sl => t.bar (p * 16 + v.b) = arriveN order.length (s.bar (p * 16 + v.b)) ∧ ∀ l ∈ s.activeLanes sl v.pg,
      HoldsR t sl l (s.regOf sl l v.d v.form.d.regs) (BitVec.ofNat 32 (arriveN (order.takeWhile (fun x => decide (x ≠ sl))).length (s.bar (p * 16 + v.b))).phase)))
  ∧ (∀ (f : RF) (s : State) (c : Cur) (v : View) (p : Nat), Acts (.baraw f) s c v → HasBar s c v p → (∀ x ∈ c.slices, Passes s c v x (s.activeLanes x v.pg)) →
    ∃ order : List Nat, order.Perm (acting s c v) ∧ Completes (.baraw f) s c (fun t sl => t.bar (p * 16 + v.b) = arriveN order.length (s.bar (p * 16 + v.b)) ∧
      let found := (arriveN (order.takeWhile (fun x => decide (x ≠ sl))).length (s.bar (p * 16 + v.b))).phase
      let moved := (arriveN order.length (s.bar (p * 16 + v.b))).phase ≠ found
      (t.slice sl).status = (if sl ∈ acting s c v ∧ ¬ moved then .barrier v.b found else (s.slice sl).status)
        ∧ (sl ∈ acting s c v → moved → s.tcOf (p * 16 + v.b) ≤ (t.core (s.coreOf sl)).ck)))
  ∧ (∀ (f : RF) (s : State) (c : Cur) (v : View) (p : Nat), Acts (.barw f) s c v → HasBar s c v p → (∀ x ∈ c.slices, ∀ l, (s.activeLanes x v.pg).head? = some l → HeadPasses s c v x l) →
    Completes (.barw f) s c (fun t sl => t.bar (p * 16 + v.b) = s.bar (p * 16 + v.b) ∧ match (s.activeLanes sl v.pg).head? with
      | some l => if (s.bar (p * 16 + v.b)).phase = (s.valA v sl l).toNat % 256 then (t.slice sl).status = .barrier v.b ((s.valA v sl l).toNat % 256)
        else (t.slice sl).status = (s.slice sl).status ∧ s.tcOf (p * 16 + v.b) ≤ (t.core (s.coreOf sl)).ck
      | none => (t.slice sl).status = (s.slice sl).status))
  ∧ (∀ (f : RF) (s : State) (c : Cur) (v : View) (p : Nat), Acts (.barinit f) s c v → HasBar s c v p →
    (∀ x ∈ c.slices, ∀ l, (s.activeLanes x v.pg).head? = some l → HeadPasses s c v x l ∧ 1 ≤ (s.valA v x l).toNat % 2 ^ 32 ∧ (s.valA v x l).toNat % 2 ^ 32 < 2 ^ 12) →
    Completes (.barinit f) s c (fun t _ => t.bar (p * 16 + v.b) =
      (c.slices.flatMap (fun x => ((s.activeLanes x v.pg).take 1).map (fun l => (s.valA v x l).toNat % 2 ^ 32))).foldl initBar (s.bar (p * 16 + v.b))))
  ∧ (∀ (f : RF) (s : State) (c : Cur) (v : View) (p : Nat), Acts (.barq f) s c v → HasBar s c v p → (∀ x ∈ c.slices, Passes s c v x (s.activeLanes x v.pg)) →
    Completes (.barq f) s c (fun t sl => t.bar (p * 16 + v.b) = s.bar (p * 16 + v.b) ∧ ∀ l ∈ s.activeLanes sl v.pg, HoldsR t sl l (s.regOf sl l v.d v.form.d.regs)
      (BitVec.ofNat 32 ((s.bar (p * 16 + v.b)).phase * 2 ^ 24 + (s.bar (p * 16 + v.b)).cnt * 2 ^ 12 + (s.bar (p * 16 + v.b)).exp))))
  ∧ (∀ (f : RF) (s : State) (c : Cur) (v : View), Acts (.gbar f) s c v →
    (∀ x ∈ c.slices, ∀ l, (s.activeLanes x v.pg).head? = some l → HeadPasses s c v x l ∧ (s.valA v x l).toNat % 2 ^ 32 < (s.packOf x).groupEntries ∧ (s.packOf x).groups.contains ((s.valA v x l).toNat % 2 ^ 32) = true) →
    Completes (.gbar f) s c (fun t sl => ∀ l, (s.activeLanes sl v.pg).head? = some l →
      (t.slice sl).status = .group ((s.valA v sl l).toNat % 2 ^ 32) (s.groupPhase (s.packOf sl).launch ((s.valA v sl l).toNat % 2 ^ 32))
        ∧ (s.slice sl).maxws ≤ (t.core (s.coreOf sl)).ck ∧ (s.core (s.coreOf sl)).ck ≤ (t.core (s.coreOf sl)).ck ∧ (t.slice sl).maxws = 0))

/-- Arrival words: ARRV.INIT stores TARGET with COUNT 0 and the generation kept; ARRV.ADD raises each named word once for each active lane, lanes ascending, and changes no other byte; ARRV.RD reads the word into a pair; AWAIT and AWAIT.T wait while the generation of some active lane's word equals B[15:0], AWAIT.T with a timeout from D of the lowest active lane, where it need not wait AWAIT.T writes 1, and either has raised its core's clock to the times behind the raises of its words (R233, R258, R259). A raise by k of an arrival word (R258): with a nonzero TARGET, COUNT + k is counted modulo TARGET and GEN goes up by the number of targets completed, modulo 2^16, and TARGET stays; with TARGET 0, COUNT saturates at its largest value and GEN stays. -/
def Obligations.ArrivalWords : Prop :=
  (∀ (f : RF) (s : State) (c : Cur) (v : View), Acts (.arrvInit f) s c v → ArrivalOk s c v → (∀ x ∈ c.slices, ∀ l ∈ s.activeLanes x v.pg, (s.valB v c.ext x l).toNat % 2 ^ 32 < 2 ^ 24) →
    Completes (.arrvInit f) s c (fun t _ => Wrote s t ((arrivalLanes s c v).map (fun e => (e.2.2, leBytes 8 ((s.valB v c.ext e.1 e.2.1).toNat % 2 ^ 24 * 2 ^ 40 + s.dword e.2.2 % 2 ^ 16))))))
  ∧ (∀ (f : RF) (s : State) (c : Cur) (v : View) (p : Nat), Acts (.arrvAdd f) s c v → ArrivalOk s c v → (∀ x ∈ c.slices, packKey x = p) →
    (∀ x ∈ c.slices, ∀ l ∈ s.activeLanes x v.pg, (s.valB v c.ext x l).toNat % 2 ^ 32 < 2 ^ 24) →
    Completes (.arrvAdd f) s c (fun t _ =>
      (∀ e ∈ arrivalLanes s c v, t.dword e.2.2 = (((arrivalLanes s c v).filter (fun x => decide (x.2.2 = e.2.2))).map (fun x => (s.valB v c.ext x.1 x.2.1).toNat % 2 ^ 24)).foldl raiseWord (s.dword e.2.2))
      ∧ ∀ a, (∀ e ∈ arrivalLanes s c v, a < e.2.2 ∨ e.2.2 + 8 ≤ a) → t.byte a = s.byte a))
  ∧ (∀ (f : RF) (s : State) (c : Cur) (v : View), Acts (.arrvRd f) s c v → ArrivalOk s c v →
    Completes (.arrvRd f) s c (fun t sl => t.mem = s.mem ∧ ∀ l ∈ s.activeLanes sl v.pg, HoldsR t sl l (s.regOf sl l v.d 2) (BitVec.ofNat 32 (s.dword (s.laneWord v sl l)))
      ∧ HoldsR t sl l (s.regOf sl l v.d 2 + 1) (BitVec.ofNat 32 (s.dword (s.laneWord v sl l) / 2 ^ 32))))
  ∧ (∀ (f : RF) (s : State) (c : Cur) (v : View), Acts (.await f) s c v → ArrivalOk s c v →
    Completes (.await f) s c (fun t sl => (t.slice sl).status = (if s.awaitHeld (s.awaitLanes v sl (s.activeLanes sl v.pg)) then .await (s.awaitLanes v sl (s.activeLanes sl v.pg)) none [] else (s.slice sl).status)
      ∧ (s.awaitHeld (s.awaitLanes v sl (s.activeLanes sl v.pg)) = false → ∀ x ∈ s.awaitLanes v sl (s.activeLanes sl v.pg), s.tcOf (2 ^ 60 + x.2.1) ≤ (t.core (s.coreOf sl)).ck)))
  ∧ (∀ (f : RF) (s : State) (c : Cur) (v : View), Acts (.awaitT f) s c v → ArrivalOk s c v →
    Completes (.awaitT f) s c (fun t sl => ∀ l, (s.activeLanes sl v.pg).head? = some l →
      if s.awaitHeld (s.awaitLanes v sl (s.activeLanes sl v.pg)) then
        (t.slice sl).status = .await (s.awaitLanes v sl (s.activeLanes sl v.pg)) (some (s.run.ac + (s.valD v sl l).toNat % 2 ^ 32)) ((s.activeLanes sl v.pg).map (fun l => (l, s.regOf sl l v.d 1)))
      else (t.slice sl).status = (s.slice sl).status ∧ (∀ m ∈ s.activeLanes sl v.pg, HoldsR t sl m (s.regOf sl m v.d v.form.d.regs) 1)
        ∧ ∀ x ∈ s.awaitLanes v sl (s.activeLanes sl v.pg), s.tcOf (2 ^ 60 + x.2.1) ≤ (t.core (s.coreOf sl)).ck))
  ∧ (∀ (w k : Nat), w < 2 ^ 64 →
    (0 < w / 2 ^ 40 → raiseWord w k / 2 ^ 40 = w / 2 ^ 40 ∧ raiseWord w k / 2 ^ 16 % 2 ^ 24 = (w / 2 ^ 16 % 2 ^ 24 + k) % (w / 2 ^ 40)
      ∧ raiseWord w k % 2 ^ 16 = (w % 2 ^ 16 + (w / 2 ^ 16 % 2 ^ 24 + k) / (w / 2 ^ 40)) % 2 ^ 16)
    ∧ (w / 2 ^ 40 = 0 → raiseWord w k / 2 ^ 40 = 0 ∧ raiseWord w k / 2 ^ 16 = min (w / 2 ^ 16 + k) 0xFFFFFF ∧ raiseWord w k % 2 ^ 16 = w % 2 ^ 16))

/-- Fences of scope cl or wider on a core (R227): an acquire raises ck to OBSV, a release raises it to the largest maxws of the split's slices, which start again, FENCE.AR does both; with a narrower scope ck stays. IFENCE acquires, and leaves no packet in the core's instruction cache (R235). No register and no byte changes. PBAR (R239) ends the slice's persist epoch and starts the next, with its scope noted; PSYNC (R240), whose wait is over when it issues, changes nothing; FENCE.SP (R229) opens a window of its split that holds the fence's place, the place after it, its scope and slices. -/
def Obligations.FenceWords : Prop :=
  (∀ (i : Instr) (rel acq : Bool) (s : State) (c : Cur) (v : View) (k : Nat),
    ((∃ f, i = .fenceAcq f ∨ i = .ifence f) ∧ rel = false ∧ acq = true ∨ (∃ f, i = .fenceRel f) ∧ rel = true ∧ acq = false ∨ (∃ f, i = .fenceAr f) ∧ rel = true ∧ acq = true) → Acts i s c v →
    c.slices ≠ [] → (∀ x ∈ c.slices, s.coreOf x = k) →
    Completes i s c (fun t sl => t.lanes = s.lanes ∧ t.mem = s.mem
      ∧ (t.core k).ck = (if v.b % 8 < 2 then (s.core k).ck else maxOf ((s.core k).ck :: (if acq then [(s.core k).obsv] else []) ++ (if rel then c.slices.map (fun x => (s.slice x).maxws) else [])))
      ∧ (t.slice sl).maxws = (if rel = true ∧ 2 ≤ v.b % 8 then 0 else (s.slice sl).maxws)
      ∧ ((∃ f, i = .ifence f) → ∀ a, a / 2 ^ 73 = k → Sparse.get [] t.coh.icache a = [])))
  ∧ (∀ (f : RF) (s : State) (c : Cur) (v : View), Acts (.pbar f) s c v →
    Completes (.pbar f) s c (fun t sl => (t.slice sl).epoch = (s.slice sl).epoch + 1 ∧ (t.slice sl).pbars = ((s.slice sl).epoch, v.b % 8) :: (s.slice sl).pbars ∧ t.mem = s.mem ∧ t.lanes = s.lanes))
  ∧ (∀ (f : RF) (s : State) (c : Cur) (v : View), Acts (.psync f) s c v →
    Completes (.psync f) s c (fun t sl => (t.slice sl).epoch = (s.slice sl).epoch ∧ (t.slice sl).maxws = (s.slice sl).maxws ∧ t.mem = s.mem ∧ t.lanes = s.lanes ∧ t.coh = s.coh))
  ∧ (∀ (f : RF) (s : State) (c : Cur) (v : View), Acts (.fenceSp f) s c v → c.slices ≠ [] →
    Completes (.fenceSp f) s c (fun t _ => t.lanes = s.lanes ∧ t.mem = s.mem ∧ ∃ w, Sparse.get none t.ctl.windows (c.slices.headD 0) = some w ∧ w.scope = v.b % 8 ∧ w.pkt = c.pkt ∧ w.word = c.word
      ∧ w.nextPkt = c.nextPkt ∧ w.nextWord = c.nextWord ∧ w.slices = c.slices ∧ w.count = 0 ∧ w.lines = []))

/-- What a split must have waited for when it issues (R35, R64): no slice of it waits or is stopped; no word reads or writes a register with an outstanding write; an acquire fence has its slice's earlier loads and atomics in the registers; a release fence has its earlier accesses where its scope asks (R227); a PSYNC has its persist-writes accepted (R240). -/
def Obligations.IssueWaits : Prop :=
  ∀ (s : State) (e : Nat) (ms : List Member) (bytes : List Byte) (pages : List (Page × Nat)), s.plan e = .run ms bytes pages →
    ∀ sl ∈ s.byGslot (s.split e).slices, (s.slice sl).status = .run ∧ (s.slice sl).stop = false ∧ (s.packOf sl).here = true
      ∧ ∀ m ∈ ms, (∀ l, l < 4 → ∀ r ∈ s.touched sl l m.v m.ext, r ∉ s.outstanding sl l)
        ∧ (m.v.op = 0x2E → (m.v.fn = 0 ∨ m.v.fn = 4 → s.acquireReady sl s.run.count = true) ∧ (m.v.fn = 1 ∨ m.v.fn = 2 → s.releaseReady sl s.run.count m.v.scope = true)
          ∧ (m.v.fn = 6 → s.psyncReady sl m.v.scope = true))

/-- MMA (R279): on an allocated tile, with the operand tests, votes and checks passing, the matrix operation is outstanding with the descriptor values read at issue, it is the last of its quadrant's engine, the tile's WM is at most its first row, FLT is clear, and no register and no byte has changed. -/
def Obligations.MmaEnters : Prop :=
  ∀ (f : XF) (s : State) (c : Cur) (v : View) (m : Mma), Acts (.mma f) s c v → WholePasses s c v → s.tileHere (gangOf s c) (v.d % 4) = true → s.mmaOf c v (s.mlanes c.slices v.pg) = .ok m →
    Completes (.mma f) s c (fun t _ => t.mma? s.mat.next = some m ∧ m.row = extPay c.ext / 128 % 64 ∧ m.m = extPay c.ext % 8 + 1
      ∧ (t.tileSt m.tile).wm = min (s.tileSt m.tile).wm (extPay c.ext / 128 % 64) ∧ (t.tileSt m.tile).flt = false
      ∧ (t.engine m.quad).queue = (s.engine m.quad).queue ++ [s.mat.next] ∧ (t.engine m.quad).running = (s.engine m.quad).running
      ∧ t.lanes = s.lanes ∧ t.mem = s.mem ∧ ∀ tile i j, t.el tile i j = s.el tile i j)

/-- On an allocated tile: MZERO makes both rows of each active lane (+0, +0) without marks (R281); MWR writes the eight registers of each lane as the high words of four columns of its two rows, low words +0 and without marks; MRD delivers four columns of the two rows, with their marks as poison (R282); MSTAT writes the tile's status (R290). MZERO and MWR leave the other tiles alone. -/
def Obligations.TileWords : Prop :=
  (∀ (f : XF) (s : State) (c : Cur) (v : View), Acts (.mzero f) s c v → WholePasses s c v → Placed s c → s.tileHere (gangOf s c) (v.d % 4) = true →
    let tile := tileKey (gangOf s c) (v.d % 4)
    Completes (.mzero f) s c (fun t _ => (t.tileSt tile).flt = false ∧ t.lanes = s.lanes
      ∧ (∀ a ∈ s.mlanes c.slices v.pg, ∀ j, j < 64 → t.el tile a.n j = (0, 0) ∧ t.el tile (a.n + 32) j = (0, 0) ∧ t.elMark tile a.n j = false ∧ t.elMark tile (a.n + 32) j = false)
      ∧ ∀ u i j, u ≠ tile → i < 64 → j < 64 → t.el u i j = s.el u i j))
  ∧ (∀ (f : XF) (s : State) (c : Cur) (v : View), Acts (.mwr f) s c v → WholePasses s c v → Placed s c → s.tileHere (gangOf s c) (v.d % 4) = true →
    let tile := tileKey (gangOf s c) (v.d % 4)
    Completes (.mwr f) s c (fun t _ => (t.tileSt tile).flt = false ∧ t.lanes = s.lanes
      ∧ (∀ a ∈ s.mlanes c.slices v.pg, ∀ k, k < 4 →
        t.el tile a.n (4 * (v.b % 16) + k) = (s.file (laneKey a.sl a.l) (s.regOf a.sl a.l v.a 8 + k), 0) ∧ t.elMark tile a.n (4 * (v.b % 16) + k) = false
          ∧ t.el tile (a.n + 32) (4 * (v.b % 16) + k) = (s.file (laneKey a.sl a.l) (s.regOf a.sl a.l v.a 8 + 4 + k), 0) ∧ t.elMark tile (a.n + 32) (4 * (v.b % 16) + k) = false)
      ∧ ∀ u i j, u ≠ tile → i < 64 → j < 64 → t.el u i j = s.el u i j))
  ∧ (∀ (f : XF) (s : State) (c : Cur) (v : View), Acts (.mrd f) s c v → WholePasses s c v → s.tileHere (gangOf s c) (v.a % 4) = true →
    let tile := tileKey (gangOf s c) (v.a % 4)
    Completes (.mrd f) s c (fun t _ => t.mat = s.mat ∧ ∀ a ∈ s.mlanes c.slices v.pg, ∀ k, k < 4 →
      t.file (laneKey a.sl a.l) (s.regOf a.sl a.l v.d 8 + k) = selEl (v.a / 4 % 4) (s.el tile a.n (4 * (v.b % 16) + k))
        ∧ t.poisoned (laneKey a.sl a.l) (s.regOf a.sl a.l v.d 8 + k) = s.elMark tile a.n (4 * (v.b % 16) + k)
        ∧ t.file (laneKey a.sl a.l) (s.regOf a.sl a.l v.d 8 + 4 + k) = selEl (v.a / 4 % 4) (s.el tile (a.n + 32) (4 * (v.b % 16) + k))
        ∧ t.poisoned (laneKey a.sl a.l) (s.regOf a.sl a.l v.d 8 + 4 + k) = s.elMark tile (a.n + 32) (4 * (v.b % 16) + k)))
  ∧ (∀ (f : RF) (s : State) (c : Cur) (v : View), Acts (.mstat f) s c v → WholePasses s c v → s.tileHere (gangOf s c) (v.b % 4) = true →
    let tile := tileKey (gangOf s c) (v.b % 4)
    Completes (.mstat f) s c (fun t _ => t.mat = s.mat ∧ ∀ a ∈ s.mlanes c.slices v.pg, HoldsR t a.sl a.l (s.regOf a.sl a.l v.d 1) (BitVec.ofNat 32 (2 ^ 31
      + (if (s.mmasOn tile).isEmpty && !(s.mat.drains.any (fun d => decide (d.tile = tile))) then 0 else 2 ^ 30) + (if (s.mmasOn tile).any (fun e => e.2.parked.isSome) then 2 ^ 29 else 0) + (if (s.tileSt tile).flt then 2 ^ 28 else 0)
      + (if s.mat.marks.any (fun e => decide (e.1 / 4096 = tile)) then 2 ^ 27 else 0) + (s.tileSt tile).km * 2 ^ 13 + (s.tileSt tile).row0 * 2 ^ 7 + (s.tileSt tile).wm))))

/-- MDRAIN (R284, R285): on an allocated tile, with its checks and tests passing and every page there, a piece whose row block is final is written at once, to a scratchpad as bytes of memory, elsewhere as a store request with its bytes; the other pieces are requests that wait to be formed, and the drain stays under way with them. The only other bytes that change are the A and D bits of the pages' entries. With CLR the rows of the active lanes become (+0, +0) once every piece is written. -/
def Obligations.DrainWrites : Prop :=
  ∀ (f : XF) (s : State) (c : Cur) (v : View) (tr : Bool) (ts : List (Piece × Target)), Acts (.mdrain f) s c v → WholePasses s c v → s.tileHere (gangOf s c) (v.d % 4) = true →
    s.drainChecks v (s.mlanes c.slices v.pg) (extPay c.ext % 4) (extPay c.ext / 4 % 4) = .ok tr →
    s.gangKey ((s.mlanes c.slices v.pg).headD ⟨0, 0, 0⟩).sl = gangOf s c →
    let d := drainAt s c v tr
    s.drainTest d = .ok ts → missingPages ts = [] →
    Completes (.mdrain f) s c (fun t _ =>
      let ready := fun (e : Piece × Target) => s.pieceReady d e.1.out e.1.row
      let asked := fun (e : Piece × Target) (key : Nat) => ∃ r, Asks s t r ∧ r.kind = .store ∧ r.slice = d.lead ∧ r.key = key ∧ r.size = e.1.len
        ∧ (if ready e then r.state = .queued ∧ (r.data, r.poison) = s.pieceBytes d e.1.out e.1.row e.1.off e.1.len
          else r.state = .forming ∧ r.out = some (d.id, e.1.out, e.1.row, e.1.off))
      t.lanes = s.lanes ∧ Wrote s t (drainWrites s d ts)
      ∧ (∀ e ∈ ts, match e.2 with
        | .page p va => asked e (p.key va)
        | .dsp key => asked e key
        | .scratch key => ready e = false → asked e key
        | _ => True)
      ∧ t.mat.drains = s.mat.drains ++ (if ts.all ready then [] else [{ d with going := true }])
      ∧ (ts.all ready = true → v.d / 4 % 2 = 1 → Placed s c → ∀ a ∈ s.mlanes c.slices v.pg, ∀ j, j < 64 →
        t.el (tileKey (gangOf s c) (v.d % 4)) a.n j = (0, 0) ∧ t.el (tileKey (gangOf s c) (v.d % 4)) (a.n + 32) j = (0, 0)))

/-- MTLD from the scratchpad (R289): with one base and one row distance in all lanes, inside the allocation, no watchpoint met and no uncovered write, lane n's register q holds word n of row q. MFENCE covers every earlier write of its pack for the matrix operations that issue from then on (R272, R286): none of them is remembered any longer, or, while MMAs are outstanding, each is marked as covered. MWAIT and MWM, whose waits are over when they issue, change no register and no tile; an MWAIT issues only when no MMA and no MDRAIN of its lanes is left on the tiles it names, an MWM only when WM has reached its count (R287, R288). -/
def Obligations.MatrixLoadsAndWaits : Prop :=
  (∀ (f : RF) (s : State) (c : Cur) (v : View) (ctl : Word) (base : Nat), Acts (.mtld f) s c v → WholePasses s c v → s.mat.stale = [] →
    let ld := ctl.toNat % 2 ^ 31
    (∀ a ∈ s.mlanes c.slices v.pg, (s.valB v c.ext a.sl a.l).setWidth 32 = ctl ∧ (s.valA v a.sl a.l).toNat % 2 ^ 32 = base ∧ ∃ l, s.mtldTest 1 base ld a = .ok l) →
    (∀ x ∈ c.slices, Unseen s x 1 4 (((s.mlanes c.slices v.pg).filter (fun a => decide (a.sl = x))).flatMap (fun a => (List.range 8).map (fun q => (a.l, mtldAddr 1 base ld a.n q))))) →
    ctl.toNat / 2 ^ 31 = 1 → base % 4 = 0 → ld % 4 = 0 →
    Completes (.mtld f) s c (fun t _ => ∀ a ∈ s.mlanes c.slices v.pg, ∀ q, q < 8 →
      t.file (laneKey a.sl a.l) (s.regOf a.sl a.l v.d 8 + q) = BitVec.ofNat 32 (leNat (s.bytes (scratchKey (packKey a.sl) ((base + q * ld + 4 * a.n) % 2 ^ 32)) 4))))
  ∧ (∀ (f : RF) (s : State) (c : Cur) (v : View), Acts (.mfence f) s c v →
    Completes (.mfence f) s c (fun t sl => t.lanes = s.lanes ∧ t.mem = s.mem
      ∧ (∀ e ∈ t.mat.stale, e.slice / 128 = packKey sl → s.mat.mmas ≠ [] ∧ ∃ o ∈ s.mat.stale, e = { o with covered := some (o.covered.getD s.mat.next) })
      ∧ ∀ o ∈ s.mat.stale, (∀ x ∈ c.slices, packKey x ≠ o.slice / 128) → o ∈ t.mat.stale))
  ∧ (∀ (i : Instr) (s : State) (c : Cur) (v : View), ((∃ f, i = .mwait f) ∨ (∃ f, i = .mwm f)) → Acts i s c v → (∀ x ∈ c.slices, Passes s c v x (s.activeLanes x v.pg)) →
    ((∃ f, i = .mwait f) ∧ v.b / 4 % 2 = 1 ∨ s.tileHere (gangOf s c) (v.b % 4) = true) → Completes i s c (fun t _ => t.lanes = s.lanes ∧ t.mem = s.mem ∧ t.mat = s.mat))
  ∧ (∀ (s : State) (e : Nat) (ms : List Member) (bytes : List Byte) (pages : List (Page × Nat)), s.plan e = .run ms bytes pages →
    let slices := s.byGslot (s.split e).slices
    let sl := slices.headD 0
    ∀ m ∈ ms, s.mlanes slices m.v.pg ≠ [] →
      (m.v.op = 0x35 → m.v.fn = 1 → ∀ k ∈ waitTiles m.v.b,
        (∀ o ∈ s.mmas, o.2.tile = tileKey (s.gangKey sl) k → ∀ x ∈ o.2.slices, x.1 ∉ slices) ∧ ∀ d ∈ s.mat.drains, d.tile = tileKey (s.gangKey sl) k → s.drainIn slices d = false)
      ∧ (m.v.op = 0x35 → m.v.fn = 2 → s.tileHere (s.gangKey sl) (m.v.b % 4) = true →
        let a := (s.mlanes slices m.v.pg).headD ⟨0, 0, 0⟩
        min 64 ((s.valA m.v a.sl a.l).toNat % 2 ^ 32) ≤ (s.tileSt (tileKey (s.gangKey sl) (m.v.b % 4))).wm))

/-- CPY and CPYM (R312, R309): by a whole gang, with the operand tests and the checks of R300 passing and space in the queue (B, or queue 0 in a maintenance launch, whose B is a consumer mask, R311) and a free slot at each core of a CPYM mask, the copy of the leader's descriptor stands at the end of the queue, the queue's count goes up by one, and every active lane receives the token of R301. Without space or a free slot every slice waits at the word and nothing is accepted (R292). -/
def Obligations.CopyAccepted : Prop :=
  ∀ (i : Instr) (sd mask : Nat) (s : State) (c : Cur) (v : View) (a : MLane),
    ((∃ f, i = .cpy f) ∧ sd = extPay c.ext / 4 % 4 ∧ mask = 0 ∨ (∃ f, i = .cpym f) ∧ sd = 2 ∧ mask = extPay c.ext / 2 ^ 8 % 2 ^ 8) → Acts i s c v →
    (s.mlanes c.split v.pg).head? = some a → s.copyOperandTrap v (s.mlanes c.split v.pg) a.sl = none → s.partialGang c = false →
    (s.packOf (c.slices.headD 0)).maint = (s.packOf a.sl).maint → (if (s.packOf a.sl).maint then v.b % 32 ≠ 0 else v.b < 16) →
    let q := if (s.packOf a.sl).maint then 0 else v.b
    let ss := extPay c.ext % 4
    let d := mkDesc (s.descWords v a.sl) ss sd
    let k := queueKey (s.packOf a.sl).core q
    let slots := fun (x : Nat) => Sparse.get 0 s.cpy.slots (slotKey (s.packOf a.sl).core x)
    s.copyChecks a.sl v.op d ss sd mask = none →
    ((s.cqueue k).jobs.length < 32 → (∀ x ∈ maskCores mask, 0 < slots x) →
      Completes i s c (fun t sl => (∀ l ∈ s.activeLanes sl v.pg, HoldsR t sl l (s.regOf sl l v.d v.form.d.regs) (BitVec.ofNat 32 (q * 2 ^ 28 + (s.cqueue k).count % 2 ^ 28)))
        ∧ (t.cqueue k).count = (s.cqueue k).count + 1
        ∧ ∃ j, (t.cqueue k).jobs = (s.cqueue k).jobs ++ [j] ∧ j.d = d ∧ j.ss = ss ∧ j.sd = sd ∧ j.mask = mask ∧ j.pack = packKey a.sl ∧ j.slice = a.sl ∧ j.seq = (s.cqueue k).count % 2 ^ 28 ∧ j.next = 0 ∧ j.stop = none
          ∧ j.consumers = (if (s.packOf a.sl).maint then v.b else 0)))
    ∧ (32 ≤ (s.cqueue k).jobs.length ∨ (∃ x ∈ maskCores mask, slots x = 0) →
      Acted i s c (fun t sl => (t.slice sl).status = .copySpace k mask ∧ (t.slice sl).pc = c.pkt ∧ (t.slice sl).word = c.word ∧ t.cpy = s.cpy))

/-- CPYSTG raises the pack's stage to the least of A and 255, never lowering it; CPYSTG.RET returns A[7:4] slots to the engine of the core at position A[2:0], up to 15 (R313); CPYTST writes the status of each lane's token, and CPYWT, where no token's copy has faulted, changes no register (R314), both raising ck to the time of the copies they observe; CPYQ writes the queue's status and the token of its latest completed copy and clears FLT (R315); CPYCNL, where no lane names an uncompleted copy, writes the status of each token, else marks the named copies of the pack cancelled (R316). -/
def Obligations.CopyWords : Prop :=
  (∀ (f : RF) (s : State) (c : Cur) (v : View) (p : Nat), Acts (.cpystg f) s c v → (∀ x ∈ c.slices, packKey x = p ∧ ∀ l, (s.activeLanes x v.pg).head? = some l → HeadPasses s c v x l) →
    Completes (.cpystg f) s c (fun t _ => (t.pack p).stage = maxOf ((s.pack p).stage :: c.slices.flatMap (fun x => ((s.activeLanes x v.pg).take 1).map (fun l => min ((s.valA v x l).toNat % 2 ^ 32) 255)))))
  ∧ (∀ (f : RF) (s : State) (c : Cur) (v : View), Acts (.cpystgRet f) s c v → (∀ x ∈ c.slices, ∀ l, (s.activeLanes x v.pg).head? = some l → HeadPasses s c v x l ∧ (s.packOf x).cluster ≠ none) →
    let rets := c.slices.flatMap (fun x => ((s.activeLanes x v.pg).take 1).map (fun l =>
      (((s.packOf x).core / 8 * 8 + (s.valA v x l).toNat % 8) * 8 + (s.packOf x).core % 8, (s.valA v x l).toNat / 16 % 16)))
    Completes (.cpystgRet f) s c (fun t _ => ∀ k, Sparse.get 0 t.cpy.slots k = (rets.filter (fun e => decide (e.1 = k))).foldl (fun m e => min (m + e.2) 15) (Sparse.get 0 s.cpy.slots k)))
  ∧ (∀ (f : RF) (s : State) (c : Cur) (v : View), Acts (.cpytst f) s c v → (∀ x ∈ c.slices, Passes s c v x (s.activeLanes x v.pg)) →
    Completes (.cpytst f) s c (fun t sl => ∀ l ∈ s.activeLanes sl v.pg, let x := s.tokenOf (s.coreOf sl) ((s.valA v sl l).toNat % 2 ^ 32)
      HoldsR t sl l (s.regOf sl l v.d v.form.d.regs) (BitVec.ofNat 32 ((if x.psn then 4 else 0) + x.state)) ∧ (x.state ≠ 0 → x.tc ≤ (t.core (s.coreOf sl)).ck)))
  ∧ (∀ (f : RF) (s : State) (c : Cur) (v : View), Acts (.cpywt f) s c v →
    (∀ x ∈ c.slices, Passes s c v x (s.activeLanes x v.pg) ∧ ∀ l ∈ s.activeLanes x v.pg, (s.tokenOf (s.coreOf x) ((s.valA v x l).toNat % 2 ^ 32)).state ≠ 2) →
    Completes (.cpywt f) s c (fun t sl => t.lanes = s.lanes ∧ t.cpy = s.cpy ∧ ∀ l ∈ s.activeLanes sl v.pg, let x := s.tokenOf (s.coreOf sl) ((s.valA v sl l).toNat % 2 ^ 32)
      x.state ≠ 0 → x.tc ≤ (t.core (s.coreOf sl)).ck))
  ∧ (∀ (f : RF) (s : State) (c : Cur) (v : View), Acts (.cpyq f) s c v → (∀ x ∈ c.slices, Passes s c v x (s.activeLanes x v.pg)) →
    let p := s.packOf (c.slices.headD 0)
    let k := queueKey p.core (v.b % 16)
    let q := s.cqueue k
    Completes (.cpyq f) s c (fun t sl => ∀ l ∈ s.activeLanes sl v.pg, (t.cqueue k).flt = false ∧ (t.cqueue k).jobs = q.jobs
      ∧ HoldsR t sl l (s.regOf sl l v.d 2) (BitVec.ofNat 32 ((if p.cluster.isNone then 0 else Sparse.get 0 s.cpy.slots (p.core * 8 + p.core % 8)) * 2 ^ 10 + q.jobs.length * 2 ^ 4
        + (if (q.jobs.head?.map (fun j => j.d.low)).getD false then 8 else 0) + (if q.park then 4 else 0) + (if q.flt then 2 else 0) + (if (q.jobs.head?.map (fun j => !j.flight.isEmpty)).getD false then 1 else 0)))
      ∧ ∀ x xs, q.past = x :: xs → HoldsR t sl l (s.regOf sl l v.d 2 + 1) (BitVec.ofNat 32 (v.b % 16 * 2 ^ 28 + x.seq))))
  ∧ (∀ (f : RF) (s : State) (c : Cur) (v : View), Acts (.cpycnl f) s c v → (∀ x ∈ c.slices, Passes s c v x (s.activeLanes x v.pg)) →
    let core := s.coreOf (c.slices.headD 0)
    let pack := packKey (c.slices.headD 0)
    Completes (.cpycnl f) s c (fun t sl =>
      ((∀ x ∈ c.slices, ∀ l ∈ s.activeLanes x v.pg, s.jobOf core pack (s.tokenIn v x l) = none) → t.cpy = s.cpy ∧ ∀ l ∈ s.activeLanes sl v.pg, let x := s.tokenOf core (s.tokenIn v sl l)
        HoldsR t sl l (s.regOf sl l v.d v.form.d.regs) (BitVec.ofNat 32 ((if x.psn then 4 else 0) + x.state)))
      ∧ ∀ l ∈ s.activeLanes sl v.pg, ∀ j ∈ (t.cqueue (queueKey core (s.tokenIn v sl l / 2 ^ 28 % 16))).jobs, j.pack = pack → j.seq = s.tokenIn v sl l % 2 ^ 28 → j.stop = some (3, 0, 0, 0)))

/-- RPUT, RGET and RRED (R333): by a whole gang, with the operand tests and the checks of R329 passing, an operation of the descriptor's remote address, local address and length joins the pack's operations, nothing of it sent yet, and the capability entry B (while a CAP replaces it, the entry used, R365) is charged its bytes; an operation of length 0 ends at once without effect. -/
def Obligations.BulkAdmitted : Prop :=
  ∀ (i : Instr) (op : Nat) (s : State) (c : Cur) (v : View) (a : MLane),
    ((∃ f, i = .rput f) ∧ op = 0 ∨ (∃ f, i = .rget f) ∧ op = 1 ∨ (∃ f, i = .rred f) ∧ op = 2) → Acts i s c v →
    (s.mlanes c.split v.pg).head? = some a → s.copyOperandTrap v (s.mlanes c.split v.pg) a.sl = none → s.partialGang c = false →
    (∃ as, s.bulkChecks v a.sl op = .ok (.go as none)) →
    let w := fun (k : Nat) => (s.descWords v a.sl).getD k 0
    Completes i s c (fun t _ => t.lanes = s.lanes ∧ t.mem = s.mem
      ∧ (w 4 = 0 → t.fab = s.fab)
      ∧ (w 4 ≠ 0 → Charged s t (packKey a.sl) v.b (w 4)
        ∧ ∃ b, t.fab.bulk = s.fab.bulk ++ [b] ∧ b.id = s.fab.nextBulk ∧ b.op = op ∧ b.remote = w 0 + w 1 * 2 ^ 32 ∧ b.loc = w 2 + w 3 * 2 ^ 32 ∧ b.len = w 4
          ∧ b.pack = packKey a.sl ∧ b.slice = a.sl ∧ b.chan = v.b ∧ b.next = 0 ∧ b.pkts = [] ∧ b.sent = false))

/-- NAME writes the name of the slice's home gang into a pair of every active lane (R335, R338). RSTAT writes the gang's RSTATUS into every active lane and clears it (R346). RRCV arms its registers: one with a parked part receives the oldest at once, the others are held (R344). RSTV, with its tests passing, charges the capability entry its EXT names 128 bytes and has a message with the lanes' values outstanding, which for a gang of this device is on its way there (R345). -/
def Obligations.MessageWords : Prop :=
  (∀ (f : RF) (s : State) (c : Cur) (v : View), Acts (.name f) s c v → (∀ x ∈ c.slices, Passes s c v x (s.activeLanes x v.pg)) →
    Completes (.name f) s c (fun t sl => ∀ l ∈ s.activeLanes sl v.pg,
      let n := s.maps.devid % 2 ^ 12 * 2 ^ 52 + (s.packOf sl).core0 * 2 ^ 44 + (s.packOf sl).slot0 * 2 ^ 40 + (s.slice sl).home * 2 ^ 36 + (s.packOf sl).gen * 2 ^ 12
      HoldsR t sl l (s.regOf sl l v.d 2) (BitVec.ofNat 32 n) ∧ HoldsR t sl l (s.regOf sl l v.d 2 + 1) (BitVec.ofNat 32 (n / 2 ^ 32))))
  ∧ (∀ (f : RF) (s : State) (c : Cur) (v : View), Acts (.rstat f) s c v → (∀ x ∈ c.slices, Passes s c v x (s.activeLanes x v.pg)) →
    Completes (.rstat f) s c (fun t sl => ∀ l ∈ s.activeLanes sl v.pg,
      HoldsR t sl l (s.regOf sl l v.d v.form.d.regs) (s.gang (s.gangKey sl)).rstatus ∧ (t.gang (s.gangKey sl)).rstatus = 0))
  ∧ (∀ (f : RF) (s : State) (c : Cur) (v : View), Acts (.rrcv f) s c v →
    let regs := (List.range (v.b % 8 + 1)).map (fun k => v.d + k)
    let new := fun (sl : Nat) => regs.filter (fun r => !(s.slice sl).holds.any (fun h => decide (h.reg = r)))
    let part := fun (sl r : Nat) => (s.inbox (s.coreOf sl)).find? (fun m => decide (m.slice = sl) && decide (m.reg = r))
    (∀ x ∈ c.slices, s.activeLanes x v.pg ≠ [] → (s.slice x).holds.length + (new x).length ≤ 8) →
    Completes (.rrcv f) s c (fun t sl => s.activeLanes sl v.pg ≠ [] →
      (t.slice sl).holds = (s.slice sl).holds ++ ((new sl).filter (fun r => (part sl r).isNone)).map (fun r => { reg := r, mask := 15 })
        ∧ ∀ r ∈ new sl, ∀ m, part sl r = some m → ∀ l ∈ maskLanes m.mask, t.file (laneKey sl l) r = m.vals.getD l 0 ∧ t.poisoned (laneKey sl l) r = m.psn.getLsbD l))
  ∧ (∀ (f : RF) (s : State) (c : Cur) (v : View) (a : MLane), Acts (.rstv f) s c v →
    (∀ x ∈ c.slices, s.operandTrap { v with form := { v.form with b := .non } } none x (s.activeLanes x v.pg) = none) → (s.mlanes c.slices v.pg).head? = some a →
    s.boundsTrap a.sl v.form.b v.b [a.l] = none → s.psnLanes v.bypass a.sl v.form.b v.b [a.l] = [] →
    let name := (s.fieldVal v.bypass a.sl a.l v.form.b v.b).toNat
    let cap := extPay c.ext % 64
    v.d ≤ 55 → name % 2 ^ 12 = 0 → (s.cap (packKey a.sl) cap).refuses [2] 6 (s.maps.devid / 2 ^ 12) (s.maps.devid / 2 ^ 12) (name / 2 ^ 52 % 2 ^ 12) none (some (name / 2 ^ 44 % 2 ^ 8)) 128 = false →
    Completes (.rstv f) s c (fun t _ => t.lanes = s.lanes ∧ t.mem = s.mem
      ∧ Charged s t (packKey a.sl) cap 128
      ∧ (∃ r, Asks s t r ∧ r.kind = .message ∧ r.slice = a.sl ∧ r.va = name ∧ r.state = .queued ∧ r.data = (s.messageVals v (s.mlanes c.slices v.pg)).2.flatMap (fun w => leBytes 4 w.toNat))
      ∧ (name / 2 ^ 52 % 2 ^ 12 = s.maps.devid % 2 ^ 12 → ∃ m, t.fab.msgs = s.fab.msgs ++ [m] ∧ m.name = BitVec.ofNat 64 name ∧ m.reg = v.d
        ∧ m.mask = (s.messageVals v (s.mlanes c.slices v.pg)).1 ∧ m.vals = (s.messageVals v (s.mlanes c.slices v.pg)).2 ∧ m.tm = some (s.core (s.coreOf a.sl)).ck)
      ∧ (name / 2 ^ 52 % 2 ^ 12 ≠ s.maps.devid % 2 ^ 12 → t.fab.msgs = s.fab.msgs)))

/-- A complete mode 0 meet of a pack's one gang lets all its slices go on after the REGANG in one entry (R57). When the oldest wait at a mode 1 meet has lasted 256 ac and some quadrant can hold a gang, some slice that waited there goes on after the REGANG (R59). The top held set of an entry: held for 4,096 ac it exchanges places with the running split, and before that it moves into a free entry of the quadrant as a split of its own (R54). A split passed over for 4,096 ac is promoted (R66). A SPAWN whose bin has room, and a copy instruction whose queue has space and slots, execute again at their word (R80, R292). A barrier wait whose phase has moved on ends with ck at its Tc (R252, R254), a complete group phase ends the wait of every slice of its packs, which acquire (R255, R256), an AWAIT whose words have all moved on ends with ck at the times behind their raises, AWAIT.T writing 1, and a lapsed AWAIT.T writes 0 in the lanes whose word has not moved on and 1 in the others (R259). -/
def Obligations.SchedulerAndWakes : Prop :=
  (∀ (s : State) (p g m pkt : Nat), s.canon = true → s.slicesOf p ≠ [] →
    (∀ x ∈ s.slicesOf p, (s.slice x).gang = g ∧ (s.slice x).stop = false ∧ (s.slice x).only = none ∧ (s.slice x).gslot < 8 ∧ s.freeEntries (s.quadOf x) ≠ [] ∧ ∃ since, (s.slice x).status = .meet 0 m pkt since) →
    Happens (.meetEntryFree p) s (fun t => (∀ x ∈ s.slicesOf p, (t.slice x).status = .run ∧ (t.slice x).pc = pkt + 12 ∧ (t.slice x).word = 0) ∧ ∃ e, (t.split e).slices = s.byGslot (s.slicesOf p)))
  ∧ (∀ (s : State) (p m pkt : Nat), s.canon = true → (∀ x ∈ s.slicesOf p, ∃ since, (s.slice x).status = .meet 1 m pkt since) →
    (∃ x ∈ s.slicesOf p, ∃ since, (s.slice x).status = .meet 1 m pkt since ∧ since + 256 ≤ s.run.ac) → (∃ i, i < 4 ∧ s.fitOn p ((s.pack p).core * 4 + i) ((s.slicesOf p).take 8) ≠ []) →
    Happens (.partialGangTimer p) s (fun t => ∃ x ∈ s.slicesOf p, (t.slice x).status = .run ∧ (t.slice x).pc = pkt + 12 ∧ (t.slice x).word = 0))
  ∧ (∀ (s : State) (e : Nat) (h : Held) (hs : List Held), s.canon = true → (s.split e).slices ≠ [] → (s.split e).held = h :: hs → h.slices ≠ [] → (∀ x ∈ h.slices, s.inSplit x = true) → (s.places h.slices).length ≤ 1 →
    (∀ e', h.slices.headD 0 ∉ (s.split e').slices) →
    (h.since + 4096 ≤ s.run.ac → Happens (.heldSetExchange e) s (fun t => (t.split e).slices = h.slices ∧ (t.split e).held = { slices := (s.split e).slices, since := s.run.ac } :: hs))
    ∧ (s.run.ac < h.since + 4096 → s.freeEntries (e / 64) ≠ [] → Happens (.heldSetExchange e) s (fun t => (t.split e).slices = (s.split e).slices ∧ (t.split e).held = hs
      ∧ ∃ f ∈ s.freeEntries (e / 64), (t.split f).slices = h.slices ∧ (t.split f).held = [])))
  ∧ (∀ (s : State) (e : Nat), s.canon = true → (s.split e).last + 4096 ≤ s.run.ac → (s.split e).promoted = false → (s.split e).slices ≠ [] →
    Happens (.splitPromotion e) s (fun t => (t.split e).promoted = true ∧ (t.split e).slices = (s.split e).slices))
  ∧ (∀ (s : State) (sl k n : Nat), s.canon = true → (s.slice sl).here = true → (s.slice sl).status = .spawnRoom k n → (s.bin k).recs.length + n ≤ 256 →
    Happens (.spawnRoom sl) s (fun t => GoesOn s t sl))
  ∧ (∀ (s : State) (sl k mask : Nat), s.canon = true → (s.slice sl).here = true → (s.slice sl).status = .copySpace k mask → (s.cqueue k).jobs.length < 32 →
    (∀ x ∈ maskCores mask, 0 < Sparse.get 0 s.cpy.slots (slotKey (s.coreOf sl) x)) →
    Happens (.copyQueueSpace sl) s (fun t => GoesOn s t sl))
  ∧ (∀ (s : State) (sl b ph : Nat), s.canon = true → (s.slice sl).status = .barrier b ph → (s.bar (packKey sl * 16 + b)).phase ≠ ph →
    Happens (.barrierWake sl) s (fun t => GoesOn s t sl ∧ (t.core (s.coreOf sl)).ck = max (s.core (s.coreOf sl)).ck (s.tcOf (packKey sl * 16 + b))))
  ∧ (∀ (s : State) (launch g : Nat), s.canon = true → s.members launch g ≠ [] →
    (∀ p ∈ s.members launch g, ∀ x ∈ s.slicesOf p, (s.slice x).gone = false → (s.slice x).status = .group g (s.groupPhase launch g)) →
    Happens (.groupPhaseComplete launch g) s (fun t => t.groupPhase launch g = s.groupPhase launch g + 1
      ∧ ∀ p ∈ s.members launch g, ∀ x ∈ s.slicesOf p, (s.slice x).gone = false → GoesOn s t x ∧ (s.core (s.coreOf x)).obsv ≤ (t.core (s.coreOf x)).ck))
  ∧ (∀ (s : State) (sl : Nat) (xs : List (Nat × Nat × Nat)) (u : Option Nat) (ds : List (Nat × Nat)), s.canon = true → (s.slice sl).status = .await xs u ds →
    (∀ x ∈ xs, s.dword x.2.1 % 2 ^ 16 ≠ x.2.2) → (∀ d ∈ ds, d.1 < 4 ∧ d.2 < 256) →
    Happens (.awaitWake sl) s (fun t => GoesOn s t sl ∧ (∀ d ∈ ds, HoldsR t sl d.1 d.2 1) ∧ ∀ x ∈ xs, s.tcOf (2 ^ 60 + x.2.1) ≤ (t.core (s.coreOf sl)).ck))
  ∧ (∀ (s : State) (sl u : Nat) (xs : List (Nat × Nat × Nat)) (ds : List (Nat × Nat)), s.canon = true → (s.slice sl).status = .await xs (some u) ds → u ≤ s.run.ac →
    (∃ x ∈ xs, s.dword x.2.1 % 2 ^ 16 = x.2.2) → (∀ d ∈ ds, d.1 < 4 ∧ d.2 < 256) →
    Happens (.awaitTimeout sl) s (fun t => GoesOn s t sl ∧ ∀ d ∈ ds, HoldsR t sl d.1 d.2 (if ∃ x ∈ xs, x.1 = d.1 ∧ s.dword x.2.1 % 2 ^ 16 = x.2.2 then 0 else 1)))

/-- A home that reads serves the bytes of the location with its wts and extends rts to the new lease (R220), and LDFE leaves its words empty (R261); one that writes stores the bytes, or the atomic's new value, gives ws as the new wts and rts and keeps the old bytes for an atomic (R221, R246); returned data reaches the destination registers with its poison and raises OBSV; an acknowledgement raises maxws and brings an atomic's old value; a parked load whose page is there now goes to its home, an instruction that parked as a whole replays and waits no longer (R90, R211). A write-combining buffer sends its stores (R195), a dirty line is clean, and in the SCM array, after its write-back (R197), a clock advances by its due ticks and starts a sweep at the limit, a finished sweep drops the copies that ended below the base (R225), an evicted copy is gone. A migration copies the page to a free frame and writes its entry resident there (R198); a move first sets WPW and later copies the page and writes the entry with the new frame and tier (R199). -/
def Obligations.MemoryAgents : Prop :=
  (∀ (s : State) (id : Nat) (r : Req) (w wts : Nat) (dst : List Nat) (data : List Byte) (psn : Bool), s.canon = true → s.req id = some r → r.state = .served data wts psn → r.kind = .load w dst → r.pipe = false →
    r.lane < 4 → dst.Nodup → (∀ d ∈ dst, d < 256) →
    Happens (.loadDataReturn id) s (fun t => t.req id = none ∧ Loaded t r.slice r.lane dst (loadWords w data) psn ∧ (t.core r.core).obsv = max (s.core r.core).obsv wts))
  ∧ (∀ (s : State) (id : Nat) (r : Req) (w : Nat) (dst : List Nat), s.canon = true → s.req id = some r → r.kind = .load w dst → r.pipe = false → s.turn id r = true →
    Happens (.homeRead id) s (fun t => t.mem.bytes = s.mem.bytes
      ∧ t.req id = some { r with state := .served (s.withHeld id r (s.bytesAs r.key r.size r.keyid)) (if r.key < dspKey then s.wtsOf (lineOf r.key) else 0) (r.poison || s.localPsn r.key r.size) }
      ∧ (r.key < dspKey → Sparse.get 0 t.mem.wts (lineOf r.key) = s.wtsOf (lineOf r.key) ∧ Sparse.get 0 t.mem.rts (lineOf r.key) = s.leaseEnd r.core (lineOf r.key) r.ck)))
  ∧ (∀ (s : State) (id : Nat) (r : Req) (dst : List Nat), s.canon = true → s.req id = some r → r.kind = .ldfe dst → s.turn id r = true → s.allFull r.key r.size = true →
    Happens (.homeRead id) s (fun t => t.req id = some { r with state := .served (s.bytes r.key r.size) 0 (r.poison || s.localPsn r.key r.size) }
      ∧ ∀ i, i < r.size / 4 → Sparse.get false t.mem.full (r.key / 4 + i) = false))
  ∧ (∀ (s : State) (id : Nat) (r : Req) (new : List Byte), s.canon = true → s.req id = some r → s.turn id r = true → s.runOf id r = [(id, r)] →
    (r.kind = .store ∧ new = r.data ∨ ∃ aop aw dst, r.kind = .atom aop aw dst ∧ new = atomBytes aop aw (s.bytesAs r.key r.size r.keyid) r.data r.op2) →
    s.snapKey r.key = false → (dspKey ≤ r.key ∨ s.wsFits (lineOf r.key) (max r.ck (s.rtsOf (lineOf r.key)) + 1) = true) →
    let ws := if r.key < dspKey then max r.ck (s.rtsOf (lineOf r.key) + 1) else 0
    Happens (.homeWrite id) s (fun t => Wrote s t [(r.key, new)]
      ∧ t.req id = some { r with state := .done ws (if r.isAtom then s.bytesAs r.key r.size r.keyid else s.bytes r.key r.size) (s.localPsn r.key r.size), wts := s.wtsOf (lineOf r.key) }
      ∧ (r.key < dspKey → Sparse.get 0 t.mem.wts (lineOf r.key) = ws ∧ Sparse.get 0 t.mem.rts (lineOf r.key) = ws)))
  ∧ (∀ (s : State) (id : Nat) (r : Req) (ws : Nat) (old : List Byte) (psn : Bool), s.canon = true → s.req id = some r → r.state = .done ws old psn → s.ackHeld id = false → r.lane < 4 → r.dsts.Nodup → (∀ d ∈ r.dsts, d < 256) →
    Happens (.storeAck id) s (fun t => t.req id = none ∧ (t.slice r.slice).maxws = max (s.slice r.slice).maxws ws
      ∧ ∀ aop aw dst, r.kind = .atom aop aw dst → dst ≠ [] → Loaded t r.slice r.lane dst (loadWords (if awRegs aw = 2 then 3 else 2) old) psn ∧ r.wts ≤ (t.core r.core).obsv))
  ∧ (∀ (s : State) (id : Nat) (r : Req) (p : Page) (va : Nat), s.canon = true → s.req id = some r → r.state = .parked →
    (∀ w, r.kind = .again w → (∀ x ∈ s.wholeWith r, s.wholeTest (x.2.map (fun e => e.2)) ≠ .ok none) → Happens (.parkedReplay id) s (fun t => t.req id = none))
    ∧ (∀ w dst, r.kind = .load w dst → s.parkedWith r = [(id, r)] → s.translate r.lane r.slice r.va = .ok (.page p va) →
    (r.va < s.lpVa r.slice r.lane 0 ∨ s.lpVa r.slice r.lane (s.packOf r.slice).lpsize ≤ r.va) → s.watchTrapAs r.quiet r.slice 1 (max r.size 1) [(r.lane, r.va)] = none → Happens (.parkedReplay id) s (fun t => ∃ q, t.req id = some q ∧ q.state = .queued ∧ q.key = p.key va ∧ q.keyid = p.keyid ∧ q.ty = p.ty ∧ q.tier = p.tier
      ∧ q.poison = p.poison ∧ q.ck = (s.core r.core).ck ∧ q.slice = r.slice ∧ q.lane = r.lane ∧ q.kind = r.kind ∧ q.size = r.size ∧ q.iid = r.iid)))
  ∧ (∀ (s : State) (core : Nat), s.canon = true →
    Happens (.wcBufferDrain core) s (fun t => ∀ id r, s.req id = some r → t.req id = some (if r.core = core ∧ r.window = false then { r with held := none } else r)))
  ∧ (∀ (s : State) (line : Nat), s.canon = true → Sparse.get false s.mem.dirty line = true →
    Happens (.l2Writeback line) s (fun t => Sparse.get false t.mem.dirty line = false ∧ t.mem.bytes = s.mem.bytes
      ∧ (scmBase ≤ line * 64 → line * 64 < hostBase → ∀ i, i < 64 → Sparse.get 0 t.mem.nv (line * 64 + i) = s.byte (line * 64 + i))))
  ∧ (∀ (s : State) (core : Nat), s.canon = true → 0 < s.ticksDue core →
    Happens (.clockTick core) s (fun t => (t.core core).ck = (s.core core).ck + s.ticksDue core ∧ (t.core core).obsv = (s.core core).obsv
      ∧ ((s.die (dieOfCore core)).sweep = none → (s.die (dieOfCore core)).base + 2 ^ 19 ≤ (s.core core).ck + s.ticksDue core →
        (t.die (dieOfCore core)).base = (s.die (dieOfCore core)).base + 2 ^ 18 ∧ (t.die (dieOfCore core)).sweep = some s.run.ac)))
  ∧ (∀ (s : State) (die since : Nat), s.canon = true → (s.die die).sweep = some since →
    Happens (.sweepComplete die) s (fun t => (t.die die).sweep = none ∧ (t.die die).base = (s.die die).base
      ∧ ∀ core line, core < 160 → dieOfCore core = die → line < 2 ^ 128 → t.copy? core line = (s.copy? core line).filter (fun c => !decide (c.rts < (s.die die).base))))
  ∧ (∀ (s : State) (k : Nat), s.canon = true →
    Happens (.leaseCopyEviction k) s (fun t => ∀ j, Sparse.get none t.coh.copies j = if j = k then none else Sparse.get none s.coh.copies j))
  ∧ (∀ (s : State) (asid va tier f st g : Nat) (p : Page), s.canon = true → s.walk asid va = .ok p → p.res = false → p.tier ≤ 1 → p.level ≤ 2 → Sparse.get none s.maps.handles p.frame = some (tier, f) →
    let n := pageFrames p.level
    let len := 2 ^ pageBits p.level
    s.takeFrame p.tier p.level (stackOrder p.tier (s.faultDie asid (va / len * len) len)) = some (st, g) → keyExists (frameKey tier (f + n - 1)) = true →
    Happens (.migrationComplete asid va) s (fun t => t.bytes p.at_ 8 = leBytes 8 (setBits (setBits (setBits p.e 51 16 g) 1 1 1) 11 10 2)
      ∧ (p.at_ + 8 ≤ frameKey p.tier g ∨ frameKey p.tier g + len ≤ p.at_ → ∀ i, i < len → t.byte (frameKey p.tier g + i) = s.byte (frameKey tier f + i))))
  ∧ (∀ (s : State) (asid va tier stack : Nat) (p : Page), s.canon = true → s.walk asid va = .ok p → p.mayMove tier = true →
    let len := 2 ^ pageBits p.level
    s.snapBusy asid (va / len * len) len = false →
    (s.maps.moves.contains (asid, va, tier, stack) = false → p.wpw = false →
      Happens (.pageMove asid va tier stack) s (fun t => t.maps.moves = (asid, va, tier, stack) :: s.maps.moves ∧ t.bytes p.at_ 8 = leBytes 8 (setBits p.e 9 9 1)))
    ∧ (∀ st g, s.maps.moves.contains (asid, va, tier, stack) = true → s.pageQuiet (frameKey p.tier p.frame) len = true → s.takeFrame tier p.level [stack] = some (st, g) →
      Happens (.pageMove asid va tier stack) s (fun t => t.maps.moves.contains (asid, va, tier, stack) = false ∧ t.bytes p.at_ 8 = leBytes 8 (setBits (setBits (setBits p.e 51 16 g) 3 2 tier) 9 9 0)
        ∧ (p.at_ + 8 ≤ frameKey tier g ∨ frameKey tier g + len ≤ p.at_ → ∀ i, i < len → t.byte (frameKey tier g + i) = s.byte (frameKey p.tier p.frame + i)))))

/-- A free token goes to the engine the arbitration names (R19); an engine with a token begins the first MMA of its queue (R265); a block whose operands are there writes each of its rows' elements as the accumulation of its products from the element before, raises WM to the least unfinished row and ends the MMA after row 63 (R267), one whose operand page is on its way parks the MMA (R275); a resumed MMA stands first in the queue; a suspended one is dropped, FLT is set and its slices take the trap with AFT = 1 at their next group boundary, those that stand at one at once (R276). The engine of a core begins the next chunk of the queue whose turn it is, parks the queue on a page that is not there and ends the copy on a fault (R294, R302); a parked queue goes on; a part is read and later written at its destination with the copy's clock (R293, R221); a copy whose writes are done leaves the queue with its status, arrives at its barrier register or raises its arrival word (R301); a fired schedule entry joins its queue (R307, R308). -/
def Obligations.EngineAgents : Prop :=
  (∀ (s : State) (die q : Nat), s.canon = true → s.idleToken die = none → s.tokenFor die = some q → (s.die die).held < (s.die die).pool →
    Happens (.tokenGrant die) s (fun t => (t.engine q).token = true ∧ (t.engine q).queue = (s.engine q).queue ∧ (t.die die).held = (s.die die).held + 1))
  ∧ (∀ (s : State) (q id : Nat) (ids : List Nat) (m : Mma), s.canon = true → (s.engine q).running = none → (s.engine q).token = true → (s.engine q).queue = id :: ids → s.mma? id = some m →
    (∀ e ∈ s.mmas, e.2.gang = m.gang → e.2.parked = none) → (s.pack (m.gang / 128)).freeze = false →
    Happens (.mmaEngineStart q) s (fun t => (t.engine q).running = some id ∧ (t.engine q).queue = ids ∧ (t.engine q).blockAt = s.run.ac))
  ∧ (∀ (s : State) (q id : Nat) (m : Mma), s.canon = true → (s.engine q).running = some id → s.mma? id = some m → (s.engine q).blockAt + 4 * m.m ≤ s.run.ac → s.drainsBefore id m = false →
    (∀ va, s.blockActs m = .error (.park va) → Happens (.mmaBlockEnd q) s (fun t => t.mma? id = some { m with parked := some va } ∧ (t.engine q).running = none ∧ t.mat.els = s.mat.els))
    ∧ (∀ acts, s.blockActs m = .ok acts →
      let row := m.row / 8 * 8 + 8
      let rest := ((s.mmasOn m.tile).filter (fun e => decide (e.1 ≠ id))).map (fun e => e.2)
      Happens (.mmaBlockEnd q) s (fun t => t.mma? id = (if row < 64 then some { m with row := row } else none)
        ∧ (t.tileSt m.tile).wm = wmOf ((if row < 64 then [{ m with row := row }] else []) ++ rest)
        ∧ (t.engine q).running = (if row < 64 ∧ (s.pack (m.gang / 128)).freeze = false then some id else none)
        ∧ ((∀ d ∈ s.mat.drains, d.tile ≠ m.tile) → ∀ i ∈ m.blockRows, ∀ j, j < 64 → ∀ as bs, allOk ((List.range m.k).map (fun k => s.elemA m i k)) = .ok as → allOk ((List.range m.k).map (fun k => s.elemB m k j)) = .ok bs →
          (as ++ bs).any (fun x => x.changed) = false → t.el m.tile i j = accumulate m.neg (nativeK m.fa m.fb).2 (if m.acc then s.el m.tile i j else (0, 0)) as bs))))
  ∧ (∀ (s : State) (id va : Nat) (m : Mma), s.canon = true → s.mma? id = some m → m.parked = some va → (s.pack (m.gang / 128)).here = true → (∀ a, s.opTarget m 0 va ≠ .error (.park a)) →
    Happens (.mmaResume id) s (fun t => t.mma? id = some { m with parked := none } ∧ (t.engine m.quad).queue = id :: (s.engine m.quad).queue))
  ∧ (∀ (s : State) (id : Nat) (m : Mma) (x : Cause), s.canon = true → s.mma? id = some m → (s.engine m.quad).running = some id → s.blockActs m = .error (.fault x) → (m.slices.map (fun e => e.1)).Nodup →
    (∀ sl ∈ s.suspended m, s.atBoundary sl = true → hmOf (s.slice sl).trapcause = false ∧ (s.packOf sl).handler ≠ 0 ∧ Unwatched s sl) →
    Happens (.mmaSuspend id) s (fun t => t.mma? id = none ∧ (t.tileSt m.tile).flt = true ∧ (t.tileSt m.tile).wm = (s.tileSt m.tile).wm
      ∧ ∀ sl ∈ s.suspended m, if s.atBoundary sl then Handles s t sl x.code x.info (BitVec.ofNat 64 x.addr) (s.slice sl).live true (s.slice sl).pc (s.slice sl).word
        else (t.slice sl).owed = some (s.suspendTrap m x sl) ∧ (t.slice sl).status = (s.slice sl).status ∧ (t.slice sl).pc = (s.slice sl).pc))
  ∧ (∀ (s : State) (core q : Nat) (j : CopyJob) (js : List CopyJob), s.canon = true → q < 16 → s.nextQueue core = some q → (s.cqueue (queueKey core q)).jobs = j :: js →
    Happens (.chunkStart core q) s (fun t => (t.cqueue (queueKey core q)).jobs = (match s.chunkOf j with
        | .parts ps _ => { j with next := j.next + 1, flight := j.flight ++ [(j.next, ps)] } :: js
        | .park => j :: js
        | .fault x => { j with stop := some (2, x.code, x.info, x.addr) } :: js)
      ∧ (s.chunkOf j = .park → (t.cqueue (queueKey core q)).park = true)))
  ∧ (∀ (s : State) (core q : Nat) (j : CopyJob) (js : List CopyJob), s.canon = true → q < 16 → (s.cqueue (queueKey core q)).jobs = j :: js → (s.cqueue (queueKey core q)).park = true → s.chunkOf j ≠ .park →
    Happens (.copyQueueResume core q) s (fun t => (t.cqueue (queueKey core q)).park = false ∧ (t.cqueue (queueKey core q)).jobs = j :: js))
  ∧ (∀ (s : State) (core q n : Nat) (j : CopyJob) (js : List CopyJob) (p : Part) (r : SrcRun), s.canon = true → q < 16 → (s.cqueue (queueKey core q)).jobs = j :: js → j.flight = [(n, [p])] → p.data = none →
    p.src = some r → s.dev.ide = false → s.leaseCopy core (lineOf r.key) = none →
    Happens (.chunkEnd core q) s (fun t => t.mem.bytes = s.mem.bytes
      ∧ (t.cqueue (queueKey core q)).jobs = { j with flight := [(n, [{ p with data := some (s.bytesAs r.key r.len r.keyid, r.psn || s.localPsn r.key r.len) }])] } :: js))
  ∧ (∀ (s : State) (core q n key dk : Nat) (j : CopyJob) (js : List CopyJob) (p : Part) (bs : List Byte) (psn : Bool), s.canon = true → q < 16 → (s.cqueue (queueKey core q)).jobs = j :: js → j.flight = [(n, [p])] →
    p.data = some (bs, psn) → p.dst = [(key, dk)] → p.lapped = [] → p.persist = false → j.mask = 0 → s.dev.ide = false → (dspKey ≤ key ∨ s.snapKey key = false ∧ s.wsFits (lineOf key) (max j.ck (s.rtsOf (lineOf key) + 1)) = true) →
    Happens (.chunkEnd core q) s (fun t => Wrote s t [(key, bs)] ∧ (key < dspKey → Sparse.get 0 t.mem.wts (lineOf key) = max j.ck (s.rtsOf (lineOf key) + 1))
      ∧ (t.cqueue (queueKey core q)).jobs = { j with flight := [], tc := max j.tc (if key < dspKey then max j.ck (s.rtsOf (lineOf key) + 1) else 0), psn := j.psn || psn } :: js))
  ∧ (∀ (s : State) (core q : Nat) (j : CopyJob) (js : List CopyJob), s.canon = true → (s.cqueue (queueKey core q)).jobs = j :: js → j.flight = [] → j.lines = [] → (j.stop ≠ none ∨ j.d.chunks ≤ j.next) → j.d.pord = false → j.consumers / 4 % 2 = 0 → j.mask = 0 →
    (s.pack j.pack).here = true → (∃ x ∈ s.slicesOf j.pack, (s.slice x).gone = false) →
    Happens (.copyComplete core q) s (fun t => (t.cqueue (queueKey core q)).jobs = js
      ∧ (∃ x xs, (t.cqueue (queueKey core q)).past = x :: xs ∧ x.seq = j.seq ∧ x.psn = j.psn ∧ x.tc = j.tc ∧ x.state = (j.stop.map (fun e => e.1)).getD 1)
      ∧ (j.d.kind = 1 → t.bar (j.pack * 16 + j.d.tgt) = (s.bar (j.pack * 16 + j.d.tgt)).arrive ∧ j.tc ≤ t.tcOf (j.pack * 16 + j.d.tgt) ∧ j.tc ≤ (t.core (s.pack j.pack).core).obsv)
      ∧ (∀ key, j.d.kind = 2 → s.arrvKey j.pack j.d.tgt = some key → Wrote s t [(key, leBytes 8 (raiseWord (s.dword key) 1))] ∧ j.tc ≤ t.tcOf (2 ^ 60 + key))))
  ∧ (∀ (s : State) (p i : Nat) (e : SchedEntry), s.canon = true → (s.pack p).sched[i]? = some e → s.refillReady p i = true →
    Happens (.refillAccept p i) s (fun t => (t.pack p).taken = i :: (s.pack p).taken
      ∧ ∃ j, (t.cqueue (queueKey (s.pack p).core e.queue)).jobs = (s.cqueue (queueKey (s.pack p).core e.queue)).jobs ++ [j] ∧ j.d = e.descOf (s.pack p).index ∧ j.pack = p ∧ j.refill = e.refill ∧ j.next = 0))

/-- A remote access waits for its turn and is then answered with the bytes, performed with the fabric clock, or refused with RCODE 0x09 (R324); an answer to an access of this device brings a load's data, or all ones and its RCODE on a refusal (R325, R326); a time that has lapsed, or a dropped packet, gives all ones with RCODE 0x07, or RCODE 0x08 where nothing is returned (R325, R318); a bulk acknowledgement records its RCODE and ends its packet, a get's bytes going on to be written (R330); a message reaches its armed registers or is parked in arrival order, and its sender hears the code (R340); a bulk packet waits for its turn and writes its lines with the fabric clock. A validated speculative window raises ck and sends its held stores, a failed one discards them and goes back to the fence (R229, R230); an OPQ accepts a persist-write (R237), notes a closed epoch (R239) and drains its oldest entry into the SCM array (R241). -/
def Obligations.FabricAndPersistAgents : Prop :=
  (∀ (a : RemoteAccess) (s : State), s.canon = true → (∀ e ∈ s.fab.access, e.1 ≠ a) → Happens (.remoteAccessArrive a) s (fun t => t.fab.access = s.fab.access ++ [(a, none)] ∧ t.mem = s.mem))
  ∧ (∀ (a : RemoteAccess) (s : State), s.canon = true → s.fab.access = [(a, none)] →
    (∀ key id ty psn pe hb acts, a.kind = 0 → s.tenantPlace a.asid a.va false = .at_ key id ty psn pe hb acts →
      Happens (.remoteAccessArrive a) s (fun t => t.fab.access = [] ∧ t.fab.out = { pod := a.pod, device := a.device, tag := a.tag, rcode := 0, data := s.bytesAs key a.size id, psn := psn || s.localPsn key a.size } :: s.fab.out))
    ∧ (∀ x, s.tenantPlace a.asid a.va (decide (a.kind ≠ 0)) = .fault x →
      Happens (.remoteAccessArrive a) s (fun t => t.fab.access = [] ∧ t.fab.out = { pod := a.pod, device := a.device, tag := a.tag, rcode := 9, data := [], psn := false } :: s.fab.out ∧ t.mem = s.mem))
    ∧ (∀ key id ty psn hb acts, a.kind = 1 → s.tenantPlace a.asid a.va true = .at_ key id ty psn false hb acts → s.dev.ide = false → (dspKey ≤ key ∨ s.wsFits (lineOf key) (max s.coh.fck (s.rtsOf (lineOf key) + 1)) = true) →
      Happens (.remoteAccessArrive a) s (fun t => t.bytes key a.size = answered a.size a.data ∧ t.fab.access = [] ∧ t.fab.out = { pod := a.pod, device := a.device, tag := a.tag, rcode := 0, data := [], psn := false } :: s.fab.out
        ∧ (key < dspKey → t.coh.fck = max s.coh.fck (s.rtsOf (lineOf key) + 1) ∧ Sparse.get 0 t.mem.wts (lineOf key) = max s.coh.fck (s.rtsOf (lineOf key) + 1)))))
  ∧ (∀ (s : State) (id rcode : Nat) (data : List Byte) (r : Req), s.canon = true → s.req id = some r → r.tier = 3 → r.state = .queued → s.mayLeave r = true → r.lane < 4 → (∀ d ∈ r.dsts, d < 256) →
    (∀ w dst, r.kind = .load w dst → rcode % 256 = 0 → Happens (.remoteResponse id rcode data) s (fun t => t.req id = some { r with state := .served (answered r.size data) 0 (decide (256 ≤ rcode)) }))
    ∧ (∀ w dst, r.kind = .load w dst → rcode % 256 ≠ 0 → Happens (.remoteResponse id rcode data) s (fun t => t.req id = none ∧ (∀ d ∈ dst, HoldsR t r.slice r.lane d 0xFFFFFFFF#32) ∧ Recorded s t r.slice (rcode % 256)))
    ∧ (r.kind = .store ∨ r.kind = .message → Happens (.remoteResponse id rcode data) s (fun t => t.req id = none ∧ t.lanes = s.lanes ∧ Recorded s t r.slice (rcode % 256))))
  ∧ (∀ (i : Instr) (s : State) (id : Nat) (r : Req), s.canon = true → s.req id = some r → r.tier = 3 → r.state = .queued → r.lane < 4 → (∀ d ∈ r.dsts, d < 256) → (∀ op pkt, r.kind ≠ .bulk op pkt) → r.kind ≠ .message →
    (i = .remoteTimeout id ∧ (∃ u, r.due = some u ∧ u ≤ s.run.time) ∨ i = .dropNotice id) →
    Happens i s (fun t => t.req id = none ∧ (∀ d ∈ r.dsts, HoldsR t r.slice r.lane d 0xFFFFFFFF#32) ∧ Recorded s t r.slice (if r.dsts = [] then 8 else 7)))
  ∧ (∀ (s : State) (op pkt rcode id : Nat) (data : List Byte) (r : Req) (b : BulkOp) (p : BulkPkt), s.canon = true → s.reqs.find? (fun e => decide (e.2.kind = .bulk op pkt)) = some (id, r) → s.bulk? op = some b → b.pkts.find? (fun p => decide (p.no = pkt)) = some p →
    b.fw = none → b.lword = none →
    Happens (.bulkAck op pkt rcode data) s (fun t => t.req id = none ∧ Recorded s t r.slice (rcode % 256)
      ∧ (b.op ≠ 1 → ∀ x ∈ t.fab.bulk, x.id = op → ∀ y ∈ x.pkts, y.no ≠ pkt)
      ∧ (b.op = 1 → rcode % 256 = 0 → ∃ x ∈ t.fab.bulk, x.id = op ∧ ∀ y ∈ x.pkts, y.no = pkt → y.stage = .arrived (answered p.len data) (decide (256 ≤ rcode)))))
  ∧ (∀ (m : Message) (s : State) (p : Nat) (q : Req), s.canon = true → s.fab.msgs.contains m = true → s.messageTurn m = true → s.named m.name = some p → (s.pack p).here = true → s.req m.tag = some q → m.reg < 256 →
    (∃ x ∈ s.slicesOf p, (s.slice x).gone = false ∧ (s.slice x).home = m.name.toNat / 2 ^ 36 % 16) →
    ((∀ x ∈ s.partsFor m p, ∃ h ∈ (s.slice x.slice).holds, h.reg = m.reg) → (s.inbox (s.pack p).core).length ≤ 64 →
      Happens (.messageArrive m) s (fun t => t.req m.tag = none ∧ t.fab.msgs = s.fab.msgs.filter (fun x => decide (x ≠ m)) ∧ (t.gang (s.gangKey q.slice)).rstatus = (s.gang (s.gangKey q.slice)).rstatus
        ∧ ∀ x ∈ s.partsFor m p, (∀ h ∈ (t.slice x.slice).holds, h.reg ≠ m.reg) ∧ ∀ l ∈ maskLanes x.mask, t.file (laneKey x.slice l) m.reg = x.vals.getD l 0 ∧ t.poisoned (laneKey x.slice l) m.reg = x.psn.getLsbD l))
    ∧ ((∀ x ∈ s.partsFor m p, ∀ h ∈ (s.slice x.slice).holds, h.reg ≠ m.reg) → s.partsFor m p ≠ [] → (s.inbox (s.pack p).core).length + (s.partsFor m p).length ≤ 64 →
      Happens (.messageArrive m) s (fun t => t.req m.tag = none ∧ t.lanes = s.lanes ∧ t.fab.inbox = Sparse.set [] s.fab.inbox (s.pack p).core (s.inbox (s.pack p).core ++ s.partsFor m p))))
  ∧ (∀ (p : BulkPacket) (s : State), s.canon = true → (∀ x ∈ s.fab.inbound, x.p ≠ p) → Happens (.bulkPacketArrive p) s (fun t => t.mem = s.mem ∧ ∃ x, t.fab.inbound = s.fab.inbound ++ [x] ∧ x.p = p ∧ x.started = false))
  ∧ (∀ (p : BulkPacket) (s : State) (x : Inbound) (q : Part) (r : SrcRun), s.canon = true → s.fab.inbound = [x] → x.p = p → x.started = true → x.parts = [q] → q.data = none → q.src = some r → q.persist = false → p.op = 0 → s.dev.ide = false → s.lineFits p q = true →
    Happens (.bulkPacketArrive p) s (fun t => Wrote s t [(r.key, (List.range q.len).map (fun i => p.data.getD (q.pos + i) 0))] ∧ ∃ y, t.fab.inbound = [y] ∧ y.parts = []
      ∧ (r.key < dspKey → y.ws = max x.ws (max s.coh.fck (s.rtsOf (lineOf r.key) + 1)))))
  ∧ (∀ (s : State) (g : Nat) (w : SpWin), s.canon = true → Sparse.get none s.ctl.windows g = some w → s.windowReady w = true →
    let core := s.coreOf (w.slices.headD 0)
    Happens (.fenceSpValidate g) s (fun t => Sparse.get none t.ctl.windows g = none ∧ (t.core core).ck = max (s.core core).ck (s.windowTime w)
      ∧ (w.lines.all (s.lineValid core (s.windowTime w)) = true → t.lanes = s.lanes ∧ ∀ id r, s.req id = some r → r.window = true → r.slice ∈ w.slices → t.req id = some { r with window := false, ck := max r.ck (s.windowTime w) })
      ∧ (w.lines.all (s.lineValid core (s.windowTime w)) = false → (∀ id r, s.req id = some r → r.window = true → r.slice ∈ w.slices → t.req id = none)
        ∧ ∀ e ∈ w.wins, (t.slice e.1).pc = w.nextPkt ∧ (t.slice e.1).word = w.nextWord)))
  ∧ (∀ (s : State) (id : Nat) (w : PWrite), Sparse.get none s.opq.transit id = some w → s.acceptReady id = true →
    Happens (.persistAccept id) s (fun t => t.opq.transit = Sparse.set none s.opq.transit id none ∧ t.opq.entries = Sparse.set [] s.opq.entries w.opq (s.opqEntries w.opq ++ [w]) ∧ t.mem = s.mem))
  ∧ (∀ (s : State) (sl e o : Nat), s.noticeReady sl e o = true → Happens (.epochClosedNotice sl e o) s (fun t => t.opq.notices = (sl, e, o) :: s.opq.notices ∧ t.mem = s.mem))
  ∧ (∀ (s : State) (die : Nat) (w : PWrite) (ws : List PWrite), s.canon = true → s.opqEntries die = w :: ws → (w.cells.map (fun c => c.1)).Nodup →
    Happens (.opqDrain die) s (fun t => t.opq.entries = Sparse.set [] s.opq.entries die ws ∧ t.mem.bytes = s.mem.bytes
      ∧ (∀ c ∈ w.cells, Sparse.get 0 t.mem.nv (w.line * 64 + c.1) = c.2) ∧ Sparse.get false t.mem.nvMarks w.line = w.mark))

/-- For every packet row: after an error completion a packet with HOE does not start and its queue halts with that error's CODE (R355); a malformed packet completes with CODE 0x01 and the offset of its first offending field (R354, R356); a well-formed packet whose row answers an error completes with that CODE and DETAIL, and RDIDX passes it. -/
def Obligations.PacketsStart : Prop :=
  ∀ (i : Instr) (s : State) (row : Row) (p : Packet) (as : List Machine.Act), s.canon = true → packetRow i = some (row, p.queue, p.index) → s.startable p.queue p.index = some (p, as) → p.row = row →
    (∀ c, p.hoe = true → (s.queue p.queue).err = some c → Happens i s (fun t => t.queue p.queue = { s.queue p.queue with halted := some c } ∧ t.sun.active = s.sun.active))
    ∧ ((p.hoe && (s.queue p.queue).err.isSome) = false → s.cstReady p.asid p.cst = true →
      (∀ off, p.bad = some off → Happens i s (fun t => Completed s t p 0x01 off))
      ∧ (∀ c d ns, p.bad = none → row.body p s = .error (.code c d ns) → Happens i s (fun t => Completed s t p c d)))

/-- A NOP completes at once (R358). A WAIT completes when its masked word meets its condition, with CODE 0x05 when the word cannot be read, and else stays active with its timeout (R357); when TMO lapses it completes with CODE 0x07. A BARRIER completes when every named queue has completed what it names, and else stays active (R358). A SIGNAL with no address and no notification, with a written word, with an added one, or with a notification slot of another owner (CODE 0x06) completes (R359, R360). A doorbell below the count is ignored, one that overruns the ring halts the queue with CODE 0x01, any other sets the count and may take a free thread (R352); a rotation gives the thread of one queue to another (R353). -/
def Obligations.QueuePackets : Prop :=
  (∀ (s : State) (p : Packet) (as : List Machine.Act), Starts s p as .nop → Happens (.nopPacket p.queue p.index) s (fun t => Completed s t p 0 0))
  ∧ (∀ (s : State) (p : Packet) (as : List Machine.Act), Starts s p as .wait →
    let b := begun s p as
    let tmo := p.num 0x2C 4
    let w : Work := .wait (p.num 0x10 8) (p.num 0x18 8) (p.num 0x20 8) (p.num 0x28 4) (if tmo = 0 then none else some (s.run.time + tmo * usec))
    (∀ bs r, b.sunRead (some p.asid) (p.num 0x10 8) 8 = .ok bs r →
      Happens (.wait p.queue p.index) s (fun t => if waitHolds (leNat bs) (p.num 0x18 8) (p.num 0x20 8) (p.num 0x28 4) then Completed s t p 0 0 else Waiting s t p w))
    ∧ (∀ ns, b.sunRead (some p.asid) (p.num 0x10 8) 8 = .bad ns → Happens (.wait p.queue p.index) s (fun t => Completed s t p 0x05 0x10))
    ∧ (∀ va, b.sunRead (some p.asid) (p.num 0x10 8) 8 = .wait va → Happens (.wait p.queue p.index) s (fun t => Waiting s t p w)))
  ∧ (∀ (s : State) (queue : Nat) (a : Active), s.canon = true → s.sun.active.find? (fun a => decide (a.queue = queue) && s.waitLate a && s.cstReady a.asid a.cst) = some a →
    Happens (.waitTimeout queue) s (fun t => Ended s t (s.queue queue) a 0x07 0))
  ∧ (∀ (s : State) (p : Packet) (as : List Machine.Act) (deps : List (Nat × Nat)), Starts s p as .barrier →
    deps = (List.range 5).filterMap (fun k => let d := p.num (0x10 + 8 * k) 8; if flagOf d 10 then some (d % 2 ^ 10, d / 2 ^ 16) else none) →
    Happens (.barrier p.queue p.index) s (fun t => if s.depsDone deps then Completed s t p 0 0 else Waiting s t p (.barrier deps)))
  ∧ (∀ (i : Instr) (s : State) (p : Packet) (as : List Machine.Act) (add : Bool), Starts s p as (if add then .signalAdd else .signalWrite) →
    i = (if add then .signalAdd p.queue p.index else .signalWrite p.queue p.index) →
    let b := begun s p as
    let addr := p.num 0x10 8
    let note := flagOf (p.num 0x20 4) 1
    (addr = 0 → Happens i s (fun t => if note ∧ b.noteOwner (p.num 0x20 4 / 4 % 2 ^ 12) ≠ p.asid then Completed s t p 0x06 0x20 else Completed s t p 0 0))
    ∧ (∀ old new r0 r w, addr ≠ 0 → note = false → s.sunRead (some p.asid) addr 8 = .ok old r0 → b.sunRead (some p.asid) addr 8 = .ok old r → new = (if add then leNat old + p.num 0x18 8 else p.num 0x18 8) →
      s.sunWrite (some p.asid) addr (leBytes 8 new) = .ok [] w → (b.sunWrite (some p.asid) addr (leBytes 8 new)).waits = false → (∀ ns, b.sunWrite (some p.asid) addr (leBytes 8 new) ≠ .bad ns) →
      Happens i s (fun t => Completed s t p 0 0 ∧ (HostArea s p.asid p.queue addr 8 → p.cst = 0 ∨ p.cst + 8 ≤ addr ∨ addr + 8 ≤ p.cst → HostArea s p.asid p.queue p.cst 8 ∨ p.cst = 0 → t.bytes (hostBase + addr) 8 = leBytes 8 new))))
  ∧ (∀ (s : State) (queue count : Nat), s.canon = true → s.dev.ready = true → (s.queue queue).here = true →
    let x := s.queue queue
    Happens (.doorbell queue count) s (fun t => t.queue queue = if count ≤ x.door then x else if x.done + x.size < count then { x with halted := some 0x01 }
      else { x with door := count, since := if x.rd = x.door then s.run.ac else x.since, idle := if x.rd = x.door then s.run.time else x.idle, mapped := x.mapped || decide (s.threads.length < 32) }))
  ∧ (∀ (s : State) (out into : Nat), s.canon = true → s.rotations.contains (out, into) = true →
    Happens (.queueRotation out into) s (fun t => t.queue into = { s.queue into with mapped := true } ∧ (out ≠ into → (s.queue out).here = true → t.queue out = { s.queue out with mapped := false })))

/-- QREG registers the queue its descriptor describes, or answers status 1; QUNREG frees the number and completes a pending packet that has not started with CODE 0x09; QRESUME clears the halt and the error and lets what PREEMPT stopped go on; PREEMPT asks for a drain or a hard pre-emption of the queue's launches (R350). DBGSTATE writes a stopped slice's area, DBGWRITE puts the RW fields of an area into it, DBGRESUME resumes the stopped slices named with their launch's debug block, each with its failure statuses 9, 10 and 11 (R108). -/
def Obligations.MailboxCommands : Prop :=
  (∀ (s : State) (queue va : Nat), s.canon = true →
    (∀ bs as, s.sunRead (s.descSpace va) va 64 = .ok bs as → queue < 1024 → (s.queue queue).here = false → va % 64 = 0 → descOk bs = true →
      Answers (.qreg queue va) s 0 (fun t => t.queue queue = queueOf bs va (s.descSpace va) (s.queue queue).gen (decide (s.threads.length < 32))))
    ∧ ((∀ bs as, s.sunRead (s.descSpace va) va 64 = .ok bs as → ¬(queue < 1024 ∧ (s.queue queue).here = false ∧ va % 64 = 0 ∧ descOk bs = true)) → Answers (.qreg queue va) s 1 (fun t => t.sun = s.sun ∧ t.mem = s.mem)))
  ∧ (∀ (i : Instr) (s : State) (queue mode : Nat), s.canon = true → (i = .qunreg queue ∨ i = .qresume queue ∨ i = .preempt queue mode) → (s.queue queue).here = false → Answers i s 1 (fun t => t.sun = s.sun ∧ t.mem = s.mem))
  ∧ (∀ (s : State) (queue : Nat), s.canon = true → (s.queue queue).here = true →
    let x := s.queue queue
    let mine := s.launches.filter (fun e => decide (e.2.queue = queue) && decide (e.2.gen = x.gen))
    Answers (.qunreg queue) s 0 (fun t => t.queue queue = { gen := x.gen + 1 }
      ∧ (x.door = x.rd + 1 → s.cstAt x x.rd ≠ 0 → HostArea s x.asid queue (s.cstAt x x.rd) 8 → t.bytes (hostBase + s.cstAt x x.rd) 8 = statusWord 0x09 0))
    ∧ Answers (.qresume queue) s 0 (fun t => t.queue queue = { x with halted := none, err := none } ∧ ∀ e ∈ mine, (t.launch e.1).want = none ∧ ∀ st, (t.launch e.1).stop = some st → st.cmd = false)
    ∧ (∀ mode, mode ≤ 1 → Answers (.preempt queue mode) s 0 (fun t => ∀ e ∈ mine, (t.launch e.1).want = some (decide (mode = 1))))
    ∧ (∀ mode, 1 < mode → Answers (.preempt queue mode) s 1 (fun t => t.sun = s.sun ∧ t.mem = s.mem)))
  ∧ (∀ (i : Instr) (s : State) (queue name va : Nat), s.canon = true → (i = .dbgstate queue name va ∨ i = .dbgwrite queue name va) →
    (s.stoppedAt queue name = none → Answers i s 9 (fun t => t.mem = s.mem ∧ t.lanes = s.lanes))
    ∧ (∀ sl, s.stoppedAt queue name = some sl → va % 64 ≠ 0 → Answers i s 10 (fun t => t.mem = s.mem ∧ t.lanes = s.lanes)))
  ∧ (∀ (s : State) (queue name va sl : Nat), s.canon = true → s.stoppedAt queue name = some sl → va % 64 = 0 →
    let area := s.sunWrite (some (s.queue queue).asid) va (s.dbgBytes sl)
    (∀ as, area = .ok [] as → Answers (.dbgstate queue name va) s 0 (fun t => Wrote s t (as.flatMap actStores) ∧ t.lanes = s.lanes)) ∧ (∀ ns, area = .bad ns → Answers (.dbgstate queue name va) s 10 (fun t => t.mem = s.mem)))
  ∧ (∀ (s : State) (queue name va sl : Nat), s.canon = true → s.stoppedAt queue name = some sl → va % 64 = 0 → (s.packOf sl).regs ≤ 256 →
    let area := s.sunRead (some (s.queue queue).asid) va dbgLen
    (∀ bs as, area = .ok bs as → s.dbgLegal sl bs = true → Answers (.dbgwrite queue name va) s 0 (fun t =>
      (∀ l < 4, ∀ k < (s.packOf sl).regs, t.file (laneKey sl l) k = BitVec.ofNat 32 (numAt bs (1024 * l + 4 * k) 4) ∧ t.poisoned (laneKey sl l) k = flagOf (numAt bs (0x1100 + 32 * l + k / 8) 1) (k % 8))
      ∧ (∀ l < 4, ∀ k < 8, t.idxOf (laneKey sl l) k = BitVec.ofNat 16 (numAt bs (0x1000 + 16 * l + 2 * k) 2) &&& 0xC0FF#16)
      ∧ (t.slice sl).sptop = numAt bs (0x1050 + 4 * 23) 4 / 8 * 8 ∧ (t.slice sl).splim = numAt bs (0x1050 + 4 * 24) 4 / 8 * 8 ∧ (t.slice sl).pc = (s.slice sl).pc))
    ∧ (∀ bs as, area = .ok bs as → s.dbgLegal sl bs = false → Answers (.dbgwrite queue name va) s 11 (fun t => t.lanes = s.lanes))
    ∧ (∀ ns, area = .bad ns → Answers (.dbgwrite queue name va) s 10 (fun t => t.lanes = s.lanes)))
  ∧ (∀ (s : State) (queue name : Nat) (sls : List Nat), s.canon = true → sls = (if name = 0 then s.stoppedOf queue else (s.stoppedAt queue name).toList) →
    (sls = [] → Answers (.dbgresume queue name) s 9 (fun t => t.ctl = s.ctl))
    ∧ (sls ≠ [] → (∀ sl ∈ sls, ∃ bs as d, s.sunRead (some (s.launch (s.packOf sl).launch).asid) (s.launch (s.packOf sl).launch).debugAt 80 = .ok bs as ∧ debugOf bs (s.launch (s.packOf sl).launch).debugAt = some d) →
      Answers (.dbgresume queue name) s 0 (fun t => ∀ sl ∈ sls, (t.slice sl).stop = false ∧ (t.slice sl).suppress = (s.slice sl).matched ∧ (t.slice sl).pc = (s.slice sl).pc ∧ sl ∉ t.sun.told)))

/-- A launch whose record passes its checks takes its number and stays active until it completes; without packs to dispatch it has started at once (R370). SEAL stores the graph as its next version and completes (R375); GRAPH LAUNCH begins an instance of a stored version with blocks for its bins, and completes with CODE 0x08 when the version is not stored (R376). Dispatch puts each pack of the plan on its core with its index and coordinates, and with the first one RDIDX passes the packet (R371, R372, R355); gangs that the bins have due go first, and a bin's timer launches one, deeper nodes' bins first (R77, R80). A complete launch leaves the device and its packet completes: with CODE 0, with CODE 0x04 and the core after a fatal trap, or with CODE 0x0B and the pack's index after a bad digest (R373). -/
def Obligations.LaunchesAndGraphs : Prop :=
  (∀ (s : State) (p : Packet) (as rs : List Machine.Act) (l : Launch), Starts s p as .launch → (∃ acts, launchBody p s = .ok acts) → (s.actAll as).sdLaunch p (p.num 0x10 8) 0x10 none [] = .ok (l, rs) →
    let no := s.launchNo p.asid l.record
    Happens (.launch p.queue p.index) s (fun t => t.sun.launches = Sparse.set {} s.sun.launches no l ∧ p.active (.launch no) ∈ t.sun.active ∧ no < t.sun.nextLaunch ∧ t.queue p.queue = if l.total ≤ l.next then started s p else s.queue p.queue))
  ∧ (∀ (s : State) (p : Packet) (as : List Machine.Act), Starts s p as .graphSeal → (∃ acts, sealBody p s = .ok acts) → (∃ acts, sealBody p (begun s p as) = .ok acts) →
    let ver := Sparse.get 0 s.sun.seals (sealKey p.asid (p.num 0x18 8)) + 1
    Happens (.graphSeal p.queue p.index) s (fun t => Completed s t p 0 0 ∧ Sparse.get 0 t.sun.seals (sealKey p.asid (p.num 0x18 8)) = ver
      ∧ ∃ g, g.asid = p.asid ∧ g.va = p.num 0x18 8 ∧ g.version = ver ∧ g ∈ t.sun.graphs ∧ (s.sun.graphs.length < 256 → t.sun.graphs = s.sun.graphs ++ [g])))
  ∧ (∀ (s : State) (p : Packet) (as rs : List Machine.Act) (g : Graph) (l : Launch) (bs : List (List Nat)), Starts s p as .graphLaunch →
    s.sun.graphs.find? (fun g => decide (g.asid = p.asid) && decide (g.va = p.num 0x18 8) && decide (g.version = p.num 0x20 8)) = some g →
    (∃ acts, graphBody p s = .ok acts) → (s.actAll as).sdLaunch p (p.num 0x28 8) 0x28 (some g) [] = .ok (l, rs) → (List.range 4).mapM (s.binBlocks g) = some bs →
    let no := s.launchNo p.asid l.record
    Happens (.graphLaunch p.queue p.index) s (fun t => t.sun.launches = Sparse.set {} s.sun.launches no { l with blocks := bs.flatten } ∧ p.active (.launch no) ∈ t.sun.active ∧ ∀ x ∈ bs.flatten, Sparse.get 0 t.maps.blocks x = 1))
  ∧ (∀ (s : State) (p : Packet) (as : List Machine.Act), Starts s p as .graphLaunch →
    (∀ g ∈ s.sun.graphs, ¬(g.asid = p.asid ∧ g.va = p.num 0x18 8 ∧ g.version = p.num 0x20 8)) → Happens (.graphLaunch p.queue p.index) s (fun t => Completed s t p 0x08 (p.num 0x20 8)))
  ∧ (∀ (s : State) (k c : Nat) (g : Graph) (n : Node), s.canon = true → s.binLate k = true → s.binFirst k = true → s.binNode k = some (g, n) →
    ((List.range 160).filter (s.binFits k))[s.pick 0 ((List.range 160).filter (s.binFits k)).length]? = some c → Happens (.binTimer k) s (fun t => GangLaunched s t k c n))
  ∧ (∀ (s : State) (no core k : Nat) (g : Graph) (n : Node), s.canon = true → (s.dueBins no).find? (fun k => s.binFits k core) = some k → s.binNode k = some (g, n) →
    Happens (.packDispatch no core) s (fun t => GangLaunched s t k core n))
  ∧ (∀ (s : State) (no core : Nat) (ps : List (Nat × Nat)), s.canon = true → (∀ k ∈ s.dueBins no, s.binFits k core = false) → s.dispatchPlan no core = some ps →
    let l := s.launch no
    let x := s.queue l.queue
    Happens (.packDispatch no core) s (fun t => t.launch no = { l.took (ps.map (fun e => e.1)) with stop := none }
      ∧ (x.here = true → x.gen = l.gen → x.rd = l.index → t.queue l.queue = { x with rd := l.index + 1, since := s.run.ac })
      ∧ ∀ j < ps.length, let e := ps.getD j (0, 0); let k := t.pack (s.ctl.nextPack + j)
        k.here = true ∧ k.core = e.2 ∧ k.launch = no ∧ k.index = e.1 ∧ k.entry = l.entry ∧ k.px = BitVec.ofNat 32 (e.1 % l.gx) ∧ k.py = BitVec.ofNat 32 (e.1 / l.gx % l.gy) ∧ k.pz = BitVec.ofNat 32 (e.1 / (l.gx * l.gy))))
  ∧ (∀ (s : State) (no : Nat), s.canon = true → s.launchOver no = true →
    (∀ a, s.sun.active.find? (fun a => decide (a.work = .launch no)) = some a → s.cstReady a.asid a.cst = true →
      Happens (.launchComplete no) s (fun t => t.sun.launches = Sparse.set {} s.sun.launches no {} ∧ (∀ e ∈ s.packsOf no, (t.pack e.1).here = false ∧ (t.pack e.1).saved = false)
        ∧ match s.fatalOf no, (s.launch no).broken with
          | some sl, _ => Ended s t (s.queue a.queue) a 0x04 (s.coreOf sl)
          | none, some i => Ended s t (s.queue a.queue) a 0x0B i
          | none, none => Ended s t (s.queue a.queue) a 0 0))
    ∧ ((∀ a ∈ s.sun.active, a.work ≠ .launch no) → Happens (.launchComplete no) s (fun t => t.sun.launches = Sparse.set {} s.sun.launches no {})))

/-- A drain stops a launch's dispatch, a command being remembered (R378); a hard pre-emption stops it and freezes its resident packs, and once they are still and the save area is there it saves every one of them (R379). A restored pack stands on its core, slot and partner cores again and its launch is no longer stopped; a section that fails its digest breaks the launch off (R381). A thread that wakes completes a WAIT whose condition holds, a BARRIER, a translation change that no access uses any more (R236) and a PERSIST that is done (R366); a STEP freezes one die after another, then gives the queue its step number and completes (R388). -/
def Obligations.PreemptionAndThreads : Prop :=
  (∀ (s : State) (no : Nat), s.canon = true → s.drainDue no = true →
    let l := s.launch no
    Happens (.drainPreemption no) s (fun t => t.launch no = if l.hard then { l with want := none } else { l with want := none, stop := some { hard := false, cmd := decide (l.want = some false) } }))
  ∧ (∀ (s : State) (no : Nat), s.canon = true → s.hardDue no = true →
    let l := s.launch no
    Happens (.hardPreemption no) s (fun t => t.launch no = { l with want := none, stop := some { hard := true, cmd := decide (l.want = some true) } } ∧ ∀ e ∈ s.packsOf no, e.2.here = true → (t.pack e.1).freeze = true))
  ∧ (∀ (s : State) (no : Nat), s.canon = true → s.hardDue no = false → s.saveDue no = true →
    Happens (.hardPreemption no) s (fun t => ∀ e ∈ s.packsOf no, e.2.here = true → (t.pack e.1).here = false ∧ (t.pack e.1).saved = true ∧ (t.pack e.1).freeze = false ∧ (t.pack e.1).index = e.2.index))
  ∧ (∀ (s : State) (p core slot : Nat) (ps : List (Nat × Nat)), s.canon = true → s.restoreNow p core slot = some ps → (ps.map (fun e => e.1)).Nodup →
    let no := (s.pack p).launch
    ((∀ e ∈ ps, s.sectionGood e.1 = some true) → Happens (.packRestore p core slot) s (fun t => (t.launch no).stop = none
      ∧ ∀ e ∈ ps, (t.pack e.1).here = true ∧ (t.pack e.1).saved = false ∧ (t.pack e.1).core = e.2 ∧ (e.1 = p → (t.pack e.1).slot = slot)))
    ∧ (∀ e, (∀ e ∈ ps, s.sectionGood e.1 ≠ none) → ps.find? (fun e => s.sectionGood e.1 = some false) = some e →
      Happens (.packRestore p core slot) s (fun t => t.launch no = { s.launch no with broken := some (s.pack e.1).index } ∧ t.ctl.packs = s.ctl.packs)))
  ∧ (∀ (s : State) (queue : Nat) (a : Active) (rest : List Active), s.canon = true → s.sun.active.filter (fun a => decide (a.queue = queue)) = a :: rest → s.cstReady a.asid a.cst = true →
    (((∃ addr value mask cond u bs r, a.work = .wait addr value mask cond u ∧ s.sunRead (some a.asid) addr 8 = .ok bs r ∧ waitHolds (leNat bs) value mask cond = true)
        ∨ (∃ deps, a.work = .barrier deps ∧ s.depsDone deps = true) ∨ (∃ va len, a.work = .drain va len ∧ s.rangeQuiet a.asid va len = true) ∨ (∃ u, a.work = .persist u ∧ s.persistDone queue u = true)) →
      Happens (.sundeshThreadWake queue) s (fun t => Ended s t (s.queue queue) a 0 0))
    ∧ (∀ n job d, a.work = .step n job (some d) → if d < 4
      then Happens (.sundeshThreadWake queue) s (fun t => { a with work := .step n job (some (d + 1)) } ∈ t.sun.active ∧ t.sett.regions = s.sett.regions)
      else Happens (.sundeshThreadWake queue) s (fun t => Ended s t (s.queue queue) a 0 0 ∧ t.stepOf queue = n % 2 ^ 32)))

/-- MAP ROOT installs a root and MAP SYNC a removal of translations, both active until the old translations are out of use (R361, R236). DSPALLOC takes free blocks for its launch, or completes with CODE 0x0A; DSPFREE frees those its launches hold (R187). MIGREG registers a handle (R198), MCGROUP defines and MCFREE removes a multicast group (R321). UNMAP clears V in every leaf entry of its range and stays active until no access uses them (R362). BIAS starts, and one region after another parks new accesses, then, with nothing under way there, flips its bias; after the last it completes (R203, R363). CAP offers the new entries beside the old and, when it completes, has replaced them in the table of a running launch; without one it does nothing (R364, R365). PERSIST stays active until the persist-writes made before it are accepted (R366). -/
def Obligations.MappingPackets : Prop :=
  (∀ (s : State) (p : Packet) (as : List Machine.Act), Starts s p as .mapRoot →
    Happens (.mapRoot p.queue p.index) s (fun t => Waiting s t p (.drain 0 (2 ^ 57)) ∧ Sparse.get none t.maps.roots p.asid = some (p.num 0x18 8) ∧ ∀ a, a ≠ p.asid → Sparse.get none t.maps.roots a = Sparse.get none s.maps.roots a))
  ∧ (∀ (s : State) (p : Packet) (as : List Machine.Act), Starts s p as .mapSync →
    Happens (.mapSync p.queue p.index) s (fun t => Waiting s t p (.drain (p.num 0x18 8) (p.num 0x20 8)) ∧ t.maps.roots = s.maps.roots))
  ∧ (∀ (s : State) (p : Packet) (as : List Machine.Act), Starts s p as .dspalloc → p.overrun = false →
    Happens (.dspalloc p.queue p.index) s (fun t => if p.blocks.any (fun b => decide (Sparse.get 0 s.maps.blocks b ≠ 0)) then Completed s t p 0x0A 0 ∧ t.maps.blocks = s.maps.blocks
      else Completed s t p 0 0 ∧ ∀ b, Sparse.get 0 t.maps.blocks b = if b ∈ p.blocks then s.allocNo p.asid (p.num 0x18 8) + 2 else Sparse.get 0 s.maps.blocks b))
  ∧ (∀ (s : State) (p : Packet) (as : List Machine.Act), Starts s p as .dspfree → p.overrun = false →
    let nos := (s.sun.names.filter (fun e => decide (e.2.1 = p.asid) && decide (e.2.2.1 = p.num 0x18 8))).map (fun e => e.1 + 2)
    Happens (.dspfree p.queue p.index) s (fun t => Completed s t p 0 0 ∧ t.maps.blocks = (p.blocks.filter (fun b => nos.contains (Sparse.get 0 s.maps.blocks b))).foldl (fun m b => Sparse.set 0 m b 0) s.maps.blocks))
  ∧ (∀ (s : State) (p : Packet) (as : List Machine.Act), Starts s p as .migreg → p.num 0x20 8 % 4 ≠ 3 →
    let h := p.num 0x18 8
    Happens (.migreg p.queue p.index) s (fun t => if Sparse.get none s.maps.handles h = none ∧ Config.migrationRoom ≤ s.maps.handles.length then Completed s t p 0x0A 0 ∧ t.maps.handles = s.maps.handles
      else Completed s t p 0 0 ∧ Sparse.get none t.maps.handles h = some (p.num 0x20 8 % 4, bitsOf (p.num 0x20 8) 51 16)))
  ∧ (∀ (s : State) (p : Packet) (as r0 r : List Machine.Act) (bs : List Byte), Starts s p as .mcgroup → p.group ≠ 0xFFF → s.groupTaken p = false →
    (Sparse.get none s.fab.groups p.group ≠ none ∨ s.fab.groups.length < 1024) →
    s.sunRead (some p.asid) (p.num 0x18 8) (2 * (bitsOf (p.num 0x20 8) 27 16 + 1)) = .ok bs r0 → (begun s p as).sunRead (some p.asid) (p.num 0x18 8) (2 * (bitsOf (p.num 0x20 8) 27 16 + 1)) = .ok bs r →
    Happens (.mcgroup p.queue p.index) s (fun t => Completed s t p 0 0 ∧ Sparse.get none t.fab.groups p.group = some (p.asid, (entriesOf 2 bs).map leNat)))
  ∧ (∀ (s : State) (p : Packet) (as : List Machine.Act), Starts s p as .mcfree → p.group ≠ 0xFFF →
    Happens (.mcfree p.queue p.index) s (fun t => if s.groupTaken p then Completed s t p 0x06 0x20 ∧ t.fab.groups = s.fab.groups else Completed s t p 0 0 ∧ t.fab.groups = Sparse.set none s.fab.groups p.group none))
  ∧ (∀ (s : State) (p : Packet) (as : List Machine.Act), Starts s p as .unmap →
    let b := begun s p as
    let va := p.num 0x10 8
    let len := p.num 0x18 8
    s.cutsLeaf p.asid va len = none → b.cutsLeaf p.asid va len = none →
    Happens (.unmap p.queue p.index) s (fun t => Waiting s t p (.drain va len) ∧ Wrote b t ((b.leavesIn p.asid va len).map (fun x => (x.2.at_, leBytes 8 (x.2.e - 1))))))
  ∧ (∀ (s : State) (p : Packet) (as : List Machine.Act) (xs : List (Nat × Page)), Starts s p as .bias →
    let n := p.num 0x18 8
    let va := p.num 0x10 8 / 2 ^ 21 * 2 ^ 21
    1 ≤ n → n ≤ 4096 → s.biasPages p.asid va (n * 2 ^ 21) ≠ none → (begun s p as).biasPages p.asid va (n * 2 ^ 21) = some xs →
    Happens (.bias p.queue p.index) s (fun t => Waiting s t p (.bias va (va + n * 2 ^ 21) (flagOf (p.num 0x20 8) 0)) ∧ t.maps.hostBias = s.maps.hostBias ∧ t.maps.flips = s.maps.flips))
  ∧ (∀ (s : State) (queue va stop : Nat) (hb : Bool) (a : Active) (rest : List Active), s.canon = true → s.sun.active.filter (fun a => decide (a.queue = queue)) = a :: rest → s.cstReady a.asid a.cst = true → a.work = .bias va stop hb →
    let u := s.biasUnit a.asid va
    let rs := regionsOf u.2
    (stop ≤ va → Happens (.sundeshThreadWake queue) s (fun t => Ended s t (s.queue queue) a 0 0))
    ∧ (va < stop → (∀ x ∈ u.2, x.2.res = true ∧ x.2.tier = 0) → (∃ r ∈ rs, r ∉ s.maps.flips) → Happens (.sundeshThreadWake queue) s (fun t => (∀ r ∈ rs, r ∈ t.maps.flips) ∧ t.maps.hostBias = s.maps.hostBias ∧ t.mem = s.mem ∧ t.sun.active = s.sun.active))
    ∧ (va < stop → (∀ x ∈ u.2, x.2.res = true ∧ x.2.tier = 0) → (∀ r ∈ rs, r ∈ s.maps.flips) → (∀ x ∈ u.2, s.pageQuiet x.2.span.1 x.2.span.2 = true) →
      Happens (.sundeshThreadWake queue) s (fun t => { a with work := .bias u.1 stop hb } ∈ t.sun.active ∧ t.maps.hostBias = rs.foldl (fun m r => Sparse.set false m r hb) s.maps.hostBias ∧ (∀ r ∈ rs, r ∉ t.maps.flips)
        ∧ ∀ x, u.2 = [x] → t.bytes x.2.at_ 8 = leBytes 8 (setBits x.2.e 12 12 (bit hb)))))
  ∧ (∀ (s : State) (p : Packet) (as : List Machine.Act), Starts s p as .cap →
    let first := p.num 0x18 4
    let n := p.num 0x1C 4
    first < 64 → 1 ≤ n → n ≤ 64 - first →
    (s.runningLaunch p.asid (p.num 0x10 8) = none → Happens (.cap p.queue p.index) s (fun t => Completed s t p 0 0 ∧ t.fab.caps = s.fab.caps))
    ∧ (∀ no bs r0 r, s.runningLaunch p.asid (p.num 0x10 8) = some no → s.sunRead (some p.asid) (p.num 0x20 8) (32 * n) = .ok bs r0 → (begun s p as).sunRead (some p.asid) (p.num 0x20 8) (32 * n) = .ok bs r →
      bs.length = 32 * n → (∀ e ∈ (entriesOf 32 bs).map capOf, e.legal = true) →
      Happens (.cap p.queue p.index) s (fun t => Waiting s t p (.caps no first ((entriesOf 32 bs).map capOf)) ∧ t.fab.caps = s.fab.caps
        ∧ ∀ e ∈ s.packsOf no, ∀ i < n, Sparse.get none t.fab.fresh (e.1 * 64 + first + i) = ((entriesOf 32 bs).map capOf)[i]?)))
  ∧ (∀ (s : State) (queue no first : Nat) (es : List CapEntry) (a : Active) (rest : List Active), s.canon = true → s.sun.active.filter (fun a => decide (a.queue = queue)) = a :: rest → s.cstReady a.asid a.cst = true →
    a.work = .caps no first es → first + es.length ≤ 64 →
    Happens (.sundeshThreadWake queue) s (fun t => Ended s t (s.queue queue) a 0 0 ∧ (t.launch no).caps = putFrom (s.launch no).caps {} first es
      ∧ ∀ e ∈ s.packsOf no, ∀ i < es.length, Sparse.get {} t.fab.caps (e.1 * 64 + first + i) = (Sparse.get none s.fab.fresh (e.1 * 64 + first + i)).getD (es.getD i {}) ∧ Sparse.get none t.fab.fresh (e.1 * 64 + first + i) = none))
  ∧ (∀ (s : State) (p : Packet) (as : List Machine.Act), Starts s p as .persist →
    let va := p.num 0x10 8
    let ok := fun (s : State) => va = 0 ∨ (p.num 0x18 8 ≤ coveredBytes va (p.num 0x18 8) (s.leavesIn p.asid va (p.num 0x18 8)) ∧ ∀ x ∈ s.leavesIn p.asid va (p.num 0x18 8), leafOk x.2.e x.2.level = true)
    ok s → ok (begun s p as) → Happens (.persist p.queue p.index) s (fun t => Waiting s t p (.persist (begun s p as).opq.next)))

/-- FWSTAGE writes an image into the inactive slot with status 0 or 2 as its signature checks out, and refuses the active slot with 1 and an activation in progress with 5 (R383). FWACT refuses another measurement with 3, waits while a save is under way, and else starts the staged slot, or answers 4 or 6 and keeps the old one (R384); without a heartbeat the old slot is back with status 7 (R385). ATTEST completes once its record is written (R387). Each SPDM request is answered with the contents R424 gives it, or refused; KEYSET fills an empty slot inside a session only, and KEYREVOKE empties one when no registered queue maps its KEYID, and else waits (R421). -/
def Obligations.FirmwareAndSpdm : Prop :=
  (∀ (s : State) (slot va : Nat), s.canon = true →
    (s.dev.activating = true → Answers (.fwstage slot va) s 5 (fun t => t.dev.images = s.dev.images))
    ∧ (s.dev.activating = false → slot ≠ 1 - s.dev.fw → Answers (.fwstage slot va) s 1 (fun t => t.dev.images = s.dev.images))
    ∧ (∀ h r bs as, s.dev.activating = false → slot = 1 - s.dev.fw → s.sunRead none va 32 = .ok h r → 128 ≤ numAt h 8 8 → s.sunRead none va (numAt h 8 8) = .ok bs as →
      Answers (.fwstage slot va) s (if Config.imageSigned bs then 0 else 2) (fun t => t.dev.images = Sparse.set [] s.dev.images slot bs ∧ t.dev.staged = Config.imageSigned bs ∧ t.dev.fw = s.dev.fw)))
  ∧ (∀ (s : State) (expected : Nat), s.dev.act = none → s.dev.heart = none → s.dev.ready = true →
    let good := expected = 0 ∨ expected = (Config.sha384 (s.image (1 - s.dev.fw))).toNat
    (s.dev.staged = false → Happens (.fwact expected) s (fun t => t.dev = { s.dev with mbstat := 1 }))
    ∧ (s.dev.staged = true → ¬good → Happens (.fwact expected) s (fun t => t.dev = { s.dev with mbstat := 3 }))
    ∧ (s.dev.staged = true → good → s.saving = true → Happens (.fwact expected) s (fun t => t.dev = { s.dev with act := some expected, mbstat := 2 ^ 31 }))
    ∧ (s.dev.staged = true → good → s.saving = false → Happens (.fwact expected) s (fun t => match s.actFault with
      | some st => t.dev = { s.dev with mbstat := st }
      | none => t.dev.fw = 1 - s.dev.fw ∧ t.dev.staged = false ∧ (t.dev.mbstat = 0 ∧ t.dev.heart = none ∨ t.dev.mbstat = 2 ^ 31 ∧ t.dev.heart = some (s.dev.fw, s.run.time + 20000 * usec)))))
  ∧ (∀ (s : State) (old due : Nat), s.dev.heart = some (old, due) → due ≤ s.run.time → s.dev.ready = true →
    Happens .heartbeatTimeout s (fun t => t.dev = { s.dev with fw := old, heart := none, staged := true, mbstat := 7 }))
  ∧ (∀ (s : State) (p : Packet) (as r0 r : List Machine.Act), Starts s p as .attest →
    let b := begun s p as
    let j := Sparse.get {} s.sun.jobs (p.num 0x10 8)
    let record := fun (s : State) => let x := s.attestBytes p.asid (p.num 0x10 8) ((p.raw.drop 0x20).take 16) (Sparse.get {} s.sun.jobs (p.num 0x10 8)); x ++ leBytes 96 (Config.sign x).toNat
    (j.first = 0 → Happens (.attest p.queue p.index) s (fun t => Completed s t p 0x03 0x10))
    ∧ (j.first ≠ 0 → j.asid ≠ p.asid → Happens (.attest p.queue p.index) s (fun t => Completed s t p 0x06 0x10))
    ∧ (j.first ≠ 0 → j.asid = p.asid → j.full = true → Happens (.attest p.queue p.index) s (fun t => Completed s t p 0x0A 0))
    ∧ (j.first ≠ 0 → j.asid = p.asid → j.full = false → (Sparse.get {} b.sun.jobs (p.num 0x10 8)).full = false →
      s.sunWrite (some p.asid) (p.num 0x18 8) (record s) = .ok [] r0 → b.sunWrite (some p.asid) (p.num 0x18 8) (record b) = .ok [] r →
      Happens (.attest p.queue p.index) s (fun t => Completed s t p 0 0 ∧ (HostArea s p.asid p.queue (p.num 0x18 8) (record b).length → p.cst = 0 → t.bytes (hostBase + p.num 0x18 8) (record b).length = record b))))
  ∧ (∀ (s : State) (nonce slot index : Nat),
    let reply := fun (i : Instr) (m : HostMsg) => Happens i s (fun t => t.dev = { s.dev with out := m :: s.dev.out } ∧ t.mem = s.mem ∧ t.ctl = s.ctl)
    reply .getVersion (.spdm 1 [0x13]) ∧ reply .getCapabilities (.spdm 2 ((List.range 10).map (fun i => BitVec.ofNat 8 (i + 1)))) ∧ reply .negotiateAlgorithms (.spdm 3 [1, 1, 1, 1])
    ∧ reply .getDigests (.spdm 4 (leBytes 48 (Config.sha384 Config.certificateChain).toNat))
    ∧ reply (.getCertificate slot) (if slot = 0 then .spdm 5 Config.certificateChain else .spdmError 5)
    ∧ reply (.challenge nonce) (.spdm 6 (leBytes 96 (Config.sign (leBytes 32 nonce ++ leBytes 48 (Config.sha384 Config.certificateChain).toNat ++ [1, 2, 3, 4, 5].flatMap (fun i => (s.measurement i).getD []))).toNat))
    ∧ reply (.getMeasurements index) (match s.measurement index with
      | some bs => .spdm 7 bs
      | none => .spdmError 7)
    ∧ (index = 0 ∨ 5 < index → s.measurement index = none) ∧ (1 ≤ index → index ≤ 5 → s.measurement index ≠ none)
    ∧ Happens .keyExchange s (fun t => t.dev.exchange = true ∧ t.dev.sessions = s.dev.sessions + 1 ∧ ∃ share, t.dev.out = .spdm 8 (share ++ leBytes 96 (Config.sign share).toNat) :: s.dev.out)
    ∧ Happens .finish s (fun t => t.dev = if s.dev.exchange then { s.dev with exchange := false, session := true, out := .spdm 9 [] :: s.dev.out } else { s.dev with out := .spdmError 9 :: s.dev.out })
    ∧ Happens .endSession s (fun t => t.dev = if s.dev.session then { s.dev with session := false, out := .spdm 10 [] :: s.dev.out } else { s.dev with out := .spdmError 10 :: s.dev.out }))
  ∧ (∀ (s : State) (slot : Nat) (key : BitVec 256),
    (s.dev.session = true → 1 ≤ slot → slot ≤ 255 → Sparse.get false s.dev.keys slot = false → Happens (.keyset slot key) s (fun t => Sparse.get false t.dev.keys slot = true ∧ t.dev.out = .spdm 11 [] :: s.dev.out ∧ key ∈ t.dev.seen))
    ∧ (s.dev.session = false ∨ slot = 0 ∨ 255 < slot ∨ Sparse.get false s.dev.keys slot = true → Happens (.keyset slot key) s (fun t => t.dev = { s.dev with out := .spdmError 11 :: s.dev.out }))
    ∧ ((slot ∈ s.dev.revokes ∨ s.dev.session = true ∧ 1 ≤ slot ∧ slot ≤ 255) → s.keyFree slot = true →
      Happens (.keyrevoke slot) s (fun t => t.dev.keys = Sparse.set false s.dev.keys slot false ∧ slot ∉ t.dev.revokes ∧ t.dev.out = .spdm 12 [] :: s.dev.out))
    ∧ (slot ∉ s.dev.revokes → s.dev.session = true → 1 ≤ slot → slot ≤ 255 → s.keyFree slot = false → Happens (.keyrevoke slot) s (fun t => t.dev = { s.dev with revokes := slot :: s.dev.revokes }))
    ∧ (slot ∉ s.dev.revokes → s.dev.session = false ∨ slot = 0 ∨ 255 < slot → Happens (.keyrevoke slot) s (fun t => t.dev = { s.dev with out := .spdmError 12 :: s.dev.out })))

/-- A host read of HBM answers with the bytes and their poison (R202); a host write changes exactly its bytes, or waits for a page that is being copied; each line of it that the host's coherence governs, and each line of a snooped write of host memory, advances the snoop counter of its home die's L2 (R232). A lapsed host access brings poisoned data, or a link error in the log (R348); a failed IDE check ends the stream and IDE_KM starts it again inside a session; links train, rekey and go down (R423). POOL_UPDATE keeps a pool within 16 to 160 and the clamp of the package limit (R19), 105 degrees halve it, an overcurrent and a step up move the clock by 75 MHz between 1,050 and 1,500 (R433, R434). Loss of power, a warm reset, a thermal trip and an uncontainable error leave the OPQs empty; the first stops the device, the last two set FAIL 0x07 and 0x06 (R241, R425, R434). Power on and a warm reset are a cold start that keeps SCM's bytes and the firmware slots (R432); a stage of bring-up goes on, or sets FAIL with its code (R431). A second reading makes an event transient or lasting, a lasting one without a tenant FAIL 0x06; another stands open until the accesses that may have used its frame's old translations are performed, and then enters the error log with its count of events (R426, R427, R428). PLIM stays from 1,200 W to PCLAMP, and each register of the host block acts as R429 says. -/
def Obligations.PlatformEvents : Prop :=
  (∀ (s : State) (pa size : Nat), s.canon = true → s.linkUp = true → 0 < size → keyExists (pa + size - 1) = true → pa + size ≤ scmBase →
    Happens (.hostMemRead pa size) s (fun t => t.dev.out = .data pa (s.bytes pa size) ((linePieces pa size).any (fun x => s.localPsn x.2.1 x.2.2)) :: s.dev.out ∧ t.mem.bytes = s.mem.bytes))
  ∧ (∀ (s : State) (pa : Nat) (data : List Byte), s.canon = true → s.linkUp = true → data ≠ [] → keyExists (pa + data.length - 1) = true → pa + data.length ≤ scmBase → s.dev.writes.contains (pa, data) = false →
    Happens (.hostMemWrite pa data) s (fun t => if (linePieces pa data.length).all (fun x => s.hostFits x.2.1) then Wrote s t [(pa, data)] ∧ ∀ d, (t.die d).snt = (s.die d).snt + ((linePieces pa data.length).filter (fun x => s.hostSide x.2.1 && decide (s.homeOf x.2.1 = d))).length
      else t.mem = s.mem ∧ t.dev.writes = s.dev.writes ++ [(pa, data)]))
  ∧ (∀ (s : State) (hpa : Nat) (data : List Byte), s.canon = true → s.linkUp = true → data ≠ [] → hpa + data.length < 2 ^ 52 → s.dev.writes.contains (hostBase + hpa, data) = false → (linePieces (hostBase + hpa) data.length).all (fun x => s.hostFits x.2.1) = true →
    Happens (.cxlSnoopInvalidation hpa data) s (fun t => Wrote s t [(hostBase + hpa, data)] ∧ ∀ d, (t.die d).snt = (s.die d).snt + ((linePieces (hostBase + hpa) data.length).filter (fun x => decide (s.homeOf x.2.1 = d))).length))
  ∧ (∀ (s : State) (id : Nat) (r : Req), s.canon = true → s.req id = some r → r.tier = 2 → r.waiting = true →
    (∀ w dst, r.kind = .load w dst → Happens (.cxlCompletionTimeout id) s (fun t => ∃ bs : List Byte, bs.length = r.size ∧ t.req id = some { r with state := .served bs 0 true }))
    ∧ (r.kind = .store → Happens (.cxlCompletionTimeout id) s (fun t => t.req id = some { r with state := .done 0 [] false } ∧ ∃ e, t.dev = s.dev.record e ∧ e.cls = 4 ∧ e.pa = r.key - hostBase)))
  ∧ (∀ (s : State) (port : Nat),
    Happens .ideCheckFail s (fun t => t.dev.ide = true)
    ∧ Happens .ideKm s (fun t => t.dev = if s.dev.session then { s.dev with ide := false, ideKeys := s.dev.ideKeys + 1 } else { s.dev with out := .spdmError 13 :: s.dev.out })
    ∧ (port < 16 → Happens (.linkTraining port) s (fun t => Sparse.get false t.dev.links port = true ∧ Sparse.get 0 t.dev.linkKeys port = Sparse.get 0 s.dev.linkKeys port + 1))
    ∧ (Sparse.get false s.dev.links port = true → Happens (.linkRekey port) s (fun t => Sparse.get 0 t.dev.linkKeys port = Sparse.get 0 s.dev.linkKeys port + 1 ∧ t.dev.links = s.dev.links))
    ∧ (Sparse.get false s.dev.links port = true → Happens (.linkDown port) s (fun t => t.dev.links = Sparse.set false s.dev.links port false)))
  ∧ (∀ (s : State) (die : Nat), s.canon = true → die < 4 →
    Happens (.poolUpdate die) s (fun t => (t.die die).pool ≤ s.poolCap ∧ s.poolCap ≤ 160 ∧ (16 ≤ (t.die die).pool ∨ ∃ limit, Sparse.get 0 s.dev.hot die = limit + 1 ∧ (t.die die).pool = limit))
    ∧ Happens (.junctionOver105 die) s (fun t => (t.die die).pool = max 1 ((s.die die).pool / 2) ∧ Sparse.get 0 t.dev.hot die = (t.die die).pool + 1))
  ∧ (∀ s : State, Happens .railOvercurrent s (fun t => t.dev = { s.dev with mhz := max 1050 (s.dev.mhz - 75) }) ∧ Happens .clockStepUp s (fun t => t.dev = { s.dev with mhz := min 1500 (s.dev.mhz + 75) })
    ∧ Happens .telemetryRefresh s (fun t => (∀ d < 4, Sparse.get 0 t.dev.tele (d * 0x100 + 0x38) = s.dev.mhz ∧ Sparse.get 0 t.dev.tele (d * 0x100 + 0x20) = (s.die d).pool) ∧ t.mem = s.mem ∧ t.ctl = s.ctl))
  ∧ (∀ s : State, s.canon = true → s.dev.on = true →
    Happens .powerLoss s (fun t => t.dev.on = false ∧ t.dev.ready = false ∧ t.opq.entries = [] ∧ t.mem.bytes = s.mem.bytes)
    ∧ Happens .warmReset s (fun t => t.dev = s.dev.cold ∧ t.ctl = {} ∧ t.opq = {})
    ∧ Happens .thermalTrip s (fun t => t.dev.ready = false ∧ t.dev.fail = true ∧ t.dev.fcode = 0x07 ∧ t.opq.entries = [])
    ∧ Happens .uncontainableError s (fun t => t.dev.ready = false ∧ t.dev.fail = true ∧ t.dev.fcode = 0x06 ∧ t.opq.entries = []))
  ∧ (∀ s : State, s.dev.on = false → Happens .powerOn s (fun t => t.dev = s.dev.cold ∧ t.mem = s.mem.cold ∧ t.ctl = {} ∧ t.dev.images = s.dev.images ∧ t.dev.fw = s.dev.fw))
  ∧ (∀ s : State, s.dev.on = true → s.dev.ready = false → s.dev.fail = false →
    (s.dev.stage ≤ 4 → Happens .bringupStage s (fun t => t.dev.fail = false ∧ t.dev.stage = s.dev.stage + 1
      ∨ t.dev.fail = true ∧ (s.dev.stage = 1 ∧ t.dev.fcode = 0x01 ∨ s.dev.stage = 2 ∧ (t.dev.fcode = 0x02 ∨ t.dev.fcode = 0x03) ∨ s.dev.stage = 3 ∧ (t.dev.fcode = 0x04 ∨ t.dev.fcode = 0x05 ∧ t.dev.loss = true))))
    ∧ (4 < s.dev.stage → Happens .bringupStage s (fun t => t.dev.ready = true)))
  ∧ (∀ (s : State) (line keyid at_ : Nat), s.canon = true → s.dev.suspects.find? (fun x => decide (x.1 = line)) = some (line, keyid, at_) → line ∈ s.recheckDue →
    let n := fun (x : State) (k : Nat) => Sparse.get 0 x.dev.counts (homeDie (line * 64) * 3 + k)
    Happens (.poisonRecheck line) s (fun t => (∀ x ∈ t.dev.suspects, x.1 ≠ line)
      ∧ (if s.marked line then n t 2 = n s 2 + 1 else n t 1 = n s 1 + 1) ∧ (s.marked line = true → line * 64 < dspKey → keyid = 0 → t.dev.fail = true ∧ t.dev.fcode = 0x06)
      ∧ (s.marked line = true → line * 64 < dspKey → keyid ≠ 0 → t.dev.fail = s.dev.fail ∧ ∃ x ∈ t.dev.lasting, x.1 / 1024 = line / 1024 ∧ x.2.1 = keyid)))
  ∧ (∀ (s : State) (line : Nat) (x : Nat × Nat × Nat), s.dev.suspects.find? (fun y => decide (y.1 = line)) = none → s.dev.lasting.find? (fun y => decide (y.1 = line)) = some x → s.lastingQuiet x.1 x.2.1 = true →
    Happens (.poisonRecheck line) s (fun t => t.mem = s.mem ∧ ∃ e, t.dev = Dev.record { s.dev with lasting := s.dev.lasting.erase x } e ∧ e.cls = 2 ∧ e.keyid = x.2.1 ∧ e.count = x.2.2))
  ∧ (∀ (s : State) (v off : Nat), Happens (.plimWrite v) s (fun t => t.dev = { s.dev with plim := min (max (v % 2 ^ 32) 1200) s.dev.pclamp })
    ∧ Happens (.hostRegisterWrite 0 v) s (fun t => t.dev = if flagOf v 29 then { s.dev with loss := false } else s.dev)
    ∧ exec (.hostRegisterWrite 8 v) s = exec (.plimWrite v) s ∧ (flagOf v 0 = true → exec (.hostRegisterWrite 4 v) s = exec .warmReset s)
    ∧ Happens (.hostRegisterWrite 0x100 v) s (fun t => t.dev = { s.dev with mbcmd := v % 2 ^ 32 })
    ∧ (off < 4 → Happens (.hostRegisterWrite (0x108 + 8 * off) v) s (fun t => t.dev = { s.dev with mbarg := Sparse.set 0 s.dev.mbarg off (v % 2 ^ 64) }))
    ∧ (off < 1024 → exec (.hostRegisterWrite (0x1000 + 8 * off) v) s = exec (.doorbell off (v % 2 ^ 64)) s))

/-- A STEP whose number follows the last one marks it, enters the job's history, and freezes the first die when earlier snapshots allow, else waits; another number completes with CODE 0x03 (R388, R387). SNAPREGION adds a region and completes; it removes one when no copy of it is in progress, else waits, and refuses a range that is none (R390). A copied page is pending no more (R394); a survivor's page that is sent is not due again (R401). A complete local snapshot becomes LOCAL (R395); a fold raises FOLD of its descriptor to the snapshot folded (R399). REBUILD on a spare that passes its checks begins a rebuild and stays active (R400); when every page has arrived LOCAL or FOLD is at least r, the rebuild is over and its packet completes (R401, R402). -/
def Obligations.StepsAndSnapshots : Prop :=
  (∀ (s : State) (p : Packet) (as : List Machine.Act), Starts s p as .step →
    let n := p.num 0x10 8
    let job := p.num 0x18 8
    let x := s.steps p.asid
    ((x.step = 0 ∧ 1 ≤ n ∧ n ≤ 2 ^ 62) ∨ (x.step ≠ 0 ∧ n = x.step + 1) →
      Happens (.step p.queue p.index) s (fun t => (t.steps p.asid).step = n ∧ (Sparse.get {} t.sun.jobs job).last = n ∧ (Waiting s t p (.step n job none) ∨ Waiting s t p (.step n job (some 1)))))
    ∧ ((x.step = 0 ∧ (n = 0 ∨ 2 ^ 62 < n)) ∨ (x.step ≠ 0 ∧ n ≠ x.step + 1) → Happens (.step p.queue p.index) s (fun t => Completed s t p 0x03 0x10 ∧ t.steps p.asid = x)))
  ∧ (∀ (s : State) (p : Packet) (as : List Machine.Act), Starts s p as .snapregionAdd → (∃ acts, snapAddBody p s = .ok acts) → (∃ acts, snapAddBody p (begun s p as) = .ok acts) →
    Happens (.snapregionAdd p.queue p.index) s (fun t => Completed s t p 0 0 ∧ ∃ r : Region, t.sett.regions = s.sett.regions ++ [r] ∧ r.asid = p.asid ∧ r.va = p.num 0x10 8 ∧ r.len = p.num 0x18 8 ∧ r.ring = p.num 0x20 8))
  ∧ (∀ (s : State) (p : Packet) (as : List Machine.Act), Starts s p as .snapregionRemove →
    let va := p.num 0x10 8
    let len := p.num 0x18 8
    ((∃ r ∈ s.sett.regions, r.asid = p.asid ∧ r.va = va ∧ r.len = len) → Happens (.snapregionRemove p.queue p.index) s (fun t =>
      if s.copying p.asid va len || s.freezing p.asid then Waiting s t p (.unsnap va len) ∧ t.sett.regions = s.sett.regions
      else Completed s t p 0 0 ∧ ∀ r ∈ t.sett.regions, ¬(r.asid = p.asid ∧ r.va = va ∧ r.len = len)))
    ∧ ((∀ r ∈ s.sett.regions, ¬(r.asid = p.asid ∧ r.va = va ∧ r.len = len)) → Happens (.snapregionRemove p.queue p.index) s (fun t => Completed s t p 0x03 0x10)))
  ∧ (∀ (s : State) (asid va : Nat), s.canon = true → s.copyReady asid va = true →
    Happens (.settPageCopy asid va) s (fun t => t.sett.pending = Sparse.set 0 s.sett.pending (pageKey asid va) 0 ∧ t.sett.regions = s.sett.regions))
  ∧ (∀ (s : State) (asid va m p : Nat) (h : Help) (g : StripeGroup) (ring : Ring), s.canon = true → s.copyReady asid va = false → s.sendDue asid va = some (h, g, m, ring, p) →
    Happens (.settPageCopy asid va) s (fun t => t.sett.helps = s.sett.helps.map (fun x => if x = h then { x with pages := x.pages.filter (fun q => decide (q ≠ p)) } else x)))
  ∧ (∀ (s : State) (asid : Nat), s.canon = true → s.snapDone asid = true → Happens (.snapshotComplete asid) s (fun t => (t.steps asid).local_ = (s.steps asid).frozen ∧ (s.steps asid).g ≤ (t.steps asid).g))
  ∧ (∀ (s : State) (asid desc : Nat) (g : StripeGroup), s.canon = true → s.groupAt asid desc = some g →
    Happens (.parityFold asid desc) s (fun t => t.stripe asid desc = { s.stripe asid desc with fold := if s.foldDue (s.stripe asid desc) g then s.foldNext (s.stripe asid desc) else (s.stripe asid desc).fold }))
  ∧ (∀ (s : State) (p : Packet) (as : List Machine.Act), Starts s p as .rebuild → (∃ acts, rebuildBody p s = .ok acts) → (∃ acts, rebuildBody p (begun s p as) = .ok acts) →
    Happens (.rebuild p.queue p.index) s (fun t => Waiting s t p .rebuild ∧ t.sett.rebuilds.length = s.sett.rebuilds.length + 1 ∧ ∃ x ∈ t.sett.rebuilds, x.queue = p.queue ∧ x.index = p.index ∧ x.asid = p.asid ∧ x.desc = p.num 0x18 8))
  ∧ (∀ (s : State) (asid r : Nat) (x : Rebuild) (g : StripeGroup) (a : Active), s.canon = true → s.rebuilt asid = some (x, g) → x.r = some r → 0 < r → s.sun.active.find? (fun a => decide (a.queue = x.queue) && decide (a.index = x.index)) = some a →
    Happens (.rebuildDone asid) s (fun t => ((s.queue a.queue).here = true → (s.queue a.queue).gen = a.gen → t.queue a.queue = (s.queue a.queue).finish a.index 0) ∧ (∀ b ∈ t.sun.active, ¬(b.queue = a.queue ∧ b.index = a.index))
      ∧ t.sett.rebuilds.length = (s.sett.rebuilds.filter (fun y => decide (y ≠ x))).length ∧ if g.parity x.lost = none then r ≤ (t.steps asid).local_ else (t.stripe asid x.desc).fold = r))
end

