-- ==== Sys2Proof/Laws/Sparse.lean ====
section
/-! SUPPORT. What the operations of a sparse map do: reading after writing, and the canonical form kept. -/
namespace Sys2Proof.Machine

variable {V : Type}

theorem Sparse.get_put_same (d : V) (m : Sparse V) (j : Nat) (w : V) : Sparse.get d (Sparse.put m j w) j = w := by
  induction m with
  | nil => simp [Sparse.put, Sparse.get]
  | cons e m ih =>
    obtain ⟨k, v⟩ := e
    by_cases h : j = k
    · simp [Sparse.put, Sparse.get, h]
    · by_cases h2 : j < k <;> simp [Sparse.put, Sparse.get, h, h2, ih]

theorem Sparse.get_put_other (d : V) (m : Sparse V) (j i : Nat) (w : V) (hij : i ≠ j) : Sparse.get d (Sparse.put m j w) i = Sparse.get d m i := by
  induction m with
  | nil => simp [Sparse.put, Sparse.get, hij]
  | cons e m ih =>
    obtain ⟨k, v⟩ := e
    by_cases h : j = k
    · subst h; simp [Sparse.put, Sparse.get, hij]
    · by_cases h2 : j < k
      · by_cases h3 : i < j
        · have h4 : i ≠ k := by omega
          have h5 : i < k := by omega
          simp [Sparse.put, Sparse.get, h, h2, hij, h3, h4, h5]
        · simp [Sparse.put, Sparse.get, h, h2, hij, h3]
      · simp [Sparse.put, Sparse.get, h, h2, ih]

variable [DecidableEq V]

theorem Sparse.wfFrom_mono (d : V) (a b : Nat) (m : Sparse V) (h : Sparse.wfFrom d (some b) m) (hab : a ≤ b) : Sparse.wfFrom d (some a) m := by
  cases m with
  | nil => rfl
  | cons e m =>
    obtain ⟨k, v⟩ := e
    simp only [Sparse.wfFrom, Bool.and_eq_true, decide_eq_true_eq] at *
    exact ⟨⟨by omega, h.1.2⟩, h.2⟩

theorem Sparse.wfFrom_none (d : V) (b : Nat) (m : Sparse V) (h : Sparse.wfFrom d (some b) m) : Sparse.wfFrom d none m := by
  cases m with
  | nil => rfl
  | cons e m =>
    obtain ⟨k, v⟩ := e
    simp only [Sparse.wfFrom, Bool.and_eq_true, decide_eq_true_eq, Bool.true_and] at *
    exact ⟨h.1.2, h.2⟩

theorem Sparse.get_below (d : V) (b i : Nat) (m : Sparse V) (h : Sparse.wfFrom d (some b) m) (hi : i ≤ b) : Sparse.get d m i = d := by
  cases m with
  | nil => rfl
  | cons e m =>
    obtain ⟨k, v⟩ := e
    simp only [Sparse.wfFrom, Bool.and_eq_true, decide_eq_true_eq] at h
    have h1 : i ≠ k := by omega
    have h2 : i < k := by omega
    simp [Sparse.get, h1, h2]

theorem Sparse.wfFrom_tail (d : V) (lo : Option Nat) (k : Nat) (v : V) (m : Sparse V) (h : Sparse.wfFrom d lo ((k, v) :: m)) : v ≠ d ∧ Sparse.wfFrom d (some k) m := by
  simp only [Sparse.wfFrom, Bool.and_eq_true, decide_eq_true_eq] at h
  exact ⟨h.1.2, h.2⟩

theorem Sparse.get_drop_same (d : V) (lo : Option Nat) (m : Sparse V) (j : Nat) (h : Sparse.wfFrom d lo m) : Sparse.get d (Sparse.drop m j) j = d := by
  induction m generalizing lo with
  | nil => rfl
  | cons e m ih =>
    obtain ⟨k, v⟩ := e
    have ht := Sparse.wfFrom_tail d lo k v m h
    by_cases h1 : j = k
    · subst h1; simpa [Sparse.drop] using Sparse.get_below d j j m ht.2 (Nat.le_refl _)
    · by_cases h2 : j < k
      · simp [Sparse.drop, Sparse.get, h1, h2]
      · simpa [Sparse.drop, Sparse.get, h1, h2] using ih _ ht.2

theorem Sparse.get_drop_other (d : V) (lo : Option Nat) (m : Sparse V) (j i : Nat) (h : Sparse.wfFrom d lo m) (hij : i ≠ j) :
    Sparse.get d (Sparse.drop m j) i = Sparse.get d m i := by
  induction m generalizing lo with
  | nil => rfl
  | cons e m ih =>
    obtain ⟨k, v⟩ := e
    have ht := Sparse.wfFrom_tail d lo k v m h
    by_cases h1 : j = k
    · subst h1
      by_cases h3 : i < j
      · simpa [Sparse.drop, Sparse.get, hij, h3] using Sparse.get_below d j i m ht.2 (Nat.le_of_lt h3)
      · simp [Sparse.drop, Sparse.get, hij, h3]
    · by_cases h2 : j < k
      · simp [Sparse.drop, h1, h2]
      · simp [Sparse.drop, Sparse.get, h1, h2, ih _ ht.2]

/-- Reading the key written gives the value written. -/
@[simp] theorem Sparse.get_set_same (d : V) (m : Sparse V) (j : Nat) (w : V) (h : Sparse.wf d m) : Sparse.get d (Sparse.set d m j w) j = w := by
  unfold Sparse.set
  split
  · next hw => subst hw; exact Sparse.get_drop_same w none m j h
  · exact Sparse.get_put_same d m j w

/-- A write leaves every other key alone. -/
theorem Sparse.get_set_other (d : V) (m : Sparse V) (j i : Nat) (w : V) (h : Sparse.wf d m) (hij : i ≠ j) :
    Sparse.get d (Sparse.set d m j w) i = Sparse.get d m i := by
  unfold Sparse.set
  split
  · exact Sparse.get_drop_other d none m j i h hij
  · exact Sparse.get_put_other d m j i w hij

/-- Reading after one write, for any key. -/
theorem Sparse.get_set (d : V) (m : Sparse V) (j i : Nat) (w : V) (h : Sparse.wf d m) :
    Sparse.get d (Sparse.set d m j w) i = if i = j then w else Sparse.get d m i := by
  split
  · next e => subst e; exact Sparse.get_set_same d m i w h
  · next e => exact Sparse.get_set_other d m j i w h e

theorem Sparse.wfFrom_put (d : V) (lo : Option Nat) (m : Sparse V) (j : Nat) (w : V) (h : Sparse.wfFrom d lo m) (hw : w ≠ d) (hl : ∀ l, lo = some l → l < j) :
    Sparse.wfFrom d lo (Sparse.put m j w) := by
  induction m generalizing lo with
  | nil => cases lo <;> simp_all [Sparse.put, Sparse.wfFrom]
  | cons e m ih =>
    obtain ⟨k, v⟩ := e
    have ht := Sparse.wfFrom_tail d lo k v m h
    by_cases h1 : j = k
    · subst h1
      cases lo <;> simp_all [Sparse.put, Sparse.wfFrom]
    · by_cases h2 : j < k
      · cases lo <;> simp_all [Sparse.put, Sparse.wfFrom]
      · have h3 := ih (some k) ht.2 (by intro l hl; cases hl; omega)
        rw [Sparse.put, if_neg h1, if_neg h2]
        cases lo <;> simp_all [Sparse.wfFrom]

theorem Sparse.wfFrom_drop (d : V) (lo : Option Nat) (m : Sparse V) (j : Nat) (h : Sparse.wfFrom d lo m) : Sparse.wfFrom d lo (Sparse.drop m j) := by
  induction m generalizing lo with
  | nil => exact h
  | cons e m ih =>
    obtain ⟨k, v⟩ := e
    have ht := Sparse.wfFrom_tail d lo k v m h
    by_cases h1 : j = k
    · subst h1
      cases lo with
      | none => simpa [Sparse.drop] using Sparse.wfFrom_none d j m ht.2
      | some l =>
        simp only [Sparse.wfFrom, Bool.and_eq_true, decide_eq_true_eq] at h
        simpa [Sparse.drop] using Sparse.wfFrom_mono d l j m ht.2 (by omega)
    · by_cases h2 : j < k
      · simpa [Sparse.drop, h1, h2] using h
      · have h3 := ih (some k) ht.2
        rw [Sparse.drop, if_neg h1, if_neg h2]
        cases lo <;> simp_all [Sparse.wfFrom]

/-- A write keeps the canonical form. -/
theorem Sparse.wf_set (d : V) (m : Sparse V) (j : Nat) (w : V) (h : Sparse.wf d m) : Sparse.wf d (Sparse.set d m j w) := by
  unfold Sparse.set
  split
  · exact Sparse.wfFrom_drop d none m j h
  · next hw => exact Sparse.wfFrom_put d none m j w h hw (by simp)

theorem Sparse.wfFrom_filter (d : V) (lo : Option Nat) (m : Sparse V) (p : Nat × V → Bool) (h : Sparse.wfFrom d lo m) : Sparse.wfFrom d lo (m.filter p) := by
  induction m generalizing lo with
  | nil => exact h
  | cons e m ih =>
    obtain ⟨k, v⟩ := e
    have ht := Sparse.wfFrom_tail d lo k v m h
    have h3 := ih (some k) ht.2
    by_cases hp : p (k, v)
    · cases lo <;> simp_all [Sparse.wfFrom]
    · rw [List.filter_cons_of_neg hp]
      cases lo with
      | none => exact Sparse.wfFrom_none d k _ h3
      | some l =>
        simp only [Sparse.wfFrom, Bool.and_eq_true, decide_eq_true_eq] at h
        exact Sparse.wfFrom_mono d l k _ h3 (by omega)

/-- Keeping some entries keeps the canonical form. -/
theorem Sparse.wf_filter (d : V) (m : Sparse V) (p : Nat × V → Bool) (h : Sparse.wf d m) : Sparse.wf d (m.filter p) := Sparse.wfFrom_filter d none m p h

/-- Writing a list of entries keeps the canonical form. -/
theorem Sparse.wf_foldl_set {A : Type} (d : V) (l : List A) (m : Sparse V) (k : A → Nat) (v : A → V) (h : Sparse.wf d m) :
    Sparse.wf d (l.foldl (fun m a => Sparse.set d m (k a) (v a)) m) := by
  induction l generalizing m with
  | nil => exact h
  | cons a l ih => exact ih _ (Sparse.wf_set d m _ _ h)

theorem Sparse.mem_put (m : Sparse V) (j : Nat) (w : V) (e : Nat × V) (h : e ∈ Sparse.put m j w) : e.1 = j ∨ e ∈ m := by
  induction m with
  | nil => simp [Sparse.put] at h; simp [h]
  | cons x m ih =>
    obtain ⟨k, v⟩ := x
    unfold Sparse.put at h
    split at h
    · next hk => subst hk; rcases List.mem_cons.mp h with h | h <;> simp_all
    · split at h
      · rcases List.mem_cons.mp h with h | h <;> simp_all
      · rcases List.mem_cons.mp h with h | h
        · simp [h]
        · rcases ih h with h | h <;> simp [h]

theorem Sparse.mem_drop (m : Sparse V) (j : Nat) (e : Nat × V) (h : e ∈ Sparse.drop m j) : e ∈ m := by
  induction m with
  | nil => exact h
  | cons x m ih =>
    obtain ⟨k, v⟩ := x
    unfold Sparse.drop at h
    split at h
    · simp [h]
    · split at h
      · exact h
      · rcases List.mem_cons.mp h with h | h
        · simp [h]
        · simp [ih h]

/-- An entry after a write stands at the key written, or stood there before. -/
theorem Sparse.mem_set (d : V) (m : Sparse V) (j : Nat) (w : V) (e : Nat × V) (h : e ∈ Sparse.set d m j w) : e.1 = j ∨ e ∈ m := by
  unfold Sparse.set at h
  split at h
  · exact .inr (Sparse.mem_drop m j e h)
  · exact Sparse.mem_put m j w e h

theorem Sparse.wfFrom_append (d : V) (lo : Option Nat) (b : Nat) (m n : Sparse V) (hm : Sparse.wfFrom d lo m) (hl : ∀ e ∈ m, e.1 ≤ b) (hlo : ∀ l, lo = some l → l ≤ b)
    (hn : Sparse.wfFrom d (some b) n) : Sparse.wfFrom d lo (m ++ n) := by
  induction m generalizing lo with
  | nil =>
    cases lo with
    | none => exact Sparse.wfFrom_none d b n hn
    | some l => exact Sparse.wfFrom_mono d l b n hn (hlo l rfl)
  | cons e m ih =>
    obtain ⟨k, v⟩ := e
    have ht := Sparse.wfFrom_tail d lo k v m hm
    have hk : k ≤ b := hl (k, v) (by simp)
    have h3 := ih (some k) ht.2 (fun e he => hl e (by simp [he])) (by intro l h; cases h; exact hk)
    cases lo <;> simp_all [Sparse.wfFrom]

end Sys2Proof.Machine
end

