-- ==== Sys2Proof/Laws/Canon.lean ====
section
/-! SUPPORT. Every operation over the state, and every change an instruction or an agent makes, keeps the canonical form. -/
namespace Sys2Proof.Machine

/-- What every item of a list keeps, the list keeps. -/
theorem canon_foldl {A : Type} (f : State → A → State) (l : List A) (s : State) (h : ∀ s a, s.canon = true → (f s a).canon = true) (hs : s.canon = true) :
    (l.foldl f s).canon = true := by
  induction l generalizing s with
  | nil => exact hs
  | cons a l ih => exact ih _ (h s a hs)

/-! ### Maps -/

theorem Sparse.wf_restore {V : Type} [DecidableEq V] (d : V) (m : Sparse V) (mine : Nat → Bool) (saved : Sparse V) (h : Sparse.wf d m) : Sparse.wf d (Sparse.restore d m mine saved) :=
  Sparse.wf_foldl_set d saved _ _ _ (Sparse.wf_filter d m _ h)

theorem Sparse.wf_shift {V : Type} [DecidableEq V] (d : V) (m : Sparse V) (a b n : Nat) (h : Sparse.wf d m) : Sparse.wf d (Sparse.shift d m a b n) :=
  Sparse.wf_foldl_set d _ _ _ _ (Sparse.wf_filter d m _ h)

theorem Sparse.wf_later (m : Sparse Nat) (a n : Nat) (h : Sparse.wf 0 m) : Sparse.wf 0 (m.later a n) := Sparse.wf_foldl_set 0 _ _ _ _ h

/-- Values may change as long as entries that become the default are removed. -/
theorem Sparse.wfFrom_map {V : Type} [DecidableEq V] (d : V) (lo : Option Nat) (m : Sparse V) (f : Nat → V → V) (p : Nat × V → Bool)
    (hp : ∀ e, p e = true → e.2 ≠ d) (h : Sparse.wfFrom d lo m) : Sparse.wfFrom d lo ((m.map (fun e => (e.1, f e.1 e.2))).filter p) := by
  induction m generalizing lo with
  | nil => rfl
  | cons e m ih =>
    obtain ⟨k, v⟩ := e
    have ht := Sparse.wfFrom_tail d lo k v m h
    have h3 := ih (some k) ht.2
    rw [List.map_cons]
    by_cases hq : p (k, f k v)
    · have := hp _ hq
      rw [List.filter_cons_of_pos hq]
      cases lo <;> simp_all [Sparse.wfFrom]
    · rw [List.filter_cons_of_neg hq]
      cases lo with
      | none => exact Sparse.wfFrom_none d k _ h3
      | some l =>
        simp only [Sparse.wfFrom, Bool.and_eq_true, decide_eq_true_eq] at h
        exact Sparse.wfFrom_mono d l k _ h3 (by omega)

/-! ### Memory -/

theorem Memory.wf_write (m : Mem) (k id : Nat) (bs : List Byte) (h : Memory.wf m) : Memory.wf (m.write k id bs) := by
  induction bs generalizing m k with
  | nil => exact h
  | cons b bs ih =>
    apply ih
    simp only [Memory.wf, Bool.and_eq_true] at *
    simp only [and_self, h, Sparse.wf_set]

theorem wf_nvWrite (m : List Host.Cell) (k : Nat) (bs : List Byte) (h : Sparse.wf 0 m) : Sparse.wf 0 (nvWrite m k bs) := by
  induction bs generalizing m k with
  | nil => exact h
  | cons b bs ih => exact ih _ _ (Sparse.wf_set 0 m k b h)

theorem Memory.wf_toArray (m : Mem) (l : Nat) (bs : List Byte) (mark : Bool) (h : Memory.wf m) : Memory.wf (m.toArray l bs mark) := by
  simp only [Memory.wf, Bool.and_eq_true, Mem.toArray] at *
  simp only [and_self, h, Sparse.wf_set, wf_nvWrite]

theorem Memory.wf_copyRange (m : Mem) (a b n : Nat) (h : Memory.wf m) : Memory.wf (m.copyRange a b n) := by
  simp only [Memory.wf, Bool.and_eq_true, Mem.copyRange] at *
  obtain ⟨⟨⟨⟨⟨⟨⟨⟨⟨⟨h1, h2⟩, h3⟩, h4⟩, h5⟩, h6⟩, h7⟩, h8⟩, h9⟩, h10⟩, h11⟩ := h
  refine ⟨⟨⟨⟨⟨⟨⟨⟨⟨⟨Sparse.wf_shift _ _ _ _ _ h1, ?_⟩, Sparse.wf_shift _ _ _ _ _ h3⟩, ?_⟩, h5⟩, Sparse.wf_shift _ _ _ _ _ h6⟩, Sparse.wf_shift _ _ _ _ _ h7⟩, h8⟩, Sparse.wf_foldl_set _ _ _ _ _ h9⟩, Sparse.wf_later _ _ _ h10⟩, Sparse.wf_shift _ _ _ _ _ h11⟩
  · split
    · exact Sparse.wf_foldl_set _ _ _ _ _ (Sparse.wf_filter _ _ _ h2)
    · exact h2
  · split
    · exact Sparse.wf_foldl_set _ _ _ _ _ (Sparse.wf_filter _ _ _ h4)
    · exact h4

theorem Sparse.wf_keep {V : Type} [DecidableEq V] (d : V) (n m : Sparse V) (lo mid hi : Nat) (hlm : lo ≤ mid) (hn : Sparse.wf d n) (hm : Sparse.wf d m) :
    Sparse.wf d (n.filter (fun e => decide (lo ≤ e.1) && decide (e.1 < mid)) ++ m.filter (fun e => decide (mid ≤ e.1) && decide (e.1 < hi))) := by
  have low : ∀ (l : Sparse V) (c : Option Nat), Sparse.wfFrom d c (l.filter (fun e => decide (mid ≤ e.1) && decide (e.1 < hi))) →
      (∀ e ∈ l.filter (fun e => decide (mid ≤ e.1) && decide (e.1 < hi)), mid ≤ e.1) := by
    intro l c _ e he
    simp only [List.mem_filter, Bool.and_eq_true, decide_eq_true_eq] at he
    omega
  by_cases hz : mid = 0
  · have : n.filter (fun e => decide (lo ≤ e.1) && decide (e.1 < mid)) = [] := by
      apply List.filter_eq_nil_iff.mpr; intro e _; simp; omega
    rw [this]; exact Sparse.wf_filter d m _ hm
  · refine Sparse.wfFrom_append d none (mid - 1) _ _ (Sparse.wf_filter d n _ hn) ?_ (by simp) ?_
    · intro e he
      simp only [List.mem_filter, Bool.and_eq_true, decide_eq_true_eq] at he
      omega
    · have hf := Sparse.wf_filter d m (fun e => decide (mid ≤ e.1) && decide (e.1 < hi)) hm
      have hb := low m none hf
      generalize m.filter (fun e => decide (mid ≤ e.1) && decide (e.1 < hi)) = l at hf hb
      cases l with
      | nil => rfl
      | cons e l =>
        obtain ⟨k, v⟩ := e
        have hk := hb (k, v) (by simp)
        simp only [Sparse.wf, Sparse.wfFrom, Bool.and_eq_true, decide_eq_true_eq] at *
        exact ⟨⟨by omega, hf.1.2⟩, hf.2⟩

theorem Memory.wf_cold (m : Mem) (h : Memory.wf m) : Memory.wf m.cold := by
  simp only [Memory.wf, Bool.and_eq_true, Mem.cold] at *
  obtain ⟨⟨⟨⟨⟨⟨⟨⟨⟨⟨h1, h2⟩, h3⟩, h4⟩, h5⟩, h6⟩, h7⟩, h8⟩, h9⟩, h10⟩, h11⟩ := h
  refine ⟨⟨⟨⟨⟨⟨⟨⟨⟨⟨?_, h2⟩, Sparse.wf_filter _ _ _ h4⟩, h4⟩, rfl⟩, rfl⟩, Sparse.wf_filter _ _ _ h7⟩, rfl⟩, rfl⟩, rfl⟩, Sparse.wf_filter _ _ _ h11⟩
  exact Sparse.wf_keep 0 m.nv m.bytes scmBase hostBase dspKey (by decide) h2 h1

theorem Memory.wf_blur (m : Mem) (k n : Nat) (h : Memory.wf m) : Memory.wf (m.blur k n) := by
  induction n generalizing m k with
  | zero => exact h
  | succ n ih =>
    apply ih
    simp only [Memory.wf, Bool.and_eq_true] at *
    simp only [and_self, h, Sparse.wf_set]

/-! ### Control -/

theorem State.canon_updSlice (s : State) (x : Nat) (u : SliceUpd) (h : s.canon) : (s.updSlice x u).canon := by
  simp only [State.canon, Ctl.wf, Bool.and_eq_true, State.updSlice] at *
  simp only [and_self, h, Sparse.wf_set]

theorem State.canon_setSplit (s : State) (e : Nat) (v : Split) (h : s.canon) : (s.setSplit e v).canon := by
  simp only [State.canon, Ctl.wf, Bool.and_eq_true, State.setSplit] at *
  simp only [and_self, h, Sparse.wf_set]

theorem State.canon_setGang (s : State) (g : Nat) (v : Gang) (h : s.canon) : (s.setGang g v).canon := by
  simp only [State.canon, Ctl.wf, Bool.and_eq_true, State.setGang] at *
  simp only [and_self, h, Sparse.wf_set]

/-- A pack is written. -/
theorem State.canon_setPack (s : State) (p : Nat) (v : Pack) (h : s.canon) : ({ s with ctl := { s.ctl with packs := Sparse.set {} s.ctl.packs p v } } : State).canon := by
  simp only [State.canon, Ctl.wf, Bool.and_eq_true] at *
  simp only [and_self, h, Sparse.wf_set]

theorem State.canon_spread (s : State) (like : Split) (gs : List (List Nat)) (es : List Nat) (h : s.canon) : (s.spread like gs es).canon := by
  induction gs generalizing s es with
  | nil => exact h
  | cons g gs ih =>
    cases es with
    | nil => exact h
    | cons e es => exact ih _ _ (State.canon_setSplit s e _ h)

theorem State.canon_divide (s : State) (e : Nat) (stay : Option (Nat × Nat)) (h : s.canon) : (s.divide e stay).canon := by
  unfold State.divide
  dsimp only
  split
  · split <;> exact State.canon_setSplit _ _ _ h
  · exact State.canon_setSplit _ _ _ h
  · split
    · exact State.canon_spread _ _ _ _ (State.canon_setSplit _ _ _ h)
    · exact State.canon_setSplit _ _ _ h

theorem State.canon_divideAll (s : State) (e : Nat) (stay : Option (Nat × Nat)) (n : Nat) (h : s.canon) : (s.divideAll e stay n).canon := by
  induction n generalizing s stay with
  | zero => exact h
  | succ n ih =>
    unfold State.divideAll
    dsimp only
    split
    · exact ih _ _ (State.canon_divide s e stay h)
    · exact State.canon_divide s e stay h

theorem State.canon_enter (s : State) (ls : List Nat) (h : s.canon) : (s.enter ls).canon := by
  unfold State.enter
  split
  · exact h
  · dsimp only
    split
    · exact State.canon_spread _ _ _ _ h
    · exact State.canon_setSplit _ _ _ h

theorem State.canon_leave (s : State) (ls : List Nat) (h : s.canon) : (s.leave ls).canon := by
  simp only [State.canon, Ctl.wf, Bool.and_eq_true, State.leave] at *
  obtain ⟨⟨⟨⟨h1, h2⟩, ⟨⟨⟨⟨⟨⟨⟨⟨⟨a1, a2⟩, a3⟩, a4⟩, a5⟩, a6⟩, a7⟩, a8⟩, a9⟩, a10⟩⟩, h4⟩, h5⟩ := h
  refine ⟨⟨⟨⟨h1, h2⟩, ⟨⟨⟨⟨⟨⟨⟨⟨⟨a1, ?_⟩, a3⟩, a4⟩, a5⟩, a6⟩, a7⟩, a8⟩, a9⟩, a10⟩⟩, h4⟩, h5⟩
  refine Sparse.wfFrom_map ({} : Split) none s.ctl.splits (fun _ v => { v with slices := v.slices.filter (fun x => !ls.contains x), held := (v.held.map (fun h => { h with slices := h.slices.filter (fun x => !ls.contains x) })).filter (fun h => decide (h.slices ≠ [])) })
    (fun p => decide (p.2 ≠ {}) && (decide (p.2.slices ≠ []) || decide (p.2.held ≠ []))) ?_ a2
  intro e he
  rw [Bool.and_eq_true, decide_eq_true_eq] at he
  exact he.1

theorem State.canon_refill (s : State) (h : s.canon) : s.refill.canon := by
  unfold State.refill
  refine canon_foldl _ _ _ (fun s e hs => ?_) h
  split
  · exact State.canon_divideAll _ _ _ _ hs
  · exact hs

/-- The lane files are replaced by others in canonical form. -/
theorem State.canon_lanes (s : State) (x : Lanes) (h : s.canon) (hx : x.wf) : ({ s with lanes := x } : State).canon := by
  simp only [State.canon, Bool.and_eq_true] at *
  exact ⟨⟨⟨⟨h.1.1.1.1, hx⟩, h.1.1.2⟩, h.1.2⟩, h.2⟩

theorem Lanes.wf_foldl {A : Type} (f : Lanes → A → Lanes) (l : List A) (x : Lanes) (h : ∀ x a, x.wf = true → (f x a).wf = true) (hx : x.wf = true) : (l.foldl f x).wf = true := by
  induction l generalizing x with
  | nil => exact hx
  | cons a l ih => exact ih _ (h x a hx)

theorem Lanes.wf_blur (x : Lanes) (sl : Nat) (d : Dst) (h : x.wf) : (x.blur sl d).wf := by
  unfold Lanes.blur
  split
  · simp only [Lanes.wf, Bool.and_eq_true] at *
    simp only [and_self, h, Sparse.wf_set]
  · exact h

theorem Lanes.wf_redraw (x : Lanes) (n k : Nat) (h : x.wf) : (x.redraw n k).wf := by
  unfold Lanes.redraw
  simp only [Lanes.wf, Bool.and_eq_true] at *
  split
  · simp only [and_self, h, Sparse.wf_set]
  · split <;> simp only [and_self, h, Sparse.wf_set]

theorem State.canon_drift (s : State) (h : s.canon) : s.drift.canon := by
  unfold State.drift
  simp only [State.canon, Memory.wf, Mat.wf, Bool.and_eq_true] at *
  have hl := Lanes.wf_foldl (fun x (e : Nat × Bool) => x.redraw (s.run.draws * 2 ^ 64 + s.run.ac) e.1) s.lanes.undef s.lanes (fun x a hx => Lanes.wf_redraw x _ a.1 hx) h.1.1.1.2
  simp only [and_self, h, Sparse.wf_foldl_set, hl]

theorem State.canon_blurDst (s : State) (sl : Nat) (d : Dst) (h : s.canon) : (s.blurDst sl d).canon := by
  unfold State.blurDst
  have hl : s.lanes.wf := by
    simp only [State.canon, Bool.and_eq_true] at h
    exact h.1.1.1.2
  cases hk : d.key sl with
  | none => exact State.canon_lanes s _ h hl
  | some k => exact State.canon_lanes s _ h (Lanes.wf_redraw _ _ _ (Lanes.wf_blur _ sl d hl))

/-- Slices change, and which launches have a fatal trap. -/
theorem State.canon_setSlice (s : State) (sl : Nat) (y : Slice) (f : List (Nat × Nat)) (h : s.canon) :
    ({ s with ctl := { s.ctl with slices := Sparse.set {} s.ctl.slices sl y, fatal := f } } : State).canon := by
  simp only [State.canon, Ctl.wf, Bool.and_eq_true] at *
  simp only [and_self, h, Sparse.wf_set]

theorem State.canon_takeTrap (s : State) (sl : Nat) (t : Trap) (h : s.canon) : (s.takeTrap sl t).canon := by
  unfold State.takeTrap
  extract_lets x p hm
  obtain ⟨⟨rp, rw_⟩, dist⟩ := s.resumeOf x t
  dsimp only
  split
  · exact canon_foldl _ _ _ (fun s e hs => State.canon_updSlice s e _ hs) (State.canon_setSlice s sl _ _ h)
  · exact State.canon_setSlice s sl _ _ h

theorem State.canon_noteWalk (s : State) (asid va : Nat) (h : s.canon) : (s.noteWalk asid va).canon := by
  unfold State.noteWalk
  repeat' split
  all_goals exact h

theorem State.canon_noteEntry (s : State) (sl : Nat) (t : Trap) (h : s.canon) : (s.noteEntry sl t).canon := by
  unfold State.noteEntry
  split
  · exact State.canon_noteWalk _ _ _ h
  · exact h

theorem State.canon_release (s : State) (ls : List Nat) (h : s.canon) : (s.release ls).canon := by
  unfold State.release
  exact canon_foldl _ _ _ (fun s e hs => State.canon_updSlice _ e _ (State.canon_updSlice s e _ hs)) h

theorem State.canon_meet0 (s : State) (p g : Nat) (h : s.canon) : (s.meet0 p g).canon := by
  unfold State.meet0
  dsimp only
  split
  · exact h
  · split
    · exact h
    · split
      · split
        · exact h
        · split
          · exact h
          · exact State.canon_enter _ _ (State.canon_release _ _ h)
      · exact State.canon_enter _ _ (canon_foldl _ _ _ (fun s x hs => State.canon_takeTrap s x _ hs) h)

theorem State.canon_form1 (s : State) (p : Nat) (k : Nat × Nat) (b : Bool) (h : s.canon) : (s.form1 p k b).1.canon := by
  unfold State.form1
  dsimp only
  split
  · exact h
  · split
    · exact h
    · refine State.canon_enter _ _ (State.canon_release _ _ ?_)
      exact canon_foldl _ _ _ (fun s e hs => State.canon_updSlice s e.1 _ hs) (State.canon_setGang _ _ _ h)

theorem State.canon_form1All (s : State) (p : Nat) (b : Bool) (n : Nat) (h : s.canon) : (s.form1All p b n).canon := by
  induction n generalizing s with
  | zero => exact h
  | succ n ih =>
    unfold State.form1All
    split
    · exact ih _ (State.canon_form1 s p _ b h)
    · exact h

theorem State.canon_testMeets (s : State) (p : Nat) (b : Bool) (h : s.canon) : (s.testMeets p b).canon :=
  canon_foldl _ _ _ (fun s g hs => State.canon_meet0 s p g hs) (State.canon_form1All s p b 16 h)

theorem State.canon_endPack (s : State) (p : Nat) (h : s.canon) : (s.endPack p).canon := State.canon_setPack s p _ h

theorem State.canon_rollBack (s : State) (w : SpWin) (b : Bool) (h : s.canon) : (s.rollBack w b).canon := by
  unfold State.rollBack
  refine canon_foldl _ _ _ (fun s e hs => State.canon_updSlice s e.1 _ hs) ?_
  simp only [State.canon, Lanes.wf, Bool.and_eq_true] at *
  simp only [and_self, h, Sparse.wf_restore]

/-! ### Copies -/

theorem State.canon_acceptCopy (s : State) (k : Nat) (j : CopyJob) (h : s.canon) : (s.acceptCopy k j).canon := by
  simp only [State.canon, Cpy.wf, Bool.and_eq_true, State.acceptCopy] at *
  simp only [and_self, h, Sparse.wf_set]

theorem State.canon_takeEntry (s : State) (p i : Nat) (h : s.canon) : (s.takeEntry p i).canon := by
  unfold State.takeEntry
  dsimp only
  split
  · exact h
  · rename_i e _
    generalize hs : s.acceptCopy _ _ = s1
    have h1 : s1.canon := by rw [← hs]; exact State.canon_acceptCopy _ _ _ h
    simp only [State.canon, Ctl.wf, Cpy.wf, Bool.and_eq_true] at *
    obtain ⟨⟨⟨⟨m, l⟩, ⟨⟨⟨⟨⟨⟨⟨⟨⟨a1, a2⟩, a3⟩, a4⟩, a5⟩, a6⟩, a7⟩, a8⟩, a9⟩, a10⟩⟩, t⟩, ⟨⟨⟨c1, c2⟩, c3⟩, c4⟩⟩ := h1
    refine ⟨⟨⟨⟨m, l⟩, ⟨⟨⟨⟨⟨⟨⟨⟨⟨a1, a2⟩, a3⟩, Sparse.wf_set _ _ _ _ a4⟩, a5⟩, a6⟩, a7⟩, a8⟩, a9⟩, a10⟩⟩, t⟩, ⟨⟨⟨c1, c2⟩, ?_⟩, c4⟩⟩
    split
    · exact Sparse.wf_foldl_set _ _ _ _ _ c3
    · exact c3

theorem State.canon_fire (s : State) (p : Nat) (h : s.canon) : (s.fire p).canon := by
  unfold State.fire
  refine canon_foldl _ _ _ (fun s i hs => ?_) (State.canon_setPack _ _ _ h)
  split
  · exact State.canon_takeEntry _ _ _ hs
  · exact hs

theorem State.canon_raiseStage (s : State) (p n : Nat) (h : s.canon) : (s.raiseStage p n).canon := State.canon_fire _ _ (State.canon_setPack _ _ _ h)

theorem State.canon_cold (s : State) (h : s.canon) : s.cold.canon := by
  simp only [State.canon, Bool.and_eq_true] at h
  simp only [State.canon, State.cold, Bool.and_eq_true]
  exact ⟨⟨⟨⟨⟨Memory.wf_cold _ h.1.1.1.1.1, rfl⟩, rfl⟩, rfl⟩, rfl⟩, rfl⟩

/-! ### One change, and all changes of a step -/

theorem State.canon_mem (s : State) (m : Mem) (h : s.canon) (hm : Memory.wf m) : ({ s with mem := m } : State).canon := by
  simp only [State.canon, Bool.and_eq_true] at *
  exact ⟨⟨⟨⟨⟨hm, h.1.1.1.1.2⟩, h.1.1.1.2⟩, h.1.1.2⟩, h.1.2⟩, h.2⟩

theorem State.wf_journaled (s : State) (k n : Nat) (old : Option (List Byte)) (h : s.mat.wf) : (s.journaled k n old).wf := by
  unfold State.journaled
  split <;> exact h

theorem State.canon_setCk (s : State) (c : Nat) (x : Core) (h : s.canon) : (s.setCk c x).canon := by
  unfold State.setCk
  simp only [State.canon, Coh.wf, Bool.and_eq_true] at *
  split <;> simp only [and_self, h, Sparse.wf_set]

/-- Every change keeps the canonical form. -/
theorem Act.canon_apply (s : State) (a : Act) (h : s.canon) : (a.apply s).canon := by
  cases a <;> simp only [Act.apply]
  case pred l k b => split; · exact h
                     · simp only [State.canon, Lanes.wf, Bool.and_eq_true] at *
                       simp only [and_self, h, Sparse.wf_set]
  case slice => exact State.canon_updSlice _ _ _ h
  case trap => exact State.canon_takeTrap _ _ _ (State.canon_noteEntry _ _ _ h)
  case settle => split; · exact State.canon_divideAll _ _ _ _ h
                 · exact h
  case enter => exact State.canon_enter _ _ h
  case resplit => split; · exact h
                  · exact State.canon_divideAll _ _ _ _ h
  case meets => exact State.canon_testMeets _ _ _ h
  case packEnd => split; · exact State.canon_endPack _ _ h
                  · exact h
  case endPack => exact State.canon_endPack _ _ h
  case rollback => exact State.canon_rollBack _ _ _ h
  case accept => exact State.canon_acceptCopy _ _ _ h
  case stage => exact State.canon_raiseStage _ _ _ h
  case take => exact State.canon_takeEntry _ _ _ h
  case regroup => exact State.canon_enter _ _ (State.canon_refill _ (State.canon_leave _ _ h))
  case vacate => exact State.canon_refill _ (State.canon_leave _ _ h)
  case coldStart => exact State.canon_cold _ h
  case agentClock k t => split <;> (simp only [State.canon, Coh.wf, Bool.and_eq_true] at *; exact h)
  case gang => exact State.canon_setGang _ _ _ h
  case rstatus => exact State.canon_setGang _ _ _ h
  case split => exact State.canon_setSplit _ _ _ h
  case undef => exact State.canon_blurDst _ _ _ h
  case undefMem => exact State.canon_mem _ _ h (Memory.wf_blur _ _ _ (by simp only [State.canon, Bool.and_eq_true] at h; exact h.1.1.1.1.1))
  case freshPack =>
    simp only [State.canon, Bool.and_eq_true] at *
    exact ⟨⟨h.1.1, by unfold Mat.fenced; split <;> exact h.1.2⟩, h.2⟩
  case badEntry => exact State.canon_noteWalk _ _ _ h
  case raiseCk => exact State.canon_setCk _ _ _ h
  case core => exact State.canon_setCk _ _ _ h
  case refill | store | raise =>
    simp only [State.canon, Bool.and_eq_true] at *
    exact ⟨⟨⟨⟨⟨Memory.wf_write _ _ _ _ h.1.1.1.1.1, h.1.1.1.1.2⟩, h.1.1.1.2⟩, h.1.1.2⟩, State.wf_journaled _ _ _ _ h.1.2⟩, h.2⟩
  case addReq r =>
    simp only [State.canon, Coh.wf, Bool.and_eq_true, List.all_eq_true, decide_eq_true_eq] at *
    obtain ⟨⟨⟨⟨⟨m, ⟨⟨⟨⟨⟨c1, c2⟩, c3⟩, c4⟩, c5⟩, c6⟩⟩, l⟩, c⟩, t⟩, y⟩ := h
    refine ⟨⟨⟨⟨⟨m, ⟨⟨⟨⟨⟨c1, c2⟩, c3⟩, Sparse.wf_set _ _ _ _ c4⟩, c5⟩, ?_⟩⟩, l⟩, c⟩, t⟩, y⟩
    intro e he
    rcases Sparse.mem_set _ _ _ _ _ he with h | h
    · omega
    · have := c6 e h; omega
  case setReq id r =>
    split
    · next hid =>
      simp only [State.canon, Coh.wf, Bool.and_eq_true, List.all_eq_true, decide_eq_true_eq] at *
      obtain ⟨⟨⟨⟨⟨m, ⟨⟨⟨⟨⟨c1, c2⟩, c3⟩, c4⟩, c5⟩, c6⟩⟩, l⟩, c⟩, t⟩, y⟩ := h
      refine ⟨⟨⟨⟨⟨m, ⟨⟨⟨⟨⟨c1, c2⟩, c3⟩, Sparse.wf_set _ _ _ _ c4⟩, c5⟩, ?_⟩⟩, l⟩, c⟩, t⟩, y⟩
      intro e he
      rcases Sparse.mem_set _ _ _ _ _ he with h | h
      · omega
      · exact c6 e h
    · exact h
  case persistLine => exact State.canon_mem _ _ h (Memory.wf_toArray _ _ _ _ (by simp only [State.canon, Bool.and_eq_true] at h; exact h.1.1.1.1.1))
  all_goals
    simp only [State.canon, Lanes.wf, Ctl.wf, Coh.wf, Mat.wf, Cpy.wf, Bool.and_eq_true] at *
    first
      | exact h
      | (simp only [and_self, h, Sparse.wf_set]; done)
      | (simp only [and_self, h, Sparse.wf_filter]; done)
      | (simp only [and_self, h, Sparse.wf_filter, Memory.wf_copyRange]; done)
      | (simp only [Memory.wf, Bool.and_eq_true] at *; simp only [and_self, h, Sparse.wf_set, wf_nvWrite]; done)

/-- The effects of a step keep it. -/
theorem canon_applyAll (s : State) (es : List Eff) (h : s.canon) : (applyAll s es).canon :=
  canon_foldl _ _ _ (fun s e hs => Act.canon_apply s e.2 hs) h

theorem canon_commit (s : State) (es : List Eff) (h : s.canon) : (commit s es).canon := canon_applyAll s es h

end Sys2Proof.Machine
end

