-- ==== Sys2Proof/Laws/State.lean ====
section
/-! SUPPORT. What each update of the state leaves in each field: true by rfl, so that no proof unfolds a record update. Reading back what an update wrote, in a canonical state. -/
namespace Sys2Proof.Machine

@[simp] theorem State.updSlice_run (s : State) (x : Nat) (u : SliceUpd) : (s.updSlice x u).run = s.run := rfl
@[simp] theorem State.setSplit_run (s : State) (e : Nat) (v : Split) : (s.setSplit e v).run = s.run := rfl
@[simp] theorem State.setGang_run (s : State) (g : Nat) (v : Gang) : (s.setGang g v).run = s.run := rfl
@[simp] theorem State.leave_run (s : State) (ls : List Nat) : (s.leave ls).run = s.run := rfl
@[simp] theorem State.updSlice_log (s : State) (x : Nat) (u : SliceUpd) : (s.updSlice x u).log = s.log := rfl
@[simp] theorem State.setSplit_log (s : State) (e : Nat) (v : Split) : (s.setSplit e v).log = s.log := rfl
@[simp] theorem State.setGang_log (s : State) (g : Nat) (v : Gang) : (s.setGang g v).log = s.log := rfl
@[simp] theorem State.leave_log (s : State) (ls : List Nat) : (s.leave ls).log = s.log := rfl
@[simp] theorem State.updSlice_lanes (s : State) (x : Nat) (u : SliceUpd) : (s.updSlice x u).lanes = s.lanes := rfl
@[simp] theorem State.setSplit_lanes (s : State) (e : Nat) (v : Split) : (s.setSplit e v).lanes = s.lanes := rfl
@[simp] theorem State.setGang_lanes (s : State) (g : Nat) (v : Gang) : (s.setGang g v).lanes = s.lanes := rfl
@[simp] theorem State.leave_lanes (s : State) (ls : List Nat) : (s.leave ls).lanes = s.lanes := rfl
@[simp] theorem State.updSlice_mem (s : State) (x : Nat) (u : SliceUpd) : (s.updSlice x u).mem = s.mem := rfl
@[simp] theorem State.setSplit_mem (s : State) (e : Nat) (v : Split) : (s.setSplit e v).mem = s.mem := rfl
@[simp] theorem State.setGang_mem (s : State) (g : Nat) (v : Gang) : (s.setGang g v).mem = s.mem := rfl
@[simp] theorem State.leave_mem (s : State) (ls : List Nat) : (s.leave ls).mem = s.mem := rfl
@[simp] theorem State.updSlice_coh (s : State) (x : Nat) (u : SliceUpd) : (s.updSlice x u).coh = s.coh := rfl
@[simp] theorem State.setSplit_coh (s : State) (e : Nat) (v : Split) : (s.setSplit e v).coh = s.coh := rfl
@[simp] theorem State.setGang_coh (s : State) (g : Nat) (v : Gang) : (s.setGang g v).coh = s.coh := rfl
@[simp] theorem State.leave_coh (s : State) (ls : List Nat) : (s.leave ls).coh = s.coh := rfl
@[simp] theorem State.updSlice_maps (s : State) (x : Nat) (u : SliceUpd) : (s.updSlice x u).maps = s.maps := rfl
@[simp] theorem State.setSplit_maps (s : State) (e : Nat) (v : Split) : (s.setSplit e v).maps = s.maps := rfl
@[simp] theorem State.setGang_maps (s : State) (g : Nat) (v : Gang) : (s.setGang g v).maps = s.maps := rfl
@[simp] theorem State.leave_maps (s : State) (ls : List Nat) : (s.leave ls).maps = s.maps := rfl
@[simp] theorem State.updSlice_opq (s : State) (x : Nat) (u : SliceUpd) : (s.updSlice x u).opq = s.opq := rfl
@[simp] theorem State.setSplit_opq (s : State) (e : Nat) (v : Split) : (s.setSplit e v).opq = s.opq := rfl
@[simp] theorem State.setGang_opq (s : State) (g : Nat) (v : Gang) : (s.setGang g v).opq = s.opq := rfl
@[simp] theorem State.leave_opq (s : State) (ls : List Nat) : (s.leave ls).opq = s.opq := rfl
@[simp] theorem State.updSlice_mat (s : State) (x : Nat) (u : SliceUpd) : (s.updSlice x u).mat = s.mat := rfl
@[simp] theorem State.setSplit_mat (s : State) (e : Nat) (v : Split) : (s.setSplit e v).mat = s.mat := rfl
@[simp] theorem State.setGang_mat (s : State) (g : Nat) (v : Gang) : (s.setGang g v).mat = s.mat := rfl
@[simp] theorem State.leave_mat (s : State) (ls : List Nat) : (s.leave ls).mat = s.mat := rfl
@[simp] theorem State.updSlice_cpy (s : State) (x : Nat) (u : SliceUpd) : (s.updSlice x u).cpy = s.cpy := rfl
@[simp] theorem State.setSplit_cpy (s : State) (e : Nat) (v : Split) : (s.setSplit e v).cpy = s.cpy := rfl
@[simp] theorem State.setGang_cpy (s : State) (g : Nat) (v : Gang) : (s.setGang g v).cpy = s.cpy := rfl
@[simp] theorem State.leave_cpy (s : State) (ls : List Nat) : (s.leave ls).cpy = s.cpy := rfl
@[simp] theorem State.updSlice_fab (s : State) (x : Nat) (u : SliceUpd) : (s.updSlice x u).fab = s.fab := rfl
@[simp] theorem State.setSplit_fab (s : State) (e : Nat) (v : Split) : (s.setSplit e v).fab = s.fab := rfl
@[simp] theorem State.setGang_fab (s : State) (g : Nat) (v : Gang) : (s.setGang g v).fab = s.fab := rfl
@[simp] theorem State.leave_fab (s : State) (ls : List Nat) : (s.leave ls).fab = s.fab := rfl
@[simp] theorem State.updSlice_sun (s : State) (x : Nat) (u : SliceUpd) : (s.updSlice x u).sun = s.sun := rfl
@[simp] theorem State.setSplit_sun (s : State) (e : Nat) (v : Split) : (s.setSplit e v).sun = s.sun := rfl
@[simp] theorem State.setGang_sun (s : State) (g : Nat) (v : Gang) : (s.setGang g v).sun = s.sun := rfl
@[simp] theorem State.leave_sun (s : State) (ls : List Nat) : (s.leave ls).sun = s.sun := rfl
@[simp] theorem State.updSlice_sett (s : State) (x : Nat) (u : SliceUpd) : (s.updSlice x u).sett = s.sett := rfl
@[simp] theorem State.setSplit_sett (s : State) (e : Nat) (v : Split) : (s.setSplit e v).sett = s.sett := rfl
@[simp] theorem State.setGang_sett (s : State) (g : Nat) (v : Gang) : (s.setGang g v).sett = s.sett := rfl
@[simp] theorem State.leave_sett (s : State) (ls : List Nat) : (s.leave ls).sett = s.sett := rfl
@[simp] theorem State.updSlice_dev (s : State) (x : Nat) (u : SliceUpd) : (s.updSlice x u).dev = s.dev := rfl
@[simp] theorem State.setSplit_dev (s : State) (e : Nat) (v : Split) : (s.setSplit e v).dev = s.dev := rfl
@[simp] theorem State.setGang_dev (s : State) (g : Nat) (v : Gang) : (s.setGang g v).dev = s.dev := rfl
@[simp] theorem State.leave_dev (s : State) (ls : List Nat) : (s.leave ls).dev = s.dev := rfl
@[simp] theorem State.updSlice_ctl_splits (s : State) (x : Nat) (u : SliceUpd) : (s.updSlice x u).ctl.splits = s.ctl.splits := rfl
@[simp] theorem State.updSlice_ctl_gangs (s : State) (x : Nat) (u : SliceUpd) : (s.updSlice x u).ctl.gangs = s.ctl.gangs := rfl
@[simp] theorem State.updSlice_ctl_packs (s : State) (x : Nat) (u : SliceUpd) : (s.updSlice x u).ctl.packs = s.ctl.packs := rfl
@[simp] theorem State.updSlice_ctl_bars (s : State) (x : Nat) (u : SliceUpd) : (s.updSlice x u).ctl.bars = s.ctl.bars := rfl
@[simp] theorem State.updSlice_ctl_groupPh (s : State) (x : Nat) (u : SliceUpd) : (s.updSlice x u).ctl.groupPh = s.ctl.groupPh := rfl
@[simp] theorem State.updSlice_ctl_tcs (s : State) (x : Nat) (u : SliceUpd) : (s.updSlice x u).ctl.tcs = s.ctl.tcs := rfl
@[simp] theorem State.updSlice_ctl_uniform (s : State) (x : Nat) (u : SliceUpd) : (s.updSlice x u).ctl.uniform = s.ctl.uniform := rfl
@[simp] theorem State.updSlice_ctl_windows (s : State) (x : Nat) (u : SliceUpd) : (s.updSlice x u).ctl.windows = s.ctl.windows := rfl
@[simp] theorem State.updSlice_ctl_steps (s : State) (x : Nat) (u : SliceUpd) : (s.updSlice x u).ctl.steps = s.ctl.steps := rfl
@[simp] theorem State.updSlice_ctl_fatal (s : State) (x : Nat) (u : SliceUpd) : (s.updSlice x u).ctl.fatal = s.ctl.fatal := rfl
@[simp] theorem State.setSplit_ctl_slices (s : State) (e : Nat) (v : Split) : (s.setSplit e v).ctl.slices = s.ctl.slices := rfl
@[simp] theorem State.setSplit_ctl_gangs (s : State) (e : Nat) (v : Split) : (s.setSplit e v).ctl.gangs = s.ctl.gangs := rfl
@[simp] theorem State.setSplit_ctl_packs (s : State) (e : Nat) (v : Split) : (s.setSplit e v).ctl.packs = s.ctl.packs := rfl
@[simp] theorem State.setSplit_ctl_bars (s : State) (e : Nat) (v : Split) : (s.setSplit e v).ctl.bars = s.ctl.bars := rfl
@[simp] theorem State.setSplit_ctl_groupPh (s : State) (e : Nat) (v : Split) : (s.setSplit e v).ctl.groupPh = s.ctl.groupPh := rfl
@[simp] theorem State.setSplit_ctl_tcs (s : State) (e : Nat) (v : Split) : (s.setSplit e v).ctl.tcs = s.ctl.tcs := rfl
@[simp] theorem State.setSplit_ctl_uniform (s : State) (e : Nat) (v : Split) : (s.setSplit e v).ctl.uniform = s.ctl.uniform := rfl
@[simp] theorem State.setSplit_ctl_windows (s : State) (e : Nat) (v : Split) : (s.setSplit e v).ctl.windows = s.ctl.windows := rfl
@[simp] theorem State.setSplit_ctl_steps (s : State) (e : Nat) (v : Split) : (s.setSplit e v).ctl.steps = s.ctl.steps := rfl
@[simp] theorem State.setSplit_ctl_fatal (s : State) (e : Nat) (v : Split) : (s.setSplit e v).ctl.fatal = s.ctl.fatal := rfl
@[simp] theorem State.setGang_ctl_slices (s : State) (g : Nat) (v : Gang) : (s.setGang g v).ctl.slices = s.ctl.slices := rfl
@[simp] theorem State.setGang_ctl_splits (s : State) (g : Nat) (v : Gang) : (s.setGang g v).ctl.splits = s.ctl.splits := rfl
@[simp] theorem State.setGang_ctl_packs (s : State) (g : Nat) (v : Gang) : (s.setGang g v).ctl.packs = s.ctl.packs := rfl
@[simp] theorem State.setGang_ctl_bars (s : State) (g : Nat) (v : Gang) : (s.setGang g v).ctl.bars = s.ctl.bars := rfl
@[simp] theorem State.setGang_ctl_groupPh (s : State) (g : Nat) (v : Gang) : (s.setGang g v).ctl.groupPh = s.ctl.groupPh := rfl
@[simp] theorem State.setGang_ctl_tcs (s : State) (g : Nat) (v : Gang) : (s.setGang g v).ctl.tcs = s.ctl.tcs := rfl
@[simp] theorem State.setGang_ctl_uniform (s : State) (g : Nat) (v : Gang) : (s.setGang g v).ctl.uniform = s.ctl.uniform := rfl
@[simp] theorem State.setGang_ctl_windows (s : State) (g : Nat) (v : Gang) : (s.setGang g v).ctl.windows = s.ctl.windows := rfl
@[simp] theorem State.setGang_ctl_steps (s : State) (g : Nat) (v : Gang) : (s.setGang g v).ctl.steps = s.ctl.steps := rfl
@[simp] theorem State.setGang_ctl_fatal (s : State) (g : Nat) (v : Gang) : (s.setGang g v).ctl.fatal = s.ctl.fatal := rfl
@[simp] theorem State.leave_ctl_slices (s : State) (ls : List Nat) : (s.leave ls).ctl.slices = s.ctl.slices := rfl
@[simp] theorem State.leave_ctl_gangs (s : State) (ls : List Nat) : (s.leave ls).ctl.gangs = s.ctl.gangs := rfl
@[simp] theorem State.leave_ctl_packs (s : State) (ls : List Nat) : (s.leave ls).ctl.packs = s.ctl.packs := rfl
@[simp] theorem State.leave_ctl_bars (s : State) (ls : List Nat) : (s.leave ls).ctl.bars = s.ctl.bars := rfl
@[simp] theorem State.leave_ctl_groupPh (s : State) (ls : List Nat) : (s.leave ls).ctl.groupPh = s.ctl.groupPh := rfl
@[simp] theorem State.leave_ctl_tcs (s : State) (ls : List Nat) : (s.leave ls).ctl.tcs = s.ctl.tcs := rfl
@[simp] theorem State.leave_ctl_uniform (s : State) (ls : List Nat) : (s.leave ls).ctl.uniform = s.ctl.uniform := rfl
@[simp] theorem State.leave_ctl_windows (s : State) (ls : List Nat) : (s.leave ls).ctl.windows = s.ctl.windows := rfl
@[simp] theorem State.leave_ctl_steps (s : State) (ls : List Nat) : (s.leave ls).ctl.steps = s.ctl.steps := rfl
@[simp] theorem State.leave_ctl_fatal (s : State) (ls : List Nat) : (s.leave ls).ctl.fatal = s.ctl.fatal := rfl
/-- Where nothing holds an undefined value, an ac leaves every value of it as it was (R6). -/
theorem State.drift_of_defined (s : State) (hl : s.lanes.undef = []) (hm : s.mem.undef = []) (ht : s.mat.undef = []) : s.drift = s := by
  obtain ⟨_, _, lanes, _, mem, _, _, _, mat, _, _, _, _, _⟩ := s
  cases lanes; cases mem; cases mat
  simp_all [State.drift]
@[simp] theorem State.tickAc_log (s : State) : s.tickAc.log = s.log := rfl
@[simp] theorem State.usePick_log (s : State) : s.usePick.log = s.log := rfl
@[simp] theorem State.tickAc_lanes (s : State) : s.tickAc.lanes = s.drift.lanes := rfl
@[simp] theorem State.usePick_lanes (s : State) : s.usePick.lanes = s.lanes := rfl
@[simp] theorem State.tickAc_ctl (s : State) : s.tickAc.ctl = s.ctl := rfl
@[simp] theorem State.usePick_ctl (s : State) : s.usePick.ctl = s.ctl := rfl
@[simp] theorem State.tickAc_mem (s : State) : s.tickAc.mem = s.drift.mem := rfl
@[simp] theorem State.usePick_mem (s : State) : s.usePick.mem = s.mem := rfl
@[simp] theorem State.tickAc_coh (s : State) : s.tickAc.coh = s.coh := rfl
@[simp] theorem State.usePick_coh (s : State) : s.usePick.coh = s.coh := rfl
@[simp] theorem State.tickAc_maps (s : State) : s.tickAc.maps = s.maps := rfl
@[simp] theorem State.usePick_maps (s : State) : s.usePick.maps = s.maps := rfl
@[simp] theorem State.tickAc_opq (s : State) : s.tickAc.opq = s.opq := rfl
@[simp] theorem State.usePick_opq (s : State) : s.usePick.opq = s.opq := rfl
@[simp] theorem State.tickAc_mat (s : State) : s.tickAc.mat = s.drift.mat := rfl
@[simp] theorem State.usePick_mat (s : State) : s.usePick.mat = s.mat := rfl
@[simp] theorem State.tickAc_cpy (s : State) : s.tickAc.cpy = s.cpy := rfl
@[simp] theorem State.usePick_cpy (s : State) : s.usePick.cpy = s.cpy := rfl
@[simp] theorem State.tickAc_fab (s : State) : s.tickAc.fab = s.fab := rfl
@[simp] theorem State.usePick_fab (s : State) : s.usePick.fab = s.fab := rfl
@[simp] theorem State.tickAc_sun (s : State) : s.tickAc.sun = s.sun := rfl
@[simp] theorem State.usePick_sun (s : State) : s.usePick.sun = s.sun := rfl
@[simp] theorem State.tickAc_sett (s : State) : s.tickAc.sett = s.sett := rfl
@[simp] theorem State.usePick_sett (s : State) : s.usePick.sett = s.sett := rfl
@[simp] theorem State.tickAc_dev (s : State) : s.tickAc.dev = s.dev := rfl
@[simp] theorem State.usePick_dev (s : State) : s.usePick.dev = s.dev := rfl
@[simp] theorem State.tickAc_ac (s : State) : s.tickAc.run.ac = s.run.ac + 1 := rfl
@[simp] theorem State.tickAc_cur (s : State) : s.tickAc.run.cur = none := rfl
@[simp] theorem State.usePick_ac (s : State) : s.usePick.run.ac = s.run.ac := rfl
@[simp] theorem State.cold_dev (s : State) : s.cold.dev = s.dev.cold := rfl
@[simp] theorem State.cold_mem (s : State) : s.cold.mem = s.mem.cold := rfl
@[simp] theorem State.cold_ctl (s : State) : s.cold.ctl = {} := rfl
@[simp] theorem State.cold_lanes (s : State) : s.cold.lanes = {} := rfl
@[simp] theorem State.cold_sun (s : State) : s.cold.sun = {} := rfl
@[simp] theorem State.cold_maps (s : State) : s.cold.maps = {} := rfl

/-- A slice reads back after its update. -/
theorem State.updSlice_same (s : State) (x : Nat) (u : SliceUpd) (h : Sparse.wf {} s.ctl.slices = true) : (s.updSlice x u).slice x = (s.slice x).upd u :=
  Sparse.get_set_same _ _ _ _ h
/-- Another slice is as it was. -/
theorem State.updSlice_other (s : State) (x y : Nat) (u : SliceUpd) (h : Sparse.wf {} s.ctl.slices = true) (hy : y ≠ x) : (s.updSlice x u).slice y = s.slice y :=
  Sparse.get_set_other _ _ _ _ _ h hy
/-- A split reads back after its update. -/
theorem State.split_setSplit (s : State) (e : Nat) (v : Split) (h : Sparse.wf {} s.ctl.splits = true) : (s.setSplit e v).split e = v := Sparse.get_set_same _ _ _ _ h
/-- Another split is as it was. -/
theorem State.split_setSplit_other (s : State) (e d : Nat) (v : Split) (h : Sparse.wf {} s.ctl.splits = true) (hd : d ≠ e) : (s.setSplit e v).split d = s.split d :=
  Sparse.get_set_other _ _ _ _ _ h hd
/-- A gang reads back after its update. -/
theorem State.gang_setGang (s : State) (g : Nat) (v : Gang) (h : Sparse.wf {} s.ctl.gangs = true) : (s.setGang g v).gang g = v := Sparse.get_set_same _ _ _ _ h
/-- Another gang is as it was. -/
theorem State.gang_setGang_other (s : State) (g k : Nat) (v : Gang) (h : Sparse.wf {} s.ctl.gangs = true) (hk : k ≠ g) : (s.setGang g v).gang k = s.gang k :=
  Sparse.get_set_other _ _ _ _ _ h hk

end Sys2Proof.Machine
end

