-- ==== Sys2Proof/Laws/Parts.lean ====
section
/-! SUPPORT. Which parts of the state each change (Act) may change, and that it leaves the others as they are. -/
namespace Sys2Proof.Machine

/-- The parts of the state. -/
inductive Field where
  | run | log | lanes | ctl | mem | coh | maps | opq | mat | cpy | fab | sun | sett | dev
  deriving DecidableEq, Repr

/-- The parts a change may change. -/
def Act.parts : Act → List Field
  | .reg _ _ _ _ => [.lanes]
  | .pred _ _ _ => [.lanes]
  | .idx _ _ _ => [.lanes]
  | .untag _ _ _ => [.lanes]
  | .undef _ _ => [.lanes]
  | .undefMem _ _ => [.mem]
  | .undefEl _ => [.mat]
  | .slice _ _ => [.ctl]
  | .trap _ _ => [.ctl, .dev]
  | .gang _ _ => [.ctl]
  | .rstatus _ _ _ => [.ctl]
  | .pack _ _ => [.ctl]
  | .bar _ _ => [.ctl]
  | .raise _ _ => [.mem, .mat]
  | .groupPhase _ _ _ => [.ctl]
  | .tc _ _ => [.ctl]
  | .split _ _ => [.ctl]
  | .uniform _ _ => [.ctl]
  | .settle => [.ctl]
  | .enter _ => [.ctl]
  | .resplit _ => [.ctl]
  | .meets _ _ => [.ctl]
  | .packEnd _ => [.ctl, .fab]
  | .window _ _ => [.ctl]
  | .rollback _ _ => [.lanes, .ctl]
  | .addPersist _ => [.opq]
  | .el _ _ _ => [.mat]
  | .tile _ _ => [.mat]
  | .addMma _ => [.mat]
  | .setMma _ _ => [.mat]
  | .engine _ _ => [.mat]
  | .stale _ => [.mat]
  | .freshSlice _ => [.mat]
  | .freshPack _ => [.mat]
  | .observe _ => [.mat]
  | .drains _ _ => [.mat]
  | .badEntry _ _ => [.dev]
  | .regroup _ => [.ctl]
  | .opq _ => [.opq]
  | .accept _ _ => [.cpy]
  | .cqueue _ _ => [.cpy]
  | .slots _ _ _ => [.cpy]
  | .cover _ _ => [.cpy]
  | .turn _ _ => [.cpy]
  | .stage _ _ => [.ctl, .cpy]
  | .take _ _ => [.ctl, .cpy]
  | .fab _ => [.fab]
  | .cap _ _ => [.fab]
  | .fresh _ _ => [.fab]
  | .bulkOp _ => [.fab]
  | .message _ => [.fab]
  | .unpark _ _ _ => [.fab]
  | .refill _ _ _ => [.mem, .sett, .mat]
  | .store _ _ _ => [.mem, .sett, .mat]
  | .mark _ _ => [.mem]
  | .wmark _ _ => [.mem]
  | .full _ _ => [.mem]
  | .times _ _ _ => [.mem]
  | .dirty _ _ => [.mem]
  | .persistLine _ => [.mem]
  | .array _ _ => [.mem]
  | .arrayMark _ _ => [.mem]
  | .addReq _ => [.coh]
  | .setReq _ _ => [.coh]
  | .raiseCk _ _ => [.coh]
  | .raiseObsv _ _ => [.coh]
  | .core _ _ => [.coh]
  | .die _ _ => [.coh]
  | .copy _ _ => [.coh]
  | .tlb _ _ => [.maps, .sun]
  | .icache _ _ => [.coh]
  | .icacheDrop _ => [.coh]
  | .agentClock _ _ => [.coh]
  | .copyRange _ _ _ => [.mem, .coh, .maps, .mat, .sett]
  | .maps _ => [.maps]
  | .sun _ => [.sun]
  | .queue _ _ => [.sun]
  | .active _ => [.sun]
  | .dropActive _ _ => [.sun]
  | .launch _ _ => [.sun]
  | .bin _ _ => [.sun]
  | .sett _ => [.sett]
  | .carry _ _ => [.sun]
  | .ran _ _ => [.sun]
  | .record _ => [.dev]
  | .suspect _ _ => [.dev]
  | .send _ => [.dev]
  | .steps _ _ => [.ctl]
  | .dev _ => [.dev]
  | .newPack => [.ctl]
  | .vacate _ => [.ctl]
  | .endPack _ => [.ctl, .fab]
  | .coldStart => [.run, .lanes, .ctl, .mem, .coh, .maps, .opq, .mat, .cpy, .fab, .sun, .sett, .dev]
  | .draw _ => [.run]
  | .cur _ => [.run]
  | .countIssue => [.run]

/-- Applying a list of items keeps what each item keeps. -/
theorem foldl_keeps {S A B : Type} (p : S → B) (f : S → A → S) (l : List A) (s : S) (h : ∀ s a, p (f s a) = p s) : p (l.foldl f s) = p s := by
  induction l generalizing s with
  | nil => rfl
  | cons a l ih => rw [List.foldl_cons, ih, h]


/-- Two states differ in nothing but the split tables. -/
def OnlySplits (s t : State) : Prop := t = { s with ctl := { s.ctl with splits := t.ctl.splits } }
/-- Two states differ in nothing but control. -/
def OnlyCtl (s t : State) : Prop := t = { s with ctl := t.ctl }
/-- Two states differ in nothing but control and copies. -/
def OnlyCtlCpy (s t : State) : Prop := t = { s with ctl := t.ctl, cpy := t.cpy }

theorem OnlySplits.trans {s t u : State} (h : OnlySplits s t) (k : OnlySplits t u) : OnlySplits s u := by
  unfold OnlySplits at *; rw [k, h]
theorem OnlyCtl.trans {s t u : State} (h : OnlyCtl s t) (k : OnlyCtl t u) : OnlyCtl s u := by
  unfold OnlyCtl at *; rw [k, h]
theorem OnlyCtlCpy.trans {s t u : State} (h : OnlyCtlCpy s t) (k : OnlyCtlCpy t u) : OnlyCtlCpy s u := by
  unfold OnlyCtlCpy at *; rw [k, h]
theorem OnlySplits.ctl {s t : State} (h : OnlySplits s t) : OnlyCtl s t := by
  unfold OnlySplits OnlyCtl at *; rw [h]
theorem OnlyCtl.cpy {s t : State} (h : OnlyCtl s t) : OnlyCtlCpy s t := by
  unfold OnlyCtlCpy OnlyCtl at *; rw [h]
theorem OnlySplits.slices {s t : State} (h : OnlySplits s t) : t.ctl.slices = s.ctl.slices := by rw [h]

theorem OnlySplits.foldl {A : Type} (f : State → A → State) (l : List A) (s : State) (h : ∀ s a, OnlySplits s (f s a)) : OnlySplits s (l.foldl f s) := by
  induction l generalizing s with
  | nil => rfl
  | cons a l ih => exact (h s a).trans (ih _)
theorem OnlyCtl.foldl {A : Type} (f : State → A → State) (l : List A) (s : State) (h : ∀ s a, OnlyCtl s (f s a)) : OnlyCtl s (l.foldl f s) := by
  induction l generalizing s with
  | nil => rfl
  | cons a l ih => exact (h s a).trans (ih _)
theorem OnlyCtlCpy.foldl {A : Type} (f : State → A → State) (l : List A) (s : State) (h : ∀ s a, OnlyCtlCpy s (f s a)) : OnlyCtlCpy s (l.foldl f s) := by
  induction l generalizing s with
  | nil => rfl
  | cons a l ih => exact (h s a).trans (ih _)

theorem State.setSplit_only (s : State) (e : Nat) (v : Split) : OnlySplits s (s.setSplit e v) := rfl
theorem State.leave_only (s : State) (ls : List Nat) : OnlySplits s (s.leave ls) := rfl
theorem State.updSlice_only (s : State) (x : Nat) (u : SliceUpd) : OnlyCtl s (s.updSlice x u) := rfl
theorem State.setGang_only (s : State) (g : Nat) (v : Gang) : OnlyCtl s (s.setGang g v) := rfl

theorem State.spread_only (s : State) (like : Split) (gs : List (List Nat)) (es : List Nat) : OnlySplits s (s.spread like gs es) := by
  induction gs generalizing s es with
  | nil => rfl
  | cons g gs ih =>
    cases es with
    | nil => rfl
    | cons e es => exact (State.setSplit_only s e _).trans (ih _ _)

theorem State.divide_only (s : State) (e : Nat) (stay : Option (Nat × Nat)) : OnlySplits s (s.divide e stay) := by
  unfold State.divide
  dsimp only
  split
  · split <;> rfl
  · rfl
  · split
    · exact (State.setSplit_only _ _ _).trans (State.spread_only _ _ _ _)
    · rfl

theorem State.divideAll_only (s : State) (e : Nat) (stay : Option (Nat × Nat)) (n : Nat) : OnlySplits s (s.divideAll e stay n) := by
  induction n generalizing s stay with
  | zero => rfl
  | succ n ih =>
    unfold State.divideAll
    dsimp only
    split
    · exact (State.divide_only s e stay).trans (ih _ _)
    · exact State.divide_only s e stay

theorem State.enter_only (s : State) (ls : List Nat) : OnlySplits s (s.enter ls) := by
  unfold State.enter
  split
  · rfl
  · dsimp only
    split
    · exact State.spread_only _ _ _ _
    · rfl

theorem State.refill_only (s : State) : OnlySplits s s.refill := by
  unfold State.refill
  apply OnlySplits.foldl
  intro s e
  split
  · exact State.divideAll_only _ _ _ _
  · rfl

theorem State.takeTrap_only (s : State) (sl : Nat) (t : Trap) : OnlyCtl s (s.takeTrap sl t) := by
  unfold State.takeTrap
  extract_lets x p hm
  obtain ⟨⟨rp, rw_⟩, dist⟩ := s.resumeOf x t
  dsimp only
  split
  · exact OnlyCtl.trans (t := { s with ctl := _ }) rfl (OnlyCtl.foldl _ _ _ (fun s o => State.updSlice_only s o _))
  · rfl

theorem State.release_only (s : State) (ls : List Nat) : OnlyCtl s (s.release ls) := by
  unfold State.release
  apply OnlyCtl.foldl
  intro s x
  exact (State.updSlice_only s x _).trans (State.updSlice_only _ x _)

theorem State.meet0_only (s : State) (p g : Nat) : OnlyCtl s (s.meet0 p g) := by
  unfold State.meet0
  dsimp only
  split
  · rfl
  · split
    · rfl
    · split
      · split
        · rfl
        · split
          · rfl
          · exact (State.release_only _ _).trans (State.enter_only _ _).ctl
      · exact OnlyCtl.trans (OnlyCtl.foldl _ _ _ (fun s x => State.takeTrap_only s x _)) (State.enter_only _ _).ctl

theorem State.form1_only (s : State) (p : Nat) (k : Nat × Nat) (b : Bool) : OnlyCtl s (s.form1 p k b).1 := by
  unfold State.form1
  dsimp only
  split
  · rfl
  · split
    · rfl
    · refine OnlyCtl.trans ?_ (State.enter_only _ _).ctl
      refine OnlyCtl.trans ?_ (State.release_only _ _)
      exact (State.setGang_only _ _ _).trans (OnlyCtl.foldl _ _ _ (fun s e => State.updSlice_only s e.1 _))

theorem State.form1All_only (s : State) (p : Nat) (b : Bool) (n : Nat) : OnlyCtl s (s.form1All p b n) := by
  induction n generalizing s with
  | zero => rfl
  | succ n ih =>
    unfold State.form1All
    split
    · exact (State.form1_only _ _ _ _).trans (ih _)
    · rfl

theorem State.testMeets_only (s : State) (p : Nat) (b : Bool) : OnlyCtl s (s.testMeets p b) :=
  (State.form1All_only s p b 16).trans (OnlyCtl.foldl _ _ _ (fun s g => State.meet0_only s p g))

theorem State.acceptCopy_only (s : State) (k : Nat) (j : CopyJob) : OnlyCtlCpy s (s.acceptCopy k j) := rfl

theorem State.takeEntry_only (s : State) (p i : Nat) : OnlyCtlCpy s (s.takeEntry p i) := by
  unfold State.takeEntry
  dsimp only
  split <;> rfl

theorem State.raiseStage_only (s : State) (p n : Nat) : OnlyCtlCpy s (s.raiseStage p n) := by
  unfold State.raiseStage State.fire
  dsimp only
  refine OnlyCtlCpy.trans (t := { s with ctl := _ }) rfl (OnlyCtlCpy.foldl _ _ _ (fun s i => ?_))
  split
  · exact State.takeEntry_only _ _ _
  · rfl

theorem State.noteWalk_only (s : State) (asid va : Nat) : s.noteWalk asid va = { s with dev := (s.noteWalk asid va).dev } := by
  unfold State.noteWalk
  repeat' split
  all_goals rfl

theorem State.noteEntry_only (s : State) (sl : Nat) (t : Trap) : s.noteEntry sl t = { s with dev := (s.noteEntry sl t).dev } := by
  unfold State.noteEntry
  split
  · exact State.noteWalk_only _ _ _
  · rfl

theorem State.rollBack_only (s : State) (w : SpWin) (b : Bool) : s.rollBack w b = { s with lanes := (s.rollBack w b).lanes, ctl := (s.rollBack w b).ctl } := by
  have h : ∀ (l : List (Nat × Window × Window × Window × Window)) (f : State → (Nat × Window × Window × Window × Window) → Slice) (s1 : State),
      OnlyCtl s1 (l.foldl (fun s e => s.updSlice e.1 (.replace (f s e))) s1) := by
    intro l f s1
    exact OnlyCtl.foldl _ _ _ (fun s e => State.updSlice_only s e.1 _)
  unfold State.rollBack
  dsimp only
  rw [h w.wins]

/-! ### One change -/

theorem Act.keeps_run (s : State) (a : Act) (h : Field.run ∉ a.parts) : (a.apply s).run = s.run := by
  cases a
  case trap sl t => first | (simp [Act.parts] at h; done) | (simp only [Act.apply]; rw [State.takeTrap_only, State.noteEntry_only])
  case settle => first | (simp [Act.parts] at h; done) | (simp only [Act.apply]; split <;> first | rfl | rw [State.divideAll_only])
  case enter => first | (simp [Act.parts] at h; done) | (simp only [Act.apply]; rw [State.enter_only])
  case resplit => first | (simp [Act.parts] at h; done) | (simp only [Act.apply]; split <;> first | rfl | rw [State.divideAll_only])
  case meets => first | (simp [Act.parts] at h; done) | (simp only [Act.apply]; rw [State.testMeets_only])
  case rollback => first | (simp [Act.parts] at h; done) | (simp only [Act.apply]; rw [State.rollBack_only])
  case regroup => first | (simp [Act.parts] at h; done) | (simp only [Act.apply]; rw [State.enter_only, State.refill_only]; rfl)
  case vacate => first | (simp [Act.parts] at h; done) | (simp only [Act.apply]; rw [State.refill_only]; rfl)
  case stage => first | (simp [Act.parts] at h; done) | (simp only [Act.apply]; rw [State.raiseStage_only])
  case take => first | (simp [Act.parts] at h; done) | (simp only [Act.apply]; rw [State.takeEntry_only])
  case badEntry => first | (simp [Act.parts] at h; done) | (simp only [Act.apply]; rw [State.noteWalk_only])
  all_goals first
    | rfl
    | (simp [Act.parts] at h; done)
    | (simp only [Act.apply]; split <;> rfl)
theorem Act.keeps_log (s : State) (a : Act) (h : Field.log ∉ a.parts) : (a.apply s).log = s.log := by
  cases a
  case trap sl t => first | (simp [Act.parts] at h; done) | (simp only [Act.apply]; rw [State.takeTrap_only, State.noteEntry_only])
  case settle => first | (simp [Act.parts] at h; done) | (simp only [Act.apply]; split <;> first | rfl | rw [State.divideAll_only])
  case enter => first | (simp [Act.parts] at h; done) | (simp only [Act.apply]; rw [State.enter_only])
  case resplit => first | (simp [Act.parts] at h; done) | (simp only [Act.apply]; split <;> first | rfl | rw [State.divideAll_only])
  case meets => first | (simp [Act.parts] at h; done) | (simp only [Act.apply]; rw [State.testMeets_only])
  case rollback => first | (simp [Act.parts] at h; done) | (simp only [Act.apply]; rw [State.rollBack_only])
  case regroup => first | (simp [Act.parts] at h; done) | (simp only [Act.apply]; rw [State.enter_only, State.refill_only]; rfl)
  case vacate => first | (simp [Act.parts] at h; done) | (simp only [Act.apply]; rw [State.refill_only]; rfl)
  case stage => first | (simp [Act.parts] at h; done) | (simp only [Act.apply]; rw [State.raiseStage_only])
  case take => first | (simp [Act.parts] at h; done) | (simp only [Act.apply]; rw [State.takeEntry_only])
  case badEntry => first | (simp [Act.parts] at h; done) | (simp only [Act.apply]; rw [State.noteWalk_only])
  all_goals first
    | rfl
    | (simp [Act.parts] at h; done)
    | (simp only [Act.apply]; split <;> rfl)
theorem Act.keeps_lanes (s : State) (a : Act) (h : Field.lanes ∉ a.parts) : (a.apply s).lanes = s.lanes := by
  cases a
  case trap sl t => first | (simp [Act.parts] at h; done) | (simp only [Act.apply]; rw [State.takeTrap_only, State.noteEntry_only])
  case settle => first | (simp [Act.parts] at h; done) | (simp only [Act.apply]; split <;> first | rfl | rw [State.divideAll_only])
  case enter => first | (simp [Act.parts] at h; done) | (simp only [Act.apply]; rw [State.enter_only])
  case resplit => first | (simp [Act.parts] at h; done) | (simp only [Act.apply]; split <;> first | rfl | rw [State.divideAll_only])
  case meets => first | (simp [Act.parts] at h; done) | (simp only [Act.apply]; rw [State.testMeets_only])
  case rollback => first | (simp [Act.parts] at h; done) | (simp only [Act.apply]; rw [State.rollBack_only])
  case regroup => first | (simp [Act.parts] at h; done) | (simp only [Act.apply]; rw [State.enter_only, State.refill_only]; rfl)
  case vacate => first | (simp [Act.parts] at h; done) | (simp only [Act.apply]; rw [State.refill_only]; rfl)
  case stage => first | (simp [Act.parts] at h; done) | (simp only [Act.apply]; rw [State.raiseStage_only])
  case take => first | (simp [Act.parts] at h; done) | (simp only [Act.apply]; rw [State.takeEntry_only])
  case badEntry => first | (simp [Act.parts] at h; done) | (simp only [Act.apply]; rw [State.noteWalk_only])
  all_goals first
    | rfl
    | (simp [Act.parts] at h; done)
    | (simp only [Act.apply]; split <;> rfl)
theorem Act.keeps_ctl (s : State) (a : Act) (h : Field.ctl ∉ a.parts) : (a.apply s).ctl = s.ctl := by
  cases a
  case trap sl t => first | (simp [Act.parts] at h; done) | (simp only [Act.apply]; rw [State.takeTrap_only, State.noteEntry_only])
  case settle => first | (simp [Act.parts] at h; done) | (simp only [Act.apply]; split <;> first | rfl | rw [State.divideAll_only])
  case enter => first | (simp [Act.parts] at h; done) | (simp only [Act.apply]; rw [State.enter_only])
  case resplit => first | (simp [Act.parts] at h; done) | (simp only [Act.apply]; split <;> first | rfl | rw [State.divideAll_only])
  case meets => first | (simp [Act.parts] at h; done) | (simp only [Act.apply]; rw [State.testMeets_only])
  case rollback => first | (simp [Act.parts] at h; done) | (simp only [Act.apply]; rw [State.rollBack_only])
  case regroup => first | (simp [Act.parts] at h; done) | (simp only [Act.apply]; rw [State.enter_only, State.refill_only]; rfl)
  case vacate => first | (simp [Act.parts] at h; done) | (simp only [Act.apply]; rw [State.refill_only]; rfl)
  case stage => first | (simp [Act.parts] at h; done) | (simp only [Act.apply]; rw [State.raiseStage_only])
  case take => first | (simp [Act.parts] at h; done) | (simp only [Act.apply]; rw [State.takeEntry_only])
  case badEntry => first | (simp [Act.parts] at h; done) | (simp only [Act.apply]; rw [State.noteWalk_only])
  all_goals first
    | rfl
    | (simp [Act.parts] at h; done)
    | (simp only [Act.apply]; split <;> rfl)
theorem Act.keeps_mem (s : State) (a : Act) (h : Field.mem ∉ a.parts) : (a.apply s).mem = s.mem := by
  cases a
  case trap sl t => first | (simp [Act.parts] at h; done) | (simp only [Act.apply]; rw [State.takeTrap_only, State.noteEntry_only])
  case settle => first | (simp [Act.parts] at h; done) | (simp only [Act.apply]; split <;> first | rfl | rw [State.divideAll_only])
  case enter => first | (simp [Act.parts] at h; done) | (simp only [Act.apply]; rw [State.enter_only])
  case resplit => first | (simp [Act.parts] at h; done) | (simp only [Act.apply]; split <;> first | rfl | rw [State.divideAll_only])
  case meets => first | (simp [Act.parts] at h; done) | (simp only [Act.apply]; rw [State.testMeets_only])
  case rollback => first | (simp [Act.parts] at h; done) | (simp only [Act.apply]; rw [State.rollBack_only])
  case regroup => first | (simp [Act.parts] at h; done) | (simp only [Act.apply]; rw [State.enter_only, State.refill_only]; rfl)
  case vacate => first | (simp [Act.parts] at h; done) | (simp only [Act.apply]; rw [State.refill_only]; rfl)
  case stage => first | (simp [Act.parts] at h; done) | (simp only [Act.apply]; rw [State.raiseStage_only])
  case take => first | (simp [Act.parts] at h; done) | (simp only [Act.apply]; rw [State.takeEntry_only])
  case badEntry => first | (simp [Act.parts] at h; done) | (simp only [Act.apply]; rw [State.noteWalk_only])
  all_goals first
    | rfl
    | (simp [Act.parts] at h; done)
    | (simp only [Act.apply]; split <;> rfl)
theorem Act.keeps_coh (s : State) (a : Act) (h : Field.coh ∉ a.parts) : (a.apply s).coh = s.coh := by
  cases a
  case trap sl t => first | (simp [Act.parts] at h; done) | (simp only [Act.apply]; rw [State.takeTrap_only, State.noteEntry_only])
  case settle => first | (simp [Act.parts] at h; done) | (simp only [Act.apply]; split <;> first | rfl | rw [State.divideAll_only])
  case enter => first | (simp [Act.parts] at h; done) | (simp only [Act.apply]; rw [State.enter_only])
  case resplit => first | (simp [Act.parts] at h; done) | (simp only [Act.apply]; split <;> first | rfl | rw [State.divideAll_only])
  case meets => first | (simp [Act.parts] at h; done) | (simp only [Act.apply]; rw [State.testMeets_only])
  case rollback => first | (simp [Act.parts] at h; done) | (simp only [Act.apply]; rw [State.rollBack_only])
  case regroup => first | (simp [Act.parts] at h; done) | (simp only [Act.apply]; rw [State.enter_only, State.refill_only]; rfl)
  case vacate => first | (simp [Act.parts] at h; done) | (simp only [Act.apply]; rw [State.refill_only]; rfl)
  case stage => first | (simp [Act.parts] at h; done) | (simp only [Act.apply]; rw [State.raiseStage_only])
  case take => first | (simp [Act.parts] at h; done) | (simp only [Act.apply]; rw [State.takeEntry_only])
  case badEntry => first | (simp [Act.parts] at h; done) | (simp only [Act.apply]; rw [State.noteWalk_only])
  all_goals first
    | rfl
    | (simp [Act.parts] at h; done)
    | (simp only [Act.apply]; split <;> rfl)
theorem Act.keeps_maps (s : State) (a : Act) (h : Field.maps ∉ a.parts) : (a.apply s).maps = s.maps := by
  cases a
  case trap sl t => first | (simp [Act.parts] at h; done) | (simp only [Act.apply]; rw [State.takeTrap_only, State.noteEntry_only])
  case settle => first | (simp [Act.parts] at h; done) | (simp only [Act.apply]; split <;> first | rfl | rw [State.divideAll_only])
  case enter => first | (simp [Act.parts] at h; done) | (simp only [Act.apply]; rw [State.enter_only])
  case resplit => first | (simp [Act.parts] at h; done) | (simp only [Act.apply]; split <;> first | rfl | rw [State.divideAll_only])
  case meets => first | (simp [Act.parts] at h; done) | (simp only [Act.apply]; rw [State.testMeets_only])
  case rollback => first | (simp [Act.parts] at h; done) | (simp only [Act.apply]; rw [State.rollBack_only])
  case regroup => first | (simp [Act.parts] at h; done) | (simp only [Act.apply]; rw [State.enter_only, State.refill_only]; rfl)
  case vacate => first | (simp [Act.parts] at h; done) | (simp only [Act.apply]; rw [State.refill_only]; rfl)
  case stage => first | (simp [Act.parts] at h; done) | (simp only [Act.apply]; rw [State.raiseStage_only])
  case take => first | (simp [Act.parts] at h; done) | (simp only [Act.apply]; rw [State.takeEntry_only])
  case badEntry => first | (simp [Act.parts] at h; done) | (simp only [Act.apply]; rw [State.noteWalk_only])
  all_goals first
    | rfl
    | (simp [Act.parts] at h; done)
    | (simp only [Act.apply]; split <;> rfl)
theorem Act.keeps_opq (s : State) (a : Act) (h : Field.opq ∉ a.parts) : (a.apply s).opq = s.opq := by
  cases a
  case trap sl t => first | (simp [Act.parts] at h; done) | (simp only [Act.apply]; rw [State.takeTrap_only, State.noteEntry_only])
  case settle => first | (simp [Act.parts] at h; done) | (simp only [Act.apply]; split <;> first | rfl | rw [State.divideAll_only])
  case enter => first | (simp [Act.parts] at h; done) | (simp only [Act.apply]; rw [State.enter_only])
  case resplit => first | (simp [Act.parts] at h; done) | (simp only [Act.apply]; split <;> first | rfl | rw [State.divideAll_only])
  case meets => first | (simp [Act.parts] at h; done) | (simp only [Act.apply]; rw [State.testMeets_only])
  case rollback => first | (simp [Act.parts] at h; done) | (simp only [Act.apply]; rw [State.rollBack_only])
  case regroup => first | (simp [Act.parts] at h; done) | (simp only [Act.apply]; rw [State.enter_only, State.refill_only]; rfl)
  case vacate => first | (simp [Act.parts] at h; done) | (simp only [Act.apply]; rw [State.refill_only]; rfl)
  case stage => first | (simp [Act.parts] at h; done) | (simp only [Act.apply]; rw [State.raiseStage_only])
  case take => first | (simp [Act.parts] at h; done) | (simp only [Act.apply]; rw [State.takeEntry_only])
  case badEntry => first | (simp [Act.parts] at h; done) | (simp only [Act.apply]; rw [State.noteWalk_only])
  all_goals first
    | rfl
    | (simp [Act.parts] at h; done)
    | (simp only [Act.apply]; split <;> rfl)
theorem Act.keeps_mat (s : State) (a : Act) (h : Field.mat ∉ a.parts) : (a.apply s).mat = s.mat := by
  cases a
  case trap sl t => first | (simp [Act.parts] at h; done) | (simp only [Act.apply]; rw [State.takeTrap_only, State.noteEntry_only])
  case settle => first | (simp [Act.parts] at h; done) | (simp only [Act.apply]; split <;> first | rfl | rw [State.divideAll_only])
  case enter => first | (simp [Act.parts] at h; done) | (simp only [Act.apply]; rw [State.enter_only])
  case resplit => first | (simp [Act.parts] at h; done) | (simp only [Act.apply]; split <;> first | rfl | rw [State.divideAll_only])
  case meets => first | (simp [Act.parts] at h; done) | (simp only [Act.apply]; rw [State.testMeets_only])
  case rollback => first | (simp [Act.parts] at h; done) | (simp only [Act.apply]; rw [State.rollBack_only])
  case regroup => first | (simp [Act.parts] at h; done) | (simp only [Act.apply]; rw [State.enter_only, State.refill_only]; rfl)
  case vacate => first | (simp [Act.parts] at h; done) | (simp only [Act.apply]; rw [State.refill_only]; rfl)
  case stage => first | (simp [Act.parts] at h; done) | (simp only [Act.apply]; rw [State.raiseStage_only])
  case take => first | (simp [Act.parts] at h; done) | (simp only [Act.apply]; rw [State.takeEntry_only])
  case badEntry => first | (simp [Act.parts] at h; done) | (simp only [Act.apply]; rw [State.noteWalk_only])
  all_goals first
    | rfl
    | (simp [Act.parts] at h; done)
    | (simp only [Act.apply]; split <;> rfl)
theorem Act.keeps_cpy (s : State) (a : Act) (h : Field.cpy ∉ a.parts) : (a.apply s).cpy = s.cpy := by
  cases a
  case trap sl t => first | (simp [Act.parts] at h; done) | (simp only [Act.apply]; rw [State.takeTrap_only, State.noteEntry_only])
  case settle => first | (simp [Act.parts] at h; done) | (simp only [Act.apply]; split <;> first | rfl | rw [State.divideAll_only])
  case enter => first | (simp [Act.parts] at h; done) | (simp only [Act.apply]; rw [State.enter_only])
  case resplit => first | (simp [Act.parts] at h; done) | (simp only [Act.apply]; split <;> first | rfl | rw [State.divideAll_only])
  case meets => first | (simp [Act.parts] at h; done) | (simp only [Act.apply]; rw [State.testMeets_only])
  case rollback => first | (simp [Act.parts] at h; done) | (simp only [Act.apply]; rw [State.rollBack_only])
  case regroup => first | (simp [Act.parts] at h; done) | (simp only [Act.apply]; rw [State.enter_only, State.refill_only]; rfl)
  case vacate => first | (simp [Act.parts] at h; done) | (simp only [Act.apply]; rw [State.refill_only]; rfl)
  case stage => first | (simp [Act.parts] at h; done) | (simp only [Act.apply]; rw [State.raiseStage_only])
  case take => first | (simp [Act.parts] at h; done) | (simp only [Act.apply]; rw [State.takeEntry_only])
  case badEntry => first | (simp [Act.parts] at h; done) | (simp only [Act.apply]; rw [State.noteWalk_only])
  all_goals first
    | rfl
    | (simp [Act.parts] at h; done)
    | (simp only [Act.apply]; split <;> rfl)
theorem Act.keeps_fab (s : State) (a : Act) (h : Field.fab ∉ a.parts) : (a.apply s).fab = s.fab := by
  cases a
  case trap sl t => first | (simp [Act.parts] at h; done) | (simp only [Act.apply]; rw [State.takeTrap_only, State.noteEntry_only])
  case settle => first | (simp [Act.parts] at h; done) | (simp only [Act.apply]; split <;> first | rfl | rw [State.divideAll_only])
  case enter => first | (simp [Act.parts] at h; done) | (simp only [Act.apply]; rw [State.enter_only])
  case resplit => first | (simp [Act.parts] at h; done) | (simp only [Act.apply]; split <;> first | rfl | rw [State.divideAll_only])
  case meets => first | (simp [Act.parts] at h; done) | (simp only [Act.apply]; rw [State.testMeets_only])
  case rollback => first | (simp [Act.parts] at h; done) | (simp only [Act.apply]; rw [State.rollBack_only])
  case regroup => first | (simp [Act.parts] at h; done) | (simp only [Act.apply]; rw [State.enter_only, State.refill_only]; rfl)
  case vacate => first | (simp [Act.parts] at h; done) | (simp only [Act.apply]; rw [State.refill_only]; rfl)
  case stage => first | (simp [Act.parts] at h; done) | (simp only [Act.apply]; rw [State.raiseStage_only])
  case take => first | (simp [Act.parts] at h; done) | (simp only [Act.apply]; rw [State.takeEntry_only])
  case badEntry => first | (simp [Act.parts] at h; done) | (simp only [Act.apply]; rw [State.noteWalk_only])
  all_goals first
    | rfl
    | (simp [Act.parts] at h; done)
    | (simp only [Act.apply]; split <;> rfl)
theorem Act.keeps_sun (s : State) (a : Act) (h : Field.sun ∉ a.parts) : (a.apply s).sun = s.sun := by
  cases a
  case trap sl t => first | (simp [Act.parts] at h; done) | (simp only [Act.apply]; rw [State.takeTrap_only, State.noteEntry_only])
  case settle => first | (simp [Act.parts] at h; done) | (simp only [Act.apply]; split <;> first | rfl | rw [State.divideAll_only])
  case enter => first | (simp [Act.parts] at h; done) | (simp only [Act.apply]; rw [State.enter_only])
  case resplit => first | (simp [Act.parts] at h; done) | (simp only [Act.apply]; split <;> first | rfl | rw [State.divideAll_only])
  case meets => first | (simp [Act.parts] at h; done) | (simp only [Act.apply]; rw [State.testMeets_only])
  case rollback => first | (simp [Act.parts] at h; done) | (simp only [Act.apply]; rw [State.rollBack_only])
  case regroup => first | (simp [Act.parts] at h; done) | (simp only [Act.apply]; rw [State.enter_only, State.refill_only]; rfl)
  case vacate => first | (simp [Act.parts] at h; done) | (simp only [Act.apply]; rw [State.refill_only]; rfl)
  case stage => first | (simp [Act.parts] at h; done) | (simp only [Act.apply]; rw [State.raiseStage_only])
  case take => first | (simp [Act.parts] at h; done) | (simp only [Act.apply]; rw [State.takeEntry_only])
  case badEntry => first | (simp [Act.parts] at h; done) | (simp only [Act.apply]; rw [State.noteWalk_only])
  all_goals first
    | rfl
    | (simp [Act.parts] at h; done)
    | (simp only [Act.apply]; split <;> rfl)
theorem Act.keeps_sett (s : State) (a : Act) (h : Field.sett ∉ a.parts) : (a.apply s).sett = s.sett := by
  cases a
  case trap sl t => first | (simp [Act.parts] at h; done) | (simp only [Act.apply]; rw [State.takeTrap_only, State.noteEntry_only])
  case settle => first | (simp [Act.parts] at h; done) | (simp only [Act.apply]; split <;> first | rfl | rw [State.divideAll_only])
  case enter => first | (simp [Act.parts] at h; done) | (simp only [Act.apply]; rw [State.enter_only])
  case resplit => first | (simp [Act.parts] at h; done) | (simp only [Act.apply]; split <;> first | rfl | rw [State.divideAll_only])
  case meets => first | (simp [Act.parts] at h; done) | (simp only [Act.apply]; rw [State.testMeets_only])
  case rollback => first | (simp [Act.parts] at h; done) | (simp only [Act.apply]; rw [State.rollBack_only])
  case regroup => first | (simp [Act.parts] at h; done) | (simp only [Act.apply]; rw [State.enter_only, State.refill_only]; rfl)
  case vacate => first | (simp [Act.parts] at h; done) | (simp only [Act.apply]; rw [State.refill_only]; rfl)
  case stage => first | (simp [Act.parts] at h; done) | (simp only [Act.apply]; rw [State.raiseStage_only])
  case take => first | (simp [Act.parts] at h; done) | (simp only [Act.apply]; rw [State.takeEntry_only])
  case badEntry => first | (simp [Act.parts] at h; done) | (simp only [Act.apply]; rw [State.noteWalk_only])
  all_goals first
    | rfl
    | (simp [Act.parts] at h; done)
    | (simp only [Act.apply]; split <;> rfl)
theorem Act.keeps_dev (s : State) (a : Act) (h : Field.dev ∉ a.parts) : (a.apply s).dev = s.dev := by
  cases a
  case trap sl t => first | (simp [Act.parts] at h; done) | (simp only [Act.apply]; rw [State.takeTrap_only, State.noteEntry_only])
  case settle => first | (simp [Act.parts] at h; done) | (simp only [Act.apply]; split <;> first | rfl | rw [State.divideAll_only])
  case enter => first | (simp [Act.parts] at h; done) | (simp only [Act.apply]; rw [State.enter_only])
  case resplit => first | (simp [Act.parts] at h; done) | (simp only [Act.apply]; split <;> first | rfl | rw [State.divideAll_only])
  case meets => first | (simp [Act.parts] at h; done) | (simp only [Act.apply]; rw [State.testMeets_only])
  case rollback => first | (simp [Act.parts] at h; done) | (simp only [Act.apply]; rw [State.rollBack_only])
  case regroup => first | (simp [Act.parts] at h; done) | (simp only [Act.apply]; rw [State.enter_only, State.refill_only]; rfl)
  case vacate => first | (simp [Act.parts] at h; done) | (simp only [Act.apply]; rw [State.refill_only]; rfl)
  case stage => first | (simp [Act.parts] at h; done) | (simp only [Act.apply]; rw [State.raiseStage_only])
  case take => first | (simp [Act.parts] at h; done) | (simp only [Act.apply]; rw [State.takeEntry_only])
  case badEntry => first | (simp [Act.parts] at h; done) | (simp only [Act.apply]; rw [State.noteWalk_only])
  all_goals first
    | rfl
    | (simp [Act.parts] at h; done)
    | (simp only [Act.apply]; split <;> rfl)

/-- What no effect may change stays as it is. -/
theorem applyAll_keeps {B : Type} (p : State → B) (s : State) (es : List Eff) (h : ∀ e ∈ es, ∀ s, p (e.2.apply s) = p s) : p (applyAll s es) = p s := by
  induction es generalizing s with
  | nil => rfl
  | cons e es ih =>
    show p (applyAll (e.2.apply s) es) = p s
    rw [ih _ (fun e' he' => h e' (List.mem_cons_of_mem _ he')), h e List.mem_cons_self]

theorem commit_keeps_run (s : State) (es : List Eff) (h : ∀ e ∈ es, Field.run ∉ e.2.parts) : (commit s es).run = s.run :=
  applyAll_keeps (·.run) s es (fun e he t => Act.keeps_run t e.2 (h e he))
theorem commit_keeps_lanes (s : State) (es : List Eff) (h : ∀ e ∈ es, Field.lanes ∉ e.2.parts) : (commit s es).lanes = s.lanes :=
  applyAll_keeps (·.lanes) s es (fun e he t => Act.keeps_lanes t e.2 (h e he))
theorem commit_keeps_ctl (s : State) (es : List Eff) (h : ∀ e ∈ es, Field.ctl ∉ e.2.parts) : (commit s es).ctl = s.ctl :=
  applyAll_keeps (·.ctl) s es (fun e he t => Act.keeps_ctl t e.2 (h e he))
theorem commit_keeps_mem (s : State) (es : List Eff) (h : ∀ e ∈ es, Field.mem ∉ e.2.parts) : (commit s es).mem = s.mem :=
  applyAll_keeps (·.mem) s es (fun e he t => Act.keeps_mem t e.2 (h e he))
theorem commit_keeps_coh (s : State) (es : List Eff) (h : ∀ e ∈ es, Field.coh ∉ e.2.parts) : (commit s es).coh = s.coh :=
  applyAll_keeps (·.coh) s es (fun e he t => Act.keeps_coh t e.2 (h e he))
theorem commit_keeps_maps (s : State) (es : List Eff) (h : ∀ e ∈ es, Field.maps ∉ e.2.parts) : (commit s es).maps = s.maps :=
  applyAll_keeps (·.maps) s es (fun e he t => Act.keeps_maps t e.2 (h e he))
theorem commit_keeps_opq (s : State) (es : List Eff) (h : ∀ e ∈ es, Field.opq ∉ e.2.parts) : (commit s es).opq = s.opq :=
  applyAll_keeps (·.opq) s es (fun e he t => Act.keeps_opq t e.2 (h e he))
theorem commit_keeps_mat (s : State) (es : List Eff) (h : ∀ e ∈ es, Field.mat ∉ e.2.parts) : (commit s es).mat = s.mat :=
  applyAll_keeps (·.mat) s es (fun e he t => Act.keeps_mat t e.2 (h e he))
theorem commit_keeps_cpy (s : State) (es : List Eff) (h : ∀ e ∈ es, Field.cpy ∉ e.2.parts) : (commit s es).cpy = s.cpy :=
  applyAll_keeps (·.cpy) s es (fun e he t => Act.keeps_cpy t e.2 (h e he))
theorem commit_keeps_fab (s : State) (es : List Eff) (h : ∀ e ∈ es, Field.fab ∉ e.2.parts) : (commit s es).fab = s.fab :=
  applyAll_keeps (·.fab) s es (fun e he t => Act.keeps_fab t e.2 (h e he))
theorem commit_keeps_sun (s : State) (es : List Eff) (h : ∀ e ∈ es, Field.sun ∉ e.2.parts) : (commit s es).sun = s.sun :=
  applyAll_keeps (·.sun) s es (fun e he t => Act.keeps_sun t e.2 (h e he))
theorem commit_keeps_sett (s : State) (es : List Eff) (h : ∀ e ∈ es, Field.sett ∉ e.2.parts) : (commit s es).sett = s.sett :=
  applyAll_keeps (·.sett) s es (fun e he t => Act.keeps_sett t e.2 (h e he))
theorem commit_keeps_dev (s : State) (es : List Eff) (h : ∀ e ∈ es, Field.dev ∉ e.2.parts) : (commit s es).dev = s.dev :=
  applyAll_keeps (·.dev) s es (fun e he t => Act.keeps_dev t e.2 (h e he))

@[simp] theorem commit_log (s : State) (es : List Eff) : (commit s es).log = es := rfl

end Sys2Proof.Machine
end

