-- ==== Sys2Proof/Laws/Chain.lean ====
section
/-! SUPPORT. Acts in sequence, and what Sundesh's own reads and writes leave alone. -/
namespace Sys2Proof.Machine

@[simp] theorem State.actAll_nil (s : State) : s.actAll [] = s := rfl
@[simp] theorem State.actAll_cons (s : State) (a : Act) (as : List Act) : s.actAll (a :: as) = (a.apply s).actAll as := rfl
theorem State.actAll_append (s : State) (as bs : List Act) : s.actAll (as ++ bs) = (s.actAll as).actAll bs := by
  unfold State.actAll; exact List.foldl_append

@[simp] theorem State.chain_nil (s : State) : s.chain [] = [] := rfl

/-- A chain acts as its parts do one after another. -/
theorem State.actAll_chain (s : State) (fs : List (State → List Act)) : s.actAll (s.chain fs) = fs.foldl (fun s f => s.actAll (f s)) s := by
  induction fs generalizing s with
  | nil => rfl
  | cons f fs ih =>
    show s.actAll (f s ++ State.chain (s.actAll (f s)) fs) = _
    rw [State.actAll_append, ih]
    rfl

/-- An event ends in the state its acts lead to. -/
theorem commit_plain (s : State) (as : List Act) : commit s (plain as) = { s.actAll as with log := plain as } := by
  have h : ∀ (l : List Act) (u : State), applyAll u (plain l) = u.actAll l := by
    intro l
    induction l with
    | nil => intro u; rfl
    | cons a l ih => intro u; exact ih (a.apply u)
  show ({ applyAll s (plain as) with log := plain as } : State) = _
  rw [h]

theorem State.canon_actAll (s : State) (as : List Act) (h : s.canon = true) : (s.actAll as).canon = true := by
  induction as generalizing s with
  | nil => exact h
  | cons a as ih => exact ih _ (Act.canon_apply s a h)

/-! ### What reads and writes of memory leave alone -/

/-- The changes of an access of Sundesh: bytes, what lines carry, translations, clocks, errors and free values. -/
def Act.quiet : Act → Bool
  | .store _ _ _ => true
  | .refill _ _ _ => true
  | .times _ _ _ => true
  | .wmark _ _ => true
  | .dirty _ _ => true
  | .mark _ _ => true
  | .tlb _ _ => true
  | .addPersist _ => true
  | .agentClock _ _ => true
  | .record _ => true
  | .send _ => true
  | .carry _ _ => true
  | .ran _ _ => true
  | .badEntry _ _ => true
  | .draw _ => true
  | _ => false

/-- Two states agree in all that no access of Sundesh changes. -/
structure Quiet (s t : State) : Prop where
  ac : t.run.ac = s.run.ac
  lanes : t.lanes = s.lanes
  ctl : t.ctl = s.ctl
  cpy : t.cpy = s.cpy
  fab : t.fab = s.fab
  roots : t.maps.roots = s.maps.roots
  blocks : t.maps.blocks = s.maps.blocks
  handles : t.maps.handles = s.maps.handles
  devid : t.maps.devid = s.maps.devid
  queues : t.sun.queues = s.sun.queues
  active : t.sun.active = s.sun.active
  launches : t.sun.launches = s.sun.launches
  names : t.sun.names = s.sun.names
  nextLaunch : t.sun.nextLaunch = s.sun.nextLaunch
  graphs : t.sun.graphs = s.sun.graphs
  seals : t.sun.seals = s.sun.seals
  bins : t.sun.bins = s.sun.bins
  regions : t.sun.regions = s.sun.regions
  table : t.sun.table = s.sun.table
  told : t.sun.told = s.sun.told
  asids : t.sett.asids = s.sett.asids
  snaps : t.sett.regions = s.sett.regions
  pending : t.sett.pending = s.sett.pending
  stripes : t.sett.stripes = s.sett.stripes
  rebuilds : t.sett.rebuilds = s.sett.rebuilds
  helps : t.sett.helps = s.sett.helps
  ready : t.dev.ready = s.dev.ready
  ide : t.dev.ide = s.dev.ide
  images : t.dev.images = s.dev.images
  fw : t.dev.fw = s.dev.fw

theorem Quiet.refl (s : State) : Quiet s s := by constructor <;> rfl

theorem Quiet.trans {s t u : State} (h : Quiet s t) (k : Quiet t u) : Quiet s u :=
  ⟨k.ac.trans h.ac, k.lanes.trans h.lanes, k.ctl.trans h.ctl, k.cpy.trans h.cpy, k.fab.trans h.fab, k.roots.trans h.roots, k.blocks.trans h.blocks, k.handles.trans h.handles, k.devid.trans h.devid, k.queues.trans h.queues, k.active.trans h.active, k.launches.trans h.launches, k.names.trans h.names, k.nextLaunch.trans h.nextLaunch,
   k.graphs.trans h.graphs, k.seals.trans h.seals, k.bins.trans h.bins, k.regions.trans h.regions, k.table.trans h.table, k.told.trans h.told, k.asids.trans h.asids, k.snaps.trans h.snaps,
   k.pending.trans h.pending, k.stripes.trans h.stripes, k.rebuilds.trans h.rebuilds, k.helps.trans h.helps, k.ready.trans h.ready, k.ide.trans h.ide, k.images.trans h.images,
   k.fw.trans h.fw⟩

theorem Sett.touch_fields (x : Sett) (f : Nat) : (x.touch f).asids = x.asids ∧ (x.touch f).regions = x.regions ∧ (x.touch f).pending = x.pending ∧ (x.touch f).stripes = x.stripes
    ∧ (x.touch f).rebuilds = x.rebuilds ∧ (x.touch f).helps = x.helps := by
  unfold Sett.touch; split <;> simp

theorem Sett.written_fields (x : Sett) (k n : Nat) : (x.written k n).asids = x.asids ∧ (x.written k n).regions = x.regions ∧ (x.written k n).pending = x.pending ∧ (x.written k n).stripes = x.stripes
    ∧ (x.written k n).rebuilds = x.rebuilds ∧ (x.written k n).helps = x.helps := by
  unfold Sett.written
  split
  · simp
  · have h1 := (x.touch (k / 2 ^ 16)).touch_fields ((k + n - 1) / 2 ^ 16)
    have h2 := x.touch_fields (k / 2 ^ 16)
    exact ⟨h1.1.trans h2.1, h1.2.1.trans h2.2.1, h1.2.2.1.trans h2.2.2.1, h1.2.2.2.1.trans h2.2.2.2.1, h1.2.2.2.2.1.trans h2.2.2.2.2.1, h1.2.2.2.2.2.trans h2.2.2.2.2.2⟩

theorem Sun.carry_fields (x : Sun) (a : Nat) (ids : List Nat) : x.carry a ids = { x with jobs := (x.carry a ids).jobs } := by
  unfold Sun.carry; split <;> rfl

/-- A quiet change leaves them alone. -/
theorem Act.quiet_apply (s : State) (a : Act) (h : a.quiet = true) : Quiet s (a.apply s) := by
  cases a <;> first | (simp [Act.quiet] at h; done) | (constructor <;> rfl) | skip
  case store k bs id => have := s.sett.written_fields k bs.length; constructor <;> first | rfl | (simp [Act.apply, this])
  case refill k bs id => have := s.sett.written_fields k bs.length; constructor <;> first | rfl | (simp [Act.apply, this])
  case tlb k v => constructor <;> first | rfl | (simp only [Act.apply]; rw [Sun.carry_fields])
  case badEntry asid va =>
    simp only [Act.apply]
    unfold State.noteWalk
    repeat' split
    all_goals (constructor <;> rfl)
  case agentClock k t => simp only [Act.apply]; split <;> (constructor <;> rfl)
  case carry a ids => constructor <;> first | rfl | (simp only [Act.apply]; rw [Sun.carry_fields])

theorem State.quiet_actAll (s : State) (as : List Act) (h : ∀ a ∈ as, a.quiet = true) : Quiet s (s.actAll as) := by
  induction as generalizing s with
  | nil => exact Quiet.refl s
  | cons a as ih => exact (Act.quiet_apply s a (h a List.mem_cons_self)).trans (ih _ (fun b hb => h b (List.mem_cons_of_mem _ hb)))

theorem State.pageActsAs_quiet (s : State) (tlbs : List Nat) (asid : Nat) (w : Bool) (p : Page) (va : Nat) : ∀ a ∈ s.pageActsAs tlbs asid w p va, a.quiet = true := by
  intro a ha
  unfold State.pageActsAs at ha
  simp only [List.mem_append] at ha
  rcases ha with ha | ha
  · generalize (if (w && !flagOf (if flagOf (s.dword p.at_) 11 = true then s.dword p.at_ else s.dword p.at_ + 2 ^ 11) 10) = true then _ else _) = e2 at ha
    split at ha
    · simp at ha
    · simp at ha; rw [ha]; rfl
  · split at ha <;> (simp at ha; rw [ha]; rfl)

theorem State.tenantPlace_quiet (s : State) (asid va : Nat) (w : Bool) (key id ty : Nat) (psn pe hb : Bool) (as : List Act) (h : s.tenantPlace asid va w = .at_ key id ty psn pe hb as) :
    ∀ a ∈ as, a.quiet = true := by
  unfold State.tenantPlace at h
  dsimp only at h
  split at h
  · simp at h
  · split at h
    · split at h
      · simp only [Place.at_.injEq] at h; rw [← h.2.2.2.2.2.2]; simp
      · simp at h
    · split at h
      · simp at h
      · repeat' split at h
        all_goals first | (simp at h; done) | (simp only [Place.at_.injEq] at h; rw [← h.2.2.2.2.2.2]; exact State.pageActsAs_quiet _ _ _ _ _ _)

theorem State.sunPlace_quiet (s : State) (asid : Option Nat) (va : Nat) (w : Bool) (key id ty : Nat) (psn pe hb : Bool) (as : List Act) (h : s.sunPlace asid va w = .at_ key id ty psn pe hb as) :
    ∀ a ∈ as, a.quiet = true := by
  have hp : ∀ v, hostPlace v = .at_ key id ty psn pe hb as → ∀ a ∈ as, a.quiet = true := by
    intro v hv
    unfold hostPlace at hv
    split at hv
    · simp only [Place.at_.injEq] at hv; rw [← hv.2.2.2.2.2.2]; simp
    · simp at hv
  have hm : ∀ p : Place, (match p with
      | .at_ k _ _ _ _ _ _ => if hostKey k && (s.dev.ide || (w && !s.mayWriteHost (k - hostBase))) then Place.fault ⟨0x0D, 0, va⟩ else p
      | _ => p) = .at_ key id ty psn pe hb as → p = .at_ key id ty psn pe hb as := by
    intro p hp
    cases p with
    | at_ k i t a b c d =>
      simp only at hp
      split at hp
      · simp at hp
      · exact hp
    | park => exact hp
    | fault c => exact hp
  cases asid with
  | none => exact hp va (hm _ h)
  | some a =>
    have h2 := hm (if Sparse.get none s.maps.roots a = none then hostPlace va else s.tenantPlace a va w) h
    split at h2
    · exact hp _ h2
    · exact State.tenantPlace_quiet s _ _ _ _ _ _ _ _ _ _ h2

/-- The acts of joined pieces are those of the pieces. -/
theorem Got.join_acts (l : List Got) (bs : List Byte) (as : List Act) (h : Got.join l = .ok bs as) (a : Act) (ha : a ∈ as) : ∃ b c, Got.ok b c ∈ l ∧ a ∈ c := by
  induction l generalizing bs as with
  | nil => simp only [Got.join, Got.ok.injEq] at h; rw [← h.2] at ha; simp at ha
  | cons g l ih =>
    cases g with
    | ok b c =>
      simp only [Got.join] at h
      split at h
      · rename_i b' c' heq
        simp only [Got.ok.injEq] at h
        rw [← h.2, List.mem_append] at ha
        rcases ha with ha | ha
        · exact ⟨b, c, List.mem_cons_self, ha⟩
        · obtain ⟨b1, c1, h1, h2⟩ := ih b' c' heq ha
          exact ⟨b1, c1, List.mem_cons_of_mem _ h1, h2⟩
      · rename_i hn
        exact absurd h (hn _ _)
    | wait v => simp [Got.join] at h
    | bad => simp [Got.join] at h

/-- A read of Sundesh is quiet. -/
theorem State.sunRead_quiet (s : State) (asid : Option Nat) (va n : Nat) (bs : List Byte) (as : List Act) (h : s.sunRead asid va n = .ok bs as) : ∀ a ∈ as, a.quiet = true := by
  intro a ha
  unfold State.sunRead at h
  split at h
  · simp only [Got.ok.injEq] at h; rw [← h.2] at ha; simp at ha
  · obtain ⟨b, c, hm, hc⟩ := Got.join_acts _ _ _ h a ha
    simp only [List.mem_map] at hm
    obtain ⟨x, _, hx⟩ := hm
    split at hx
    · simp at hx
    · simp at hx
    · rename_i heq
      split at hx
      · simp at hx
      · simp only [Got.ok.injEq] at hx
        rw [← hx.2, List.mem_append] at hc
        rcases hc with hc | hc
        · exact State.sunPlace_quiet s _ _ _ _ _ _ _ _ _ _ heq a hc
        · split at hc <;> (simp at hc; try (rw [hc]; rfl))

/-- The writes of an agent are quiet. -/
theorem State.agentWrite_quiet (s : State) (ck key id : Nat) (bs : List Byte) (psn pe hb rf : Bool) : ∀ a ∈ (s.agentWrite ck key id bs psn pe hb rf).1, a.quiet = true := by
  intro a ha
  unfold State.agentWrite at ha
  dsimp only at ha
  split at ha
  · simp at ha; rw [ha]; rfl
  · simp only [List.mem_append] at ha
    rcases ha with (((ha | ha) | ha) | ha) | ha
    · split at ha <;> (simp at ha; rw [ha]; rfl)
    · split at ha
      · simp at ha; rw [ha]; rfl
      · simp at ha; obtain ⟨_, _, rfl⟩ := ha; rfl
    · split at ha
      · simp at ha; rw [ha]; rfl
      · simp at ha
    · split at ha
      · simp at ha; rw [ha]; rfl
      · simp at ha
    · split at ha
      · simp at ha; rw [ha]; rfl
      · split at ha
        · simp at ha; rw [ha]; rfl
        · simp at ha

/-- A write of Sundesh is quiet. -/
theorem State.sunWriteAs_quiet (s : State) (asid : Option Nat) (va : Nat) (bs : List Byte) (psn : List Nat) (mine : List (Nat × Nat)) : ∀ a ∈ (s.sunWriteAs asid va bs psn mine).acts, a.quiet = true := by
  intro a ha
  unfold State.sunWriteAs at ha
  split at ha
  · simp [Got.acts] at ha
  · split at ha
    · rename_i heq
      simp only [Got.acts] at ha
      obtain ⟨b, c, hm, hc⟩ := Got.join_acts _ _ _ heq a ha
      simp only [List.mem_map] at hm
      obtain ⟨x, _, hx⟩ := hm
      split at hx
      · simp at hx
      · simp at hx
      · rename_i heq2
        simp only [Got.ok.injEq] at hx
        rw [← hx.2] at hc
        simp only [List.mem_append, List.mem_singleton] at hc
        rcases hc with ((hc | hc) | hc) | hc
        · exact State.sunPlace_quiet s _ _ _ _ _ _ _ _ _ _ heq2 a hc
        · exact State.agentWrite_quiet _ _ _ _ _ _ _ _ _ a hc
        · split at hc
          · simp only [List.mem_singleton] at hc; rw [hc]; rfl
          · simp at hc
        · rw [hc]; rfl
    · rename_i g hn
      cases hg : Got.join _ with
      | ok b c => exact absurd hg (hn b c)
      | wait v => rw [hg] at ha; simp [Got.acts] at ha
      | bad => rw [hg] at ha; simp [Got.acts] at ha

theorem State.sunWrite_quiet (s : State) (asid : Option Nat) (va : Nat) (bs : List Byte) : ∀ a ∈ (s.sunWrite asid va bs).acts, a.quiet = true := State.sunWriteAs_quiet s asid va bs [] []

/-- The descriptor's update is quiet. -/
theorem State.descActs_quiet (s : State) (q : Nat) : ∀ a ∈ s.descActs q, a.quiet = true := by
  intro a ha
  unfold State.descActs at ha
  dsimp only at ha
  split at ha
  · exact State.sunWrite_quiet _ _ _ _ a ha
  · simp at ha

end Sys2Proof.Machine
end

