-- ==== Sys2Proof/Laws/Exec.lean ====
section
/-! SUPPORT. How a meaning can end: with the effects of the instruction applied to the state before it, or, in three rows, with the fault of a frame that does not exist. One lemma for each meaning, and the two facts about exec that follow from them. -/
namespace Sys2Proof.Machine

/-- The meaning goes on: its next state is the state before it after some effects. -/
def Ends (s : State) (o : Host.Outcome State Fault Refusal) : Prop := ∃ es, o = .next (commit s es)

/-- The meaning goes on, or ends in the fault of a frame that does not exist. -/
def EndsOr (s : State) (o : Host.Outcome State Fault Refusal) : Prop := Ends s o ∨ ∃ k, o = .fault (.noSuchFrame k)

theorem ends_event (s : State) (as : List Act) : Ends s (event s as) := ⟨_, rfl⟩
theorem ends_commit (s : State) (es : List Eff) : Ends s (.next (commit s es)) := ⟨_, rfl⟩
theorem ends_issue (i : Instr) (s : State) (b : Cur → View → Nat → Res) : Ends s (issue i s b) := ⟨_, rfl⟩
theorem ends_issueAll (i : Instr) (s : State) (b : Cur → View → List Eff) : Ends s (issueAll i s b) := ⟨_, rfl⟩
theorem ends_packet (s : State) (q i : Nat) (r : Row) (p : Bool) (b : Body) : Ends s (s.packet q i r p b) := by
  unfold State.packet
  repeat' first | exact ⟨_, rfl⟩ | split
theorem ends_lanewise (i : Instr) (f : LaneIn → LaneOut) (s : State) : Ends s (lanewise i f s) := ⟨_, rfl⟩

theorem execExt_ends (x : BitVec 25) (s : State) : Ends s (execExt x s) := by
  unfold execExt
  repeat' first | exact ⟨_, rfl⟩ | exact ends_packet _ _ _ _ _ _ | dsimp only | split
theorem execNop_ends (f : RF) (s : State) : Ends s (execNop f s) := by
  unfold execNop
  repeat' first | exact ⟨_, rfl⟩ | exact ends_packet _ _ _ _ _ _ | dsimp only | split
theorem execBkpt_ends (f : RF) (s : State) : Ends s (execBkpt f s) := by
  unfold execBkpt
  repeat' first | exact ⟨_, rfl⟩ | exact ends_packet _ _ _ _ _ _ | dsimp only | split
theorem execYield_ends (f : RF) (s : State) : Ends s (execYield f s) := by
  unfold execYield
  repeat' first | exact ⟨_, rfl⟩ | exact ends_packet _ _ _ _ _ _ | dsimp only | split
theorem execExit_ends (f : RF) (s : State) : Ends s (execExit f s) := by
  unfold execExit
  repeat' first | exact ⟨_, rfl⟩ | exact ends_packet _ _ _ _ _ _ | dsimp only | split
theorem execTrap_ends (f : RF) (s : State) : Ends s (execTrap f s) := by
  unfold execTrap
  repeat' first | exact ⟨_, rfl⟩ | exact ends_packet _ _ _ _ _ _ | dsimp only | split
theorem execRtt_ends (f : RF) (s : State) : Ends s (execRtt f s) := by
  unfold execRtt
  repeat' first | exact ⟨_, rfl⟩ | exact ends_packet _ _ _ _ _ _ | dsimp only | split
theorem execSrd_ends (f : RF) (s : State) : Ends s (execSrd f s) := by
  unfold execSrd
  repeat' first | exact ⟨_, rfl⟩ | exact ends_packet _ _ _ _ _ _ | dsimp only | split
theorem execSwr_ends (f : RF) (s : State) : Ends s (execSwr f s) := by
  unfold execSwr
  repeat' first | exact ⟨_, rfl⟩ | exact ends_packet _ _ _ _ _ _ | dsimp only | split
theorem execBrAny_ends (f : BF) (s : State) : Ends s (execBrAny f s) := by
  unfold execBrAny
  repeat' first | exact ⟨_, rfl⟩ | exact ends_packet _ _ _ _ _ _ | dsimp only | split
theorem execBrAll_ends (f : BF) (s : State) : Ends s (execBrAll f s) := by
  unfold execBrAll
  repeat' first | exact ⟨_, rfl⟩ | exact ends_packet _ _ _ _ _ _ | dsimp only | split
theorem execCall_ends (f : BF) (s : State) : Ends s (execCall f s) := by
  unfold execCall
  repeat' first | exact ⟨_, rfl⟩ | exact ends_packet _ _ _ _ _ _ | dsimp only | split
theorem execJmpr_ends (f : RF) (s : State) : Ends s (execJmpr f s) := by
  unfold execJmpr
  repeat' first | exact ⟨_, rfl⟩ | exact ends_packet _ _ _ _ _ _ | dsimp only | split
theorem execCallr_ends (f : RF) (s : State) : Ends s (execCallr f s) := by
  unfold execCallr
  repeat' first | exact ⟨_, rfl⟩ | exact ends_packet _ _ _ _ _ _ | dsimp only | split
theorem execRet_ends (f : RF) (s : State) : Ends s (execRet f s) := by
  unfold execRet
  repeat' first | exact ⟨_, rfl⟩ | exact ends_packet _ _ _ _ _ _ | dsimp only | split
theorem execRegang_ends (f : RF) (s : State) : Ends s (execRegang f s) := by
  unfold execRegang
  repeat' first | exact ⟨_, rfl⟩ | exact ends_packet _ _ _ _ _ _ | dsimp only | split
theorem execSpawn_ends (f : RF) (s : State) : Ends s (execSpawn f s) := by
  unfold execSpawn
  repeat' first | exact ⟨_, rfl⟩ | exact ends_packet _ _ _ _ _ _ | dsimp only | split
theorem execSpill_ends (f : RF) (s : State) : Ends s (execSpill f s) := by
  unfold execSpill
  repeat' first | exact ⟨_, rfl⟩ | exact ends_packet _ _ _ _ _ _ | dsimp only | split
theorem execFill_ends (f : RF) (s : State) : Ends s (execFill f s) := by
  unfold execFill
  repeat' first | exact ⟨_, rfl⟩ | exact ends_packet _ _ _ _ _ _ | dsimp only | split
theorem execPand_ends (f : RF) (s : State) : Ends s (execPand f s) := by
  unfold execPand
  repeat' first | exact ⟨_, rfl⟩ | exact ends_packet _ _ _ _ _ _ | dsimp only | split
theorem execPor_ends (f : RF) (s : State) : Ends s (execPor f s) := by
  unfold execPor
  repeat' first | exact ⟨_, rfl⟩ | exact ends_packet _ _ _ _ _ _ | dsimp only | split
theorem execPxor_ends (f : RF) (s : State) : Ends s (execPxor f s) := by
  unfold execPxor
  repeat' first | exact ⟨_, rfl⟩ | exact ends_packet _ _ _ _ _ _ | dsimp only | split
theorem execPnot_ends (f : RF) (s : State) : Ends s (execPnot f s) := by
  unfold execPnot
  repeat' first | exact ⟨_, rfl⟩ | exact ends_packet _ _ _ _ _ _ | dsimp only | split
theorem execVoteAny_ends (f : RF) (s : State) : Ends s (execVoteAny f s) := by
  unfold execVoteAny
  repeat' first | exact ⟨_, rfl⟩ | exact ends_packet _ _ _ _ _ _ | dsimp only | split
theorem execVoteAll_ends (f : RF) (s : State) : Ends s (execVoteAll f s) := by
  unfold execVoteAll
  repeat' first | exact ⟨_, rfl⟩ | exact ends_packet _ _ _ _ _ _ | dsimp only | split
theorem execBallot_ends (f : RF) (s : State) : Ends s (execBallot f s) := by
  unfold execBallot
  repeat' first | exact ⟨_, rfl⟩ | exact ends_packet _ _ _ _ _ _ | dsimp only | split
theorem execPmov_ends (f : RF) (s : State) : Ends s (execPmov f s) := by
  unfold execPmov
  repeat' first | exact ⟨_, rfl⟩ | exact ends_packet _ _ _ _ _ _ | dsimp only | split
theorem execShflIdx_ends (f : RF) (s : State) : Ends s (execShflIdx f s) := by
  unfold execShflIdx
  repeat' first | exact ⟨_, rfl⟩ | exact ends_packet _ _ _ _ _ _ | dsimp only | split
theorem execShflUp_ends (f : RF) (s : State) : Ends s (execShflUp f s) := by
  unfold execShflUp
  repeat' first | exact ⟨_, rfl⟩ | exact ends_packet _ _ _ _ _ _ | dsimp only | split
theorem execShflDown_ends (f : RF) (s : State) : Ends s (execShflDown f s) := by
  unfold execShflDown
  repeat' first | exact ⟨_, rfl⟩ | exact ends_packet _ _ _ _ _ _ | dsimp only | split
theorem execShflXor_ends (f : RF) (s : State) : Ends s (execShflXor f s) := by
  unfold execShflXor
  repeat' first | exact ⟨_, rfl⟩ | exact ends_packet _ _ _ _ _ _ | dsimp only | split
theorem execLswz_ends (f : RF) (s : State) : Ends s (execLswz f s) := by
  unfold execLswz
  repeat' first | exact ⟨_, rfl⟩ | exact ends_packet _ _ _ _ _ _ | dsimp only | split
theorem execGredIadd_ends (f : RF) (s : State) : Ends s (execGredIadd f s) := by
  unfold execGredIadd
  repeat' first | exact ⟨_, rfl⟩ | exact ends_packet _ _ _ _ _ _ | dsimp only | split
theorem execGredFmax_ends (f : RF) (s : State) : Ends s (execGredFmax f s) := by
  unfold execGredFmax
  repeat' first | exact ⟨_, rfl⟩ | exact ends_packet _ _ _ _ _ _ | dsimp only | split
theorem execGscanIadd_ends (f : RF) (s : State) : Ends s (execGscanIadd f s) := by
  unfold execGscanIadd
  repeat' first | exact ⟨_, rfl⟩ | exact ends_packet _ _ _ _ _ _ | dsimp only | split
theorem execIadd_ends (f : RF) (s : State) : Ends s (execIadd f s) := by
  unfold execIadd
  repeat' first | exact ⟨_, rfl⟩ | exact ends_packet _ _ _ _ _ _ | dsimp only | split
theorem execIsub_ends (f : RF) (s : State) : Ends s (execIsub f s) := by
  unfold execIsub
  repeat' first | exact ⟨_, rfl⟩ | exact ends_packet _ _ _ _ _ _ | dsimp only | split
theorem execImul_ends (f : RF) (s : State) : Ends s (execImul f s) := by
  unfold execImul
  repeat' first | exact ⟨_, rfl⟩ | exact ends_packet _ _ _ _ _ _ | dsimp only | split
theorem execImulhI_ends (f : RF) (s : State) : Ends s (execImulhI f s) := by
  unfold execImulhI
  repeat' first | exact ⟨_, rfl⟩ | exact ends_packet _ _ _ _ _ _ | dsimp only | split
theorem execImulhN_ends (f : RF) (s : State) : Ends s (execImulhN f s) := by
  unfold execImulhN
  repeat' first | exact ⟨_, rfl⟩ | exact ends_packet _ _ _ _ _ _ | dsimp only | split
theorem execIneg_ends (f : RF) (s : State) : Ends s (execIneg f s) := by
  unfold execIneg
  repeat' first | exact ⟨_, rfl⟩ | exact ends_packet _ _ _ _ _ _ | dsimp only | split
theorem execIabs_ends (f : RF) (s : State) : Ends s (execIabs f s) := by
  unfold execIabs
  repeat' first | exact ⟨_, rfl⟩ | exact ends_packet _ _ _ _ _ _ | dsimp only | split
theorem execIaddSat_ends (f : RF) (s : State) : Ends s (execIaddSat f s) := by
  unfold execIaddSat
  repeat' first | exact ⟨_, rfl⟩ | exact ends_packet _ _ _ _ _ _ | dsimp only | split
theorem execIminI_ends (f : RF) (s : State) : Ends s (execIminI f s) := by
  unfold execIminI
  repeat' first | exact ⟨_, rfl⟩ | exact ends_packet _ _ _ _ _ _ | dsimp only | split
theorem execIminN_ends (f : RF) (s : State) : Ends s (execIminN f s) := by
  unfold execIminN
  repeat' first | exact ⟨_, rfl⟩ | exact ends_packet _ _ _ _ _ _ | dsimp only | split
theorem execImaxI_ends (f : RF) (s : State) : Ends s (execImaxI f s) := by
  unfold execImaxI
  repeat' first | exact ⟨_, rfl⟩ | exact ends_packet _ _ _ _ _ _ | dsimp only | split
theorem execImaxN_ends (f : RF) (s : State) : Ends s (execImaxN f s) := by
  unfold execImaxN
  repeat' first | exact ⟨_, rfl⟩ | exact ends_packet _ _ _ _ _ _ | dsimp only | split
theorem execIadd64_ends (f : RF) (s : State) : Ends s (execIadd64 f s) := by
  unfold execIadd64
  repeat' first | exact ⟨_, rfl⟩ | exact ends_packet _ _ _ _ _ _ | dsimp only | split
theorem execIsub64_ends (f : RF) (s : State) : Ends s (execIsub64 f s) := by
  unfold execIsub64
  repeat' first | exact ⟨_, rfl⟩ | exact ends_packet _ _ _ _ _ _ | dsimp only | split
theorem execLea_ends (f : RF) (s : State) : Ends s (execLea f s) := by
  unfold execLea
  repeat' first | exact ⟨_, rfl⟩ | exact ends_packet _ _ _ _ _ _ | dsimp only | split
theorem execIsubSat_ends (f : RF) (s : State) : Ends s (execIsubSat f s) := by
  unfold execIsubSat
  repeat' first | exact ⟨_, rfl⟩ | exact ends_packet _ _ _ _ _ _ | dsimp only | split
theorem execImad_ends (f : RF) (s : State) : Ends s (execImad f s) := by
  unfold execImad
  repeat' first | exact ⟨_, rfl⟩ | exact ends_packet _ _ _ _ _ _ | dsimp only | split
theorem execImadwI_ends (f : RF) (s : State) : Ends s (execImadwI f s) := by
  unfold execImadwI
  repeat' first | exact ⟨_, rfl⟩ | exact ends_packet _ _ _ _ _ _ | dsimp only | split
theorem execImadwN_ends (f : RF) (s : State) : Ends s (execImadwN f s) := by
  unfold execImadwN
  repeat' first | exact ⟨_, rfl⟩ | exact ends_packet _ _ _ _ _ _ | dsimp only | split
theorem execIaccw_ends (f : RF) (s : State) : Ends s (execIaccw f s) := by
  unfold execIaccw
  repeat' first | exact ⟨_, rfl⟩ | exact ends_packet _ _ _ _ _ _ | dsimp only | split
theorem execIdot4I8_ends (f : RF) (s : State) : Ends s (execIdot4I8 f s) := by
  unfold execIdot4I8
  repeat' first | exact ⟨_, rfl⟩ | exact ends_packet _ _ _ _ _ _ | dsimp only | split
theorem execIdot4N8_ends (f : RF) (s : State) : Ends s (execIdot4N8 f s) := by
  unfold execIdot4N8
  repeat' first | exact ⟨_, rfl⟩ | exact ends_packet _ _ _ _ _ _ | dsimp only | split
theorem execIdot2I16_ends (f : RF) (s : State) : Ends s (execIdot2I16 f s) := by
  unfold execIdot2I16
  repeat' first | exact ⟨_, rfl⟩ | exact ends_packet _ _ _ _ _ _ | dsimp only | split
theorem execIsad_ends (f : RF) (s : State) : Ends s (execIsad f s) := by
  unfold execIsad
  repeat' first | exact ⟨_, rfl⟩ | exact ends_packet _ _ _ _ _ _ | dsimp only | split
theorem execAnd_ends (f : RF) (s : State) : Ends s (execAnd f s) := by
  unfold execAnd
  repeat' first | exact ⟨_, rfl⟩ | exact ends_packet _ _ _ _ _ _ | dsimp only | split
theorem execOr_ends (f : RF) (s : State) : Ends s (execOr f s) := by
  unfold execOr
  repeat' first | exact ⟨_, rfl⟩ | exact ends_packet _ _ _ _ _ _ | dsimp only | split
theorem execXor_ends (f : RF) (s : State) : Ends s (execXor f s) := by
  unfold execXor
  repeat' first | exact ⟨_, rfl⟩ | exact ends_packet _ _ _ _ _ _ | dsimp only | split
theorem execAndn_ends (f : RF) (s : State) : Ends s (execAndn f s) := by
  unfold execAndn
  repeat' first | exact ⟨_, rfl⟩ | exact ends_packet _ _ _ _ _ _ | dsimp only | split
theorem execOrn_ends (f : RF) (s : State) : Ends s (execOrn f s) := by
  unfold execOrn
  repeat' first | exact ⟨_, rfl⟩ | exact ends_packet _ _ _ _ _ _ | dsimp only | split
theorem execNot_ends (f : RF) (s : State) : Ends s (execNot f s) := by
  unfold execNot
  repeat' first | exact ⟨_, rfl⟩ | exact ends_packet _ _ _ _ _ _ | dsimp only | split
theorem execMov_ends (f : RF) (s : State) : Ends s (execMov f s) := by
  unfold execMov
  repeat' first | exact ⟨_, rfl⟩ | exact ends_packet _ _ _ _ _ _ | dsimp only | split
theorem execSel_ends (f : RF) (s : State) : Ends s (execSel f s) := by
  unfold execSel
  repeat' first | exact ⟨_, rfl⟩ | exact ends_packet _ _ _ _ _ _ | dsimp only | split
theorem execShl_ends (f : RF) (s : State) : Ends s (execShl f s) := by
  unfold execShl
  repeat' first | exact ⟨_, rfl⟩ | exact ends_packet _ _ _ _ _ _ | dsimp only | split
theorem execShr_ends (f : RF) (s : State) : Ends s (execShr f s) := by
  unfold execShr
  repeat' first | exact ⟨_, rfl⟩ | exact ends_packet _ _ _ _ _ _ | dsimp only | split
theorem execSar_ends (f : RF) (s : State) : Ends s (execSar f s) := by
  unfold execSar
  repeat' first | exact ⟨_, rfl⟩ | exact ends_packet _ _ _ _ _ _ | dsimp only | split
theorem execRol_ends (f : RF) (s : State) : Ends s (execRol f s) := by
  unfold execRol
  repeat' first | exact ⟨_, rfl⟩ | exact ends_packet _ _ _ _ _ _ | dsimp only | split
theorem execRor_ends (f : RF) (s : State) : Ends s (execRor f s) := by
  unfold execRor
  repeat' first | exact ⟨_, rfl⟩ | exact ends_packet _ _ _ _ _ _ | dsimp only | split
theorem execShl64_ends (f : RF) (s : State) : Ends s (execShl64 f s) := by
  unfold execShl64
  repeat' first | exact ⟨_, rfl⟩ | exact ends_packet _ _ _ _ _ _ | dsimp only | split
theorem execShr64_ends (f : RF) (s : State) : Ends s (execShr64 f s) := by
  unfold execShr64
  repeat' first | exact ⟨_, rfl⟩ | exact ends_packet _ _ _ _ _ _ | dsimp only | split
theorem execSar64_ends (f : RF) (s : State) : Ends s (execSar64 f s) := by
  unfold execSar64
  repeat' first | exact ⟨_, rfl⟩ | exact ends_packet _ _ _ _ _ _ | dsimp only | split
theorem execPopc_ends (f : RF) (s : State) : Ends s (execPopc f s) := by
  unfold execPopc
  repeat' first | exact ⟨_, rfl⟩ | exact ends_packet _ _ _ _ _ _ | dsimp only | split
theorem execClz_ends (f : RF) (s : State) : Ends s (execClz f s) := by
  unfold execClz
  repeat' first | exact ⟨_, rfl⟩ | exact ends_packet _ _ _ _ _ _ | dsimp only | split
theorem execCtz_ends (f : RF) (s : State) : Ends s (execCtz f s) := by
  unfold execCtz
  repeat' first | exact ⟨_, rfl⟩ | exact ends_packet _ _ _ _ _ _ | dsimp only | split
theorem execBrev_ends (f : RF) (s : State) : Ends s (execBrev f s) := by
  unfold execBrev
  repeat' first | exact ⟨_, rfl⟩ | exact ends_packet _ _ _ _ _ _ | dsimp only | split
theorem execBfxI_ends (f : RF) (s : State) : Ends s (execBfxI f s) := by
  unfold execBfxI
  repeat' first | exact ⟨_, rfl⟩ | exact ends_packet _ _ _ _ _ _ | dsimp only | split
theorem execBfxN_ends (f : RF) (s : State) : Ends s (execBfxN f s) := by
  unfold execBfxN
  repeat' first | exact ⟨_, rfl⟩ | exact ends_packet _ _ _ _ _ _ | dsimp only | split
theorem execBfi_ends (f : RF) (s : State) : Ends s (execBfi f s) := by
  unfold execBfi
  repeat' first | exact ⟨_, rfl⟩ | exact ends_packet _ _ _ _ _ _ | dsimp only | split
theorem execBswp_ends (f : RF) (s : State) : Ends s (execBswp f s) := by
  unfold execBswp
  repeat' first | exact ⟨_, rfl⟩ | exact ends_packet _ _ _ _ _ _ | dsimp only | split
theorem execIsetEq_ends (f : RF) (s : State) : Ends s (execIsetEq f s) := by
  unfold execIsetEq
  repeat' first | exact ⟨_, rfl⟩ | exact ends_packet _ _ _ _ _ _ | dsimp only | split
theorem execIsetNe_ends (f : RF) (s : State) : Ends s (execIsetNe f s) := by
  unfold execIsetNe
  repeat' first | exact ⟨_, rfl⟩ | exact ends_packet _ _ _ _ _ _ | dsimp only | split
theorem execIsetLtI_ends (f : RF) (s : State) : Ends s (execIsetLtI f s) := by
  unfold execIsetLtI
  repeat' first | exact ⟨_, rfl⟩ | exact ends_packet _ _ _ _ _ _ | dsimp only | split
theorem execIsetLeI_ends (f : RF) (s : State) : Ends s (execIsetLeI f s) := by
  unfold execIsetLeI
  repeat' first | exact ⟨_, rfl⟩ | exact ends_packet _ _ _ _ _ _ | dsimp only | split
theorem execIsetLtN_ends (f : RF) (s : State) : Ends s (execIsetLtN f s) := by
  unfold execIsetLtN
  repeat' first | exact ⟨_, rfl⟩ | exact ends_packet _ _ _ _ _ _ | dsimp only | split
theorem execIsetLeN_ends (f : RF) (s : State) : Ends s (execIsetLeN f s) := by
  unfold execIsetLeN
  repeat' first | exact ⟨_, rfl⟩ | exact ends_packet _ _ _ _ _ _ | dsimp only | split
theorem execIsetTst_ends (f : RF) (s : State) : Ends s (execIsetTst f s) := by
  unfold execIsetTst
  repeat' first | exact ⟨_, rfl⟩ | exact ends_packet _ _ _ _ _ _ | dsimp only | split
theorem execMovi_ends (f : RF) (s : State) : Ends s (execMovi f s) := by
  unfold execMovi
  repeat' first | exact ⟨_, rfl⟩ | exact ends_packet _ _ _ _ _ _ | dsimp only | split
theorem execMovh_ends (f : RF) (s : State) : Ends s (execMovh f s) := by
  unfold execMovh
  repeat' first | exact ⟨_, rfl⟩ | exact ends_packet _ _ _ _ _ _ | dsimp only | split
theorem execMov64_ends (f : RF) (s : State) : Ends s (execMov64 f s) := by
  unfold execMov64
  repeat' first | exact ⟨_, rfl⟩ | exact ends_packet _ _ _ _ _ _ | dsimp only | split
theorem execIdxset_ends (f : RF) (s : State) : Ends s (execIdxset f s) := by
  unfold execIdxset
  repeat' first | exact ⟨_, rfl⟩ | exact ends_packet _ _ _ _ _ _ | dsimp only | split
theorem execIdxadd_ends (f : RF) (s : State) : Ends s (execIdxadd f s) := by
  unfold execIdxadd
  repeat' first | exact ⟨_, rfl⟩ | exact ends_packet _ _ _ _ _ _ | dsimp only | split
theorem execWinset_ends (f : RF) (s : State) : Ends s (execWinset f s) := by
  unfold execWinset
  repeat' first | exact ⟨_, rfl⟩ | exact ends_packet _ _ _ _ _ _ | dsimp only | split
theorem execUnif_ends (f : RF) (s : State) : Ends s (execUnif f s) := by
  unfold execUnif
  repeat' first | exact ⟨_, rfl⟩ | exact ends_packet _ _ _ _ _ _ | dsimp only | split
theorem execFadd_ends (f : RF) (s : State) : Ends s (execFadd f s) := by
  unfold execFadd
  repeat' first | exact ⟨_, rfl⟩ | exact ends_packet _ _ _ _ _ _ | dsimp only | split
theorem execFsub_ends (f : RF) (s : State) : Ends s (execFsub f s) := by
  unfold execFsub
  repeat' first | exact ⟨_, rfl⟩ | exact ends_packet _ _ _ _ _ _ | dsimp only | split
theorem execFmul_ends (f : RF) (s : State) : Ends s (execFmul f s) := by
  unfold execFmul
  repeat' first | exact ⟨_, rfl⟩ | exact ends_packet _ _ _ _ _ _ | dsimp only | split
theorem execFmin_ends (f : RF) (s : State) : Ends s (execFmin f s) := by
  unfold execFmin
  repeat' first | exact ⟨_, rfl⟩ | exact ends_packet _ _ _ _ _ _ | dsimp only | split
theorem execFmax_ends (f : RF) (s : State) : Ends s (execFmax f s) := by
  unfold execFmax
  repeat' first | exact ⟨_, rfl⟩ | exact ends_packet _ _ _ _ _ _ | dsimp only | split
theorem execFabs_ends (f : RF) (s : State) : Ends s (execFabs f s) := by
  unfold execFabs
  repeat' first | exact ⟨_, rfl⟩ | exact ends_packet _ _ _ _ _ _ | dsimp only | split
theorem execFneg_ends (f : RF) (s : State) : Ends s (execFneg f s) := by
  unfold execFneg
  repeat' first | exact ⟨_, rfl⟩ | exact ends_packet _ _ _ _ _ _ | dsimp only | split
theorem execFcpys_ends (f : RF) (s : State) : Ends s (execFcpys f s) := by
  unfold execFcpys
  repeat' first | exact ⟨_, rfl⟩ | exact ends_packet _ _ _ _ _ _ | dsimp only | split
theorem execFfma_ends (f : RF) (s : State) : Ends s (execFfma f s) := by
  unfold execFfma
  repeat' first | exact ⟨_, rfl⟩ | exact ends_packet _ _ _ _ _ _ | dsimp only | split
theorem execFfms_ends (f : RF) (s : State) : Ends s (execFfms f s) := by
  unfold execFfms
  repeat' first | exact ⟨_, rfl⟩ | exact ends_packet _ _ _ _ _ _ | dsimp only | split
theorem execFnma_ends (f : RF) (s : State) : Ends s (execFnma f s) := by
  unfold execFnma
  repeat' first | exact ⟨_, rfl⟩ | exact ends_packet _ _ _ _ _ _ | dsimp only | split
theorem execTwosum_ends (f : RF) (s : State) : Ends s (execTwosum f s) := by
  unfold execTwosum
  repeat' first | exact ⟨_, rfl⟩ | exact ends_packet _ _ _ _ _ _ | dsimp only | split
theorem execFtsum_ends (f : RF) (s : State) : Ends s (execFtsum f s) := by
  unfold execFtsum
  repeat' first | exact ⟨_, rfl⟩ | exact ends_packet _ _ _ _ _ _ | dsimp only | split
theorem execTwoprod_ends (f : RF) (s : State) : Ends s (execTwoprod f s) := by
  unfold execTwoprod
  repeat' first | exact ⟨_, rfl⟩ | exact ends_packet _ _ _ _ _ _ | dsimp only | split
theorem execFsetEq_ends (f : RF) (s : State) : Ends s (execFsetEq f s) := by
  unfold execFsetEq
  repeat' first | exact ⟨_, rfl⟩ | exact ends_packet _ _ _ _ _ _ | dsimp only | split
theorem execFsetNe_ends (f : RF) (s : State) : Ends s (execFsetNe f s) := by
  unfold execFsetNe
  repeat' first | exact ⟨_, rfl⟩ | exact ends_packet _ _ _ _ _ _ | dsimp only | split
theorem execFsetLt_ends (f : RF) (s : State) : Ends s (execFsetLt f s) := by
  unfold execFsetLt
  repeat' first | exact ⟨_, rfl⟩ | exact ends_packet _ _ _ _ _ _ | dsimp only | split
theorem execFsetLe_ends (f : RF) (s : State) : Ends s (execFsetLe f s) := by
  unfold execFsetLe
  repeat' first | exact ⟨_, rfl⟩ | exact ends_packet _ _ _ _ _ _ | dsimp only | split
theorem execFsetUnord_ends (f : RF) (s : State) : Ends s (execFsetUnord f s) := by
  unfold execFsetUnord
  repeat' first | exact ⟨_, rfl⟩ | exact ends_packet _ _ _ _ _ _ | dsimp only | split
theorem execFsetOrd_ends (f : RF) (s : State) : Ends s (execFsetOrd f s) := by
  unfold execFsetOrd
  repeat' first | exact ⟨_, rfl⟩ | exact ends_packet _ _ _ _ _ _ | dsimp only | split
theorem execFsetClass_ends (f : RF) (s : State) : Ends s (execFsetClass f s) := by
  unfold execFsetClass
  repeat' first | exact ⟨_, rfl⟩ | exact ends_packet _ _ _ _ _ _ | dsimp only | split
theorem execFrcp_ends (f : RF) (s : State) : Ends s (execFrcp f s) := by
  unfold execFrcp
  repeat' first | exact ⟨_, rfl⟩ | exact ends_packet _ _ _ _ _ _ | dsimp only | split
theorem execFrsq_ends (f : RF) (s : State) : Ends s (execFrsq f s) := by
  unfold execFrsq
  repeat' first | exact ⟨_, rfl⟩ | exact ends_packet _ _ _ _ _ _ | dsimp only | split
theorem execFsqrt_ends (f : RF) (s : State) : Ends s (execFsqrt f s) := by
  unfold execFsqrt
  repeat' first | exact ⟨_, rfl⟩ | exact ends_packet _ _ _ _ _ _ | dsimp only | split
theorem execFexp2_ends (f : RF) (s : State) : Ends s (execFexp2 f s) := by
  unfold execFexp2
  repeat' first | exact ⟨_, rfl⟩ | exact ends_packet _ _ _ _ _ _ | dsimp only | split
theorem execFlog2_ends (f : RF) (s : State) : Ends s (execFlog2 f s) := by
  unfold execFlog2
  repeat' first | exact ⟨_, rfl⟩ | exact ends_packet _ _ _ _ _ _ | dsimp only | split
theorem execFsin_ends (f : RF) (s : State) : Ends s (execFsin f s) := by
  unfold execFsin
  repeat' first | exact ⟨_, rfl⟩ | exact ends_packet _ _ _ _ _ _ | dsimp only | split
theorem execFcos_ends (f : RF) (s : State) : Ends s (execFcos f s) := by
  unfold execFcos
  repeat' first | exact ⟨_, rfl⟩ | exact ends_packet _ _ _ _ _ _ | dsimp only | split
theorem execFtanh_ends (f : RF) (s : State) : Ends s (execFtanh f s) := by
  unfold execFtanh
  repeat' first | exact ⟨_, rfl⟩ | exact ends_packet _ _ _ _ _ _ | dsimp only | split
theorem execHadd2Bf16_ends (f : RF) (s : State) : Ends s (execHadd2Bf16 f s) := by
  unfold execHadd2Bf16
  repeat' first | exact ⟨_, rfl⟩ | exact ends_packet _ _ _ _ _ _ | dsimp only | split
theorem execHmul2Bf16_ends (f : RF) (s : State) : Ends s (execHmul2Bf16 f s) := by
  unfold execHmul2Bf16
  repeat' first | exact ⟨_, rfl⟩ | exact ends_packet _ _ _ _ _ _ | dsimp only | split
theorem execHfma2Bf16_ends (f : RF) (s : State) : Ends s (execHfma2Bf16 f s) := by
  unfold execHfma2Bf16
  repeat' first | exact ⟨_, rfl⟩ | exact ends_packet _ _ _ _ _ _ | dsimp only | split
theorem execHadd2F16_ends (f : RF) (s : State) : Ends s (execHadd2F16 f s) := by
  unfold execHadd2F16
  repeat' first | exact ⟨_, rfl⟩ | exact ends_packet _ _ _ _ _ _ | dsimp only | split
theorem execHmul2F16_ends (f : RF) (s : State) : Ends s (execHmul2F16 f s) := by
  unfold execHmul2F16
  repeat' first | exact ⟨_, rfl⟩ | exact ends_packet _ _ _ _ _ _ | dsimp only | split
theorem execHfma2F16_ends (f : RF) (s : State) : Ends s (execHfma2F16 f s) := by
  unfold execHfma2F16
  repeat' first | exact ⟨_, rfl⟩ | exact ends_packet _ _ _ _ _ _ | dsimp only | split
theorem execHmax2Bf16_ends (f : RF) (s : State) : Ends s (execHmax2Bf16 f s) := by
  unfold execHmax2Bf16
  repeat' first | exact ⟨_, rfl⟩ | exact ends_packet _ _ _ _ _ _ | dsimp only | split
theorem execHmin2Bf16_ends (f : RF) (s : State) : Ends s (execHmin2Bf16 f s) := by
  unfold execHmin2Bf16
  repeat' first | exact ⟨_, rfl⟩ | exact ends_packet _ _ _ _ _ _ | dsimp only | split
theorem execDadd_ends (f : RF) (s : State) : Ends s (execDadd f s) := by
  unfold execDadd
  repeat' first | exact ⟨_, rfl⟩ | exact ends_packet _ _ _ _ _ _ | dsimp only | split
theorem execDsub_ends (f : RF) (s : State) : Ends s (execDsub f s) := by
  unfold execDsub
  repeat' first | exact ⟨_, rfl⟩ | exact ends_packet _ _ _ _ _ _ | dsimp only | split
theorem execDmul_ends (f : RF) (s : State) : Ends s (execDmul f s) := by
  unfold execDmul
  repeat' first | exact ⟨_, rfl⟩ | exact ends_packet _ _ _ _ _ _ | dsimp only | split
theorem execDfma_ends (f : RF) (s : State) : Ends s (execDfma f s) := by
  unfold execDfma
  repeat' first | exact ⟨_, rfl⟩ | exact ends_packet _ _ _ _ _ _ | dsimp only | split
theorem execDmin_ends (f : RF) (s : State) : Ends s (execDmin f s) := by
  unfold execDmin
  repeat' first | exact ⟨_, rfl⟩ | exact ends_packet _ _ _ _ _ _ | dsimp only | split
theorem execDmax_ends (f : RF) (s : State) : Ends s (execDmax f s) := by
  unfold execDmax
  repeat' first | exact ⟨_, rfl⟩ | exact ends_packet _ _ _ _ _ _ | dsimp only | split
theorem execDsetLt_ends (f : RF) (s : State) : Ends s (execDsetLt f s) := by
  unfold execDsetLt
  repeat' first | exact ⟨_, rfl⟩ | exact ends_packet _ _ _ _ _ _ | dsimp only | split
theorem execDsetEq_ends (f : RF) (s : State) : Ends s (execDsetEq f s) := by
  unfold execDsetEq
  repeat' first | exact ⟨_, rfl⟩ | exact ends_packet _ _ _ _ _ _ | dsimp only | split
theorem execCvtF32I32_ends (f : RF) (s : State) : Ends s (execCvtF32I32 f s) := by
  unfold execCvtF32I32
  repeat' first | exact ⟨_, rfl⟩ | exact ends_packet _ _ _ _ _ _ | dsimp only | split
theorem execCvtF32N32_ends (f : RF) (s : State) : Ends s (execCvtF32N32 f s) := by
  unfold execCvtF32N32
  repeat' first | exact ⟨_, rfl⟩ | exact ends_packet _ _ _ _ _ _ | dsimp only | split
theorem execCvtI32F32_ends (f : RF) (s : State) : Ends s (execCvtI32F32 f s) := by
  unfold execCvtI32F32
  repeat' first | exact ⟨_, rfl⟩ | exact ends_packet _ _ _ _ _ _ | dsimp only | split
theorem execCvtN32F32_ends (f : RF) (s : State) : Ends s (execCvtN32F32 f s) := by
  unfold execCvtN32F32
  repeat' first | exact ⟨_, rfl⟩ | exact ends_packet _ _ _ _ _ _ | dsimp only | split
theorem execCvtF32F64_ends (f : RF) (s : State) : Ends s (execCvtF32F64 f s) := by
  unfold execCvtF32F64
  repeat' first | exact ⟨_, rfl⟩ | exact ends_packet _ _ _ _ _ _ | dsimp only | split
theorem execCvtF64F32_ends (f : RF) (s : State) : Ends s (execCvtF64F32 f s) := by
  unfold execCvtF64F32
  repeat' first | exact ⟨_, rfl⟩ | exact ends_packet _ _ _ _ _ _ | dsimp only | split
theorem execCvtBf16x2F32_ends (f : RF) (s : State) : Ends s (execCvtBf16x2F32 f s) := by
  unfold execCvtBf16x2F32
  repeat' first | exact ⟨_, rfl⟩ | exact ends_packet _ _ _ _ _ _ | dsimp only | split
theorem execCvtF16x2F32_ends (f : RF) (s : State) : Ends s (execCvtF16x2F32 f s) := by
  unfold execCvtF16x2F32
  repeat' first | exact ⟨_, rfl⟩ | exact ends_packet _ _ _ _ _ _ | dsimp only | split
theorem execUnpkBf16x2_ends (f : RF) (s : State) : Ends s (execUnpkBf16x2 f s) := by
  unfold execUnpkBf16x2
  repeat' first | exact ⟨_, rfl⟩ | exact ends_packet _ _ _ _ _ _ | dsimp only | split
theorem execUnpkF16x2_ends (f : RF) (s : State) : Ends s (execUnpkF16x2 f s) := by
  unfold execUnpkF16x2
  repeat' first | exact ⟨_, rfl⟩ | exact ends_packet _ _ _ _ _ _ | dsimp only | split
theorem execCvtF64I32_ends (f : RF) (s : State) : Ends s (execCvtF64I32 f s) := by
  unfold execCvtF64I32
  repeat' first | exact ⟨_, rfl⟩ | exact ends_packet _ _ _ _ _ _ | dsimp only | split
theorem execCvtI32F64_ends (f : RF) (s : State) : Ends s (execCvtI32F64 f s) := by
  unfold execCvtI32F64
  repeat' first | exact ⟨_, rfl⟩ | exact ends_packet _ _ _ _ _ _ | dsimp only | split
theorem execPackI8x4_ends (f : RF) (s : State) : Ends s (execPackI8x4 f s) := by
  unfold execPackI8x4
  repeat' first | exact ⟨_, rfl⟩ | exact ends_packet _ _ _ _ _ _ | dsimp only | split
theorem execPackN8x4_ends (f : RF) (s : State) : Ends s (execPackN8x4 f s) := by
  unfold execPackN8x4
  repeat' first | exact ⟨_, rfl⟩ | exact ends_packet _ _ _ _ _ _ | dsimp only | split
theorem execUnpkI8x4_ends (f : RF) (s : State) : Ends s (execUnpkI8x4 f s) := by
  unfold execUnpkI8x4
  repeat' first | exact ⟨_, rfl⟩ | exact ends_packet _ _ _ _ _ _ | dsimp only | split
theorem execUnpkN8x4_ends (f : RF) (s : State) : Ends s (execUnpkN8x4 f s) := by
  unfold execUnpkN8x4
  repeat' first | exact ⟨_, rfl⟩ | exact ends_packet _ _ _ _ _ _ | dsimp only | split
theorem execQnt_ends (f : RF) (s : State) : Ends s (execQnt f s) := by
  unfold execQnt
  repeat' first | exact ⟨_, rfl⟩ | exact ends_packet _ _ _ _ _ _ | dsimp only | split
theorem execDqnt_ends (f : RF) (s : State) : Ends s (execDqnt f s) := by
  unfold execDqnt
  repeat' first | exact ⟨_, rfl⟩ | exact ends_packet _ _ _ _ _ _ | dsimp only | split
theorem execQpack_ends (f : RF) (s : State) : Ends s (execQpack f s) := by
  unfold execQpack
  repeat' first | exact ⟨_, rfl⟩ | exact ends_packet _ _ _ _ _ _ | dsimp only | split
theorem execQunpk_ends (f : RF) (s : State) : Ends s (execQunpk f s) := by
  unfold execQunpk
  repeat' first | exact ⟨_, rfl⟩ | exact ends_packet _ _ _ _ _ _ | dsimp only | split
theorem execSegscl_ends (f : RF) (s : State) : Ends s (execSegscl f s) := by
  unfold execSegscl
  repeat' first | exact ⟨_, rfl⟩ | exact ends_packet _ _ _ _ _ _ | dsimp only | split
theorem execFmtchk_ends (f : RF) (s : State) : Ends s (execFmtchk f s) := by
  unfold execFmtchk
  repeat' first | exact ⟨_, rfl⟩ | exact ends_packet _ _ _ _ _ _ | dsimp only | split
theorem execLd_ends (f : XF) (s : State) : Ends s (execLd f s) := by
  unfold execLd
  repeat' first | exact ⟨_, rfl⟩ | exact ends_packet _ _ _ _ _ _ | dsimp only | split
theorem execSt_ends (f : XF) (s : State) : Ends s (execSt f s) := by
  unfold execSt
  repeat' first | exact ⟨_, rfl⟩ | exact ends_packet _ _ _ _ _ _ | dsimp only | split
theorem execLdNt_ends (f : XF) (s : State) : Ends s (execLdNt f s) := by
  unfold execLdNt
  repeat' first | exact ⟨_, rfl⟩ | exact ends_packet _ _ _ _ _ _ | dsimp only | split
theorem execStNt_ends (f : XF) (s : State) : Ends s (execStNt f s) := by
  unfold execStNt
  repeat' first | exact ⟨_, rfl⟩ | exact ends_packet _ _ _ _ _ _ | dsimp only | split
theorem execLdfe_ends (f : XF) (s : State) : Ends s (execLdfe f s) := by
  unfold execLdfe
  repeat' first | exact ⟨_, rfl⟩ | exact ends_packet _ _ _ _ _ _ | dsimp only | split
theorem execStfe_ends (f : XF) (s : State) : Ends s (execStfe f s) := by
  unfold execStfe
  repeat' first | exact ⟨_, rfl⟩ | exact ends_packet _ _ _ _ _ _ | dsimp only | split
theorem execPf_ends (f : XF) (s : State) : Ends s (execPf f s) := by
  unfold execPf
  repeat' first | exact ⟨_, rfl⟩ | exact ends_packet _ _ _ _ _ _ | dsimp only | split
theorem execCmoClean_ends (f : XF) (s : State) : Ends s (execCmoClean f s) := by
  unfold execCmoClean
  repeat' first | exact ⟨_, rfl⟩ | exact ends_packet _ _ _ _ _ _ | dsimp only | split
theorem execCmoInv_ends (f : XF) (s : State) : Ends s (execCmoInv f s) := by
  unfold execCmoInv
  repeat' first | exact ⟨_, rfl⟩ | exact ends_packet _ _ _ _ _ _ | dsimp only | split
theorem execCmoCleaninv_ends (f : XF) (s : State) : Ends s (execCmoCleaninv f s) := by
  unfold execCmoCleaninv
  repeat' first | exact ⟨_, rfl⟩ | exact ends_packet _ _ _ _ _ _ | dsimp only | split
theorem execAtomG_ends (f : XF) (s : State) : Ends s (execAtomG f s) := by
  unfold execAtomG
  repeat' first | exact ⟨_, rfl⟩ | exact ends_packet _ _ _ _ _ _ | dsimp only | split
theorem execAtomS_ends (f : XF) (s : State) : Ends s (execAtomS f s) := by
  unfold execAtomS
  repeat' first | exact ⟨_, rfl⟩ | exact ends_packet _ _ _ _ _ _ | dsimp only | split
theorem execAtomC_ends (f : XF) (s : State) : Ends s (execAtomC f s) := by
  unfold execAtomC
  repeat' first | exact ⟨_, rfl⟩ | exact ends_packet _ _ _ _ _ _ | dsimp only | split
theorem execRedG_ends (f : XF) (s : State) : Ends s (execRedG f s) := by
  unfold execRedG
  repeat' first | exact ⟨_, rfl⟩ | exact ends_packet _ _ _ _ _ _ | dsimp only | split
theorem execBara_ends (f : RF) (s : State) : Ends s (execBara f s) := by
  unfold execBara
  repeat' first | exact ⟨_, rfl⟩ | exact ends_packet _ _ _ _ _ _ | dsimp only | split
theorem execBarw_ends (f : RF) (s : State) : Ends s (execBarw f s) := by
  unfold execBarw
  repeat' first | exact ⟨_, rfl⟩ | exact ends_packet _ _ _ _ _ _ | dsimp only | split
theorem execBaraw_ends (f : RF) (s : State) : Ends s (execBaraw f s) := by
  unfold execBaraw
  repeat' first | exact ⟨_, rfl⟩ | exact ends_packet _ _ _ _ _ _ | dsimp only | split
theorem execBarinit_ends (f : RF) (s : State) : Ends s (execBarinit f s) := by
  unfold execBarinit
  repeat' first | exact ⟨_, rfl⟩ | exact ends_packet _ _ _ _ _ _ | dsimp only | split
theorem execGbar_ends (f : RF) (s : State) : Ends s (execGbar f s) := by
  unfold execGbar
  repeat' first | exact ⟨_, rfl⟩ | exact ends_packet _ _ _ _ _ _ | dsimp only | split
theorem execBarq_ends (f : RF) (s : State) : Ends s (execBarq f s) := by
  unfold execBarq
  repeat' first | exact ⟨_, rfl⟩ | exact ends_packet _ _ _ _ _ _ | dsimp only | split
theorem execArrvInit_ends (f : RF) (s : State) : Ends s (execArrvInit f s) := by
  unfold execArrvInit
  repeat' first | exact ⟨_, rfl⟩ | exact ends_packet _ _ _ _ _ _ | dsimp only | split
theorem execArrvAdd_ends (f : RF) (s : State) : Ends s (execArrvAdd f s) := by
  unfold execArrvAdd
  repeat' first | exact ⟨_, rfl⟩ | exact ends_packet _ _ _ _ _ _ | dsimp only | split
theorem execAwait_ends (f : RF) (s : State) : Ends s (execAwait f s) := by
  unfold execAwait
  repeat' first | exact ⟨_, rfl⟩ | exact ends_packet _ _ _ _ _ _ | dsimp only | split
theorem execAwaitT_ends (f : RF) (s : State) : Ends s (execAwaitT f s) := by
  unfold execAwaitT
  repeat' first | exact ⟨_, rfl⟩ | exact ends_packet _ _ _ _ _ _ | dsimp only | split
theorem execArrvRd_ends (f : RF) (s : State) : Ends s (execArrvRd f s) := by
  unfold execArrvRd
  repeat' first | exact ⟨_, rfl⟩ | exact ends_packet _ _ _ _ _ _ | dsimp only | split
theorem execFenceAcq_ends (f : RF) (s : State) : Ends s (execFenceAcq f s) := by
  unfold execFenceAcq
  repeat' first | exact ⟨_, rfl⟩ | exact ends_packet _ _ _ _ _ _ | dsimp only | split
theorem execFenceRel_ends (f : RF) (s : State) : Ends s (execFenceRel f s) := by
  unfold execFenceRel
  repeat' first | exact ⟨_, rfl⟩ | exact ends_packet _ _ _ _ _ _ | dsimp only | split
theorem execFenceAr_ends (f : RF) (s : State) : Ends s (execFenceAr f s) := by
  unfold execFenceAr
  repeat' first | exact ⟨_, rfl⟩ | exact ends_packet _ _ _ _ _ _ | dsimp only | split
theorem execFenceSp_ends (f : RF) (s : State) : Ends s (execFenceSp f s) := by
  unfold execFenceSp
  repeat' first | exact ⟨_, rfl⟩ | exact ends_packet _ _ _ _ _ _ | dsimp only | split
theorem execIfence_ends (f : RF) (s : State) : Ends s (execIfence f s) := by
  unfold execIfence
  repeat' first | exact ⟨_, rfl⟩ | exact ends_packet _ _ _ _ _ _ | dsimp only | split
theorem execPbar_ends (f : RF) (s : State) : Ends s (execPbar f s) := by
  unfold execPbar
  repeat' first | exact ⟨_, rfl⟩ | exact ends_packet _ _ _ _ _ _ | dsimp only | split
theorem execPsync_ends (f : RF) (s : State) : Ends s (execPsync f s) := by
  unfold execPsync
  repeat' first | exact ⟨_, rfl⟩ | exact ends_packet _ _ _ _ _ _ | dsimp only | split
theorem execMma_ends (f : XF) (s : State) : Ends s (execMma f s) := by
  unfold execMma
  repeat' first | exact ⟨_, rfl⟩ | exact ends_packet _ _ _ _ _ _ | dsimp only | split
theorem execMzero_ends (f : XF) (s : State) : Ends s (execMzero f s) := by
  unfold execMzero
  repeat' first | exact ⟨_, rfl⟩ | exact ends_packet _ _ _ _ _ _ | dsimp only | split
theorem execMrd_ends (f : XF) (s : State) : Ends s (execMrd f s) := by
  unfold execMrd
  repeat' first | exact ⟨_, rfl⟩ | exact ends_packet _ _ _ _ _ _ | dsimp only | split
theorem execMwr_ends (f : XF) (s : State) : Ends s (execMwr f s) := by
  unfold execMwr
  repeat' first | exact ⟨_, rfl⟩ | exact ends_packet _ _ _ _ _ _ | dsimp only | split
theorem execMdrain_ends (f : XF) (s : State) : Ends s (execMdrain f s) := by
  unfold execMdrain
  repeat' first | exact ⟨_, rfl⟩ | exact ends_packet _ _ _ _ _ _ | dsimp only | split
theorem execMfence_ends (f : RF) (s : State) : Ends s (execMfence f s) := by
  unfold execMfence
  repeat' first | exact ⟨_, rfl⟩ | exact ends_packet _ _ _ _ _ _ | dsimp only | split
theorem execMwait_ends (f : RF) (s : State) : Ends s (execMwait f s) := by
  unfold execMwait
  repeat' first | exact ⟨_, rfl⟩ | exact ends_packet _ _ _ _ _ _ | dsimp only | split
theorem execMwm_ends (f : RF) (s : State) : Ends s (execMwm f s) := by
  unfold execMwm
  repeat' first | exact ⟨_, rfl⟩ | exact ends_packet _ _ _ _ _ _ | dsimp only | split
theorem execMtld_ends (f : RF) (s : State) : Ends s (execMtld f s) := by
  unfold execMtld
  repeat' first | exact ⟨_, rfl⟩ | exact ends_packet _ _ _ _ _ _ | dsimp only | split
theorem execMstat_ends (f : RF) (s : State) : Ends s (execMstat f s) := by
  unfold execMstat
  repeat' first | exact ⟨_, rfl⟩ | exact ends_packet _ _ _ _ _ _ | dsimp only | split
theorem execCpy_ends (f : XF) (s : State) : Ends s (execCpy f s) := by
  unfold execCpy
  repeat' first | exact ⟨_, rfl⟩ | exact ends_packet _ _ _ _ _ _ | dsimp only | split
theorem execCpym_ends (f : XF) (s : State) : Ends s (execCpym f s) := by
  unfold execCpym
  repeat' first | exact ⟨_, rfl⟩ | exact ends_packet _ _ _ _ _ _ | dsimp only | split
theorem execCpystg_ends (f : RF) (s : State) : Ends s (execCpystg f s) := by
  unfold execCpystg
  repeat' first | exact ⟨_, rfl⟩ | exact ends_packet _ _ _ _ _ _ | dsimp only | split
theorem execCpystgRet_ends (f : RF) (s : State) : Ends s (execCpystgRet f s) := by
  unfold execCpystgRet
  repeat' first | exact ⟨_, rfl⟩ | exact ends_packet _ _ _ _ _ _ | dsimp only | split
theorem execCpytst_ends (f : RF) (s : State) : Ends s (execCpytst f s) := by
  unfold execCpytst
  repeat' first | exact ⟨_, rfl⟩ | exact ends_packet _ _ _ _ _ _ | dsimp only | split
theorem execCpywt_ends (f : RF) (s : State) : Ends s (execCpywt f s) := by
  unfold execCpywt
  repeat' first | exact ⟨_, rfl⟩ | exact ends_packet _ _ _ _ _ _ | dsimp only | split
theorem execCpyq_ends (f : RF) (s : State) : Ends s (execCpyq f s) := by
  unfold execCpyq
  repeat' first | exact ⟨_, rfl⟩ | exact ends_packet _ _ _ _ _ _ | dsimp only | split
theorem execCpycnl_ends (f : RF) (s : State) : Ends s (execCpycnl f s) := by
  unfold execCpycnl
  repeat' first | exact ⟨_, rfl⟩ | exact ends_packet _ _ _ _ _ _ | dsimp only | split
theorem execRput_ends (f : XF) (s : State) : Ends s (execRput f s) := by
  unfold execRput
  repeat' first | exact ⟨_, rfl⟩ | exact ends_packet _ _ _ _ _ _ | dsimp only | split
theorem execRget_ends (f : XF) (s : State) : Ends s (execRget f s) := by
  unfold execRget
  repeat' first | exact ⟨_, rfl⟩ | exact ends_packet _ _ _ _ _ _ | dsimp only | split
theorem execRred_ends (f : XF) (s : State) : Ends s (execRred f s) := by
  unfold execRred
  repeat' first | exact ⟨_, rfl⟩ | exact ends_packet _ _ _ _ _ _ | dsimp only | split
theorem execRstv_ends (f : RF) (s : State) : Ends s (execRstv f s) := by
  unfold execRstv
  repeat' first | exact ⟨_, rfl⟩ | exact ends_packet _ _ _ _ _ _ | dsimp only | split
theorem execRrcv_ends (f : RF) (s : State) : Ends s (execRrcv f s) := by
  unfold execRrcv
  repeat' first | exact ⟨_, rfl⟩ | exact ends_packet _ _ _ _ _ _ | dsimp only | split
theorem execName_ends (f : RF) (s : State) : Ends s (execName f s) := by
  unfold execName
  repeat' first | exact ⟨_, rfl⟩ | exact ends_packet _ _ _ _ _ _ | dsimp only | split
theorem execRstat_ends (f : RF) (s : State) : Ends s (execRstat f s) := by
  unfold execRstat
  repeat' first | exact ⟨_, rfl⟩ | exact ends_packet _ _ _ _ _ _ | dsimp only | split
theorem execMeetEntryFree_ends (pack : Nat) (s : State) : Ends s (execMeetEntryFree pack s) := by
  unfold execMeetEntryFree
  repeat' first | exact ⟨_, rfl⟩ | exact ends_packet _ _ _ _ _ _ | dsimp only | split
theorem execPartialGangTimer_ends (pack : Nat) (s : State) : Ends s (execPartialGangTimer pack s) := by
  unfold execPartialGangTimer
  repeat' first | exact ⟨_, rfl⟩ | exact ends_packet _ _ _ _ _ _ | dsimp only | split
theorem execHeldSetExchange_ends (entry : Nat) (s : State) : Ends s (execHeldSetExchange entry s) := by
  unfold execHeldSetExchange
  repeat' first | exact ⟨_, rfl⟩ | exact ends_packet _ _ _ _ _ _ | dsimp only | split
theorem execSplitPromotion_ends (entry : Nat) (s : State) : Ends s (execSplitPromotion entry s) := by
  unfold execSplitPromotion
  repeat' first | exact ⟨_, rfl⟩ | exact ends_packet _ _ _ _ _ _ | dsimp only | split
theorem execBinTimer_ends (bin : Nat) (s : State) : Ends s (execBinTimer bin s) := by
  unfold execBinTimer
  repeat' first | exact ⟨_, rfl⟩ | exact ends_packet _ _ _ _ _ _ | dsimp only | split
theorem execSpawnRoom_ends (slice : Nat) (s : State) : Ends s (execSpawnRoom slice s) := by
  unfold execSpawnRoom
  repeat' first | exact ⟨_, rfl⟩ | exact ends_packet _ _ _ _ _ _ | dsimp only | split
theorem execTokenGrant_ends (die : Nat) (s : State) : Ends s (execTokenGrant die s) := by
  unfold execTokenGrant
  repeat' first | exact ⟨_, rfl⟩ | exact ends_packet _ _ _ _ _ _ | dsimp only | split
theorem execMmaEngineStart_ends (quad : Nat) (s : State) : Ends s (execMmaEngineStart quad s) := by
  unfold execMmaEngineStart
  repeat' first | exact ⟨_, rfl⟩ | exact ends_packet _ _ _ _ _ _ | dsimp only | split
theorem execMmaBlockEnd_ends (quad : Nat) (s : State) : Ends s (execMmaBlockEnd quad s) := by
  unfold execMmaBlockEnd
  repeat' first | exact ⟨_, rfl⟩ | exact ends_packet _ _ _ _ _ _ | dsimp only | split
theorem execMmaResume_ends (id : Nat) (s : State) : Ends s (execMmaResume id s) := by
  unfold execMmaResume
  repeat' first | exact ⟨_, rfl⟩ | exact ends_packet _ _ _ _ _ _ | dsimp only | split
theorem execMmaSuspend_ends (id : Nat) (s : State) : Ends s (execMmaSuspend id s) := by
  unfold execMmaSuspend
  repeat' first | exact ⟨_, rfl⟩ | exact ends_packet _ _ _ _ _ _ | dsimp only | split
theorem execRefillAccept_ends (pack entry : Nat) (s : State) : Ends s (execRefillAccept pack entry s) := by
  unfold execRefillAccept
  repeat' first | exact ⟨_, rfl⟩ | exact ends_packet _ _ _ _ _ _ | dsimp only | split
theorem execCopyQueueSpace_ends (slice : Nat) (s : State) : Ends s (execCopyQueueSpace slice s) := by
  unfold execCopyQueueSpace
  repeat' first | exact ⟨_, rfl⟩ | exact ends_packet _ _ _ _ _ _ | dsimp only | split
theorem execChunkStart_ends (core queue : Nat) (s : State) : Ends s (execChunkStart core queue s) := by
  unfold execChunkStart
  repeat' first | exact ⟨_, rfl⟩ | exact ends_packet _ _ _ _ _ _ | dsimp only | split
theorem execCopyQueueResume_ends (core queue : Nat) (s : State) : Ends s (execCopyQueueResume core queue s) := by
  unfold execCopyQueueResume
  repeat' first | exact ⟨_, rfl⟩ | exact ends_packet _ _ _ _ _ _ | dsimp only | split
theorem execChunkEnd_ends (core queue : Nat) (s : State) : Ends s (execChunkEnd core queue s) := by
  unfold execChunkEnd
  repeat' first | exact ⟨_, rfl⟩ | exact ends_packet _ _ _ _ _ _ | dsimp only | split
theorem execCopyComplete_ends (core queue : Nat) (s : State) : Ends s (execCopyComplete core queue s) := by
  unfold execCopyComplete
  repeat' first | exact ⟨_, rfl⟩ | exact ends_packet _ _ _ _ _ _ | dsimp only | split
theorem execBarrierWake_ends (slice : Nat) (s : State) : Ends s (execBarrierWake slice s) := by
  unfold execBarrierWake
  repeat' first | exact ⟨_, rfl⟩ | exact ends_packet _ _ _ _ _ _ | dsimp only | split
theorem execGroupPhaseComplete_ends (launch group : Nat) (s : State) : Ends s (execGroupPhaseComplete launch group s) := by
  unfold execGroupPhaseComplete
  repeat' first | exact ⟨_, rfl⟩ | exact ends_packet _ _ _ _ _ _ | dsimp only | split
theorem execAwaitWake_ends (slice : Nat) (s : State) : Ends s (execAwaitWake slice s) := by
  unfold execAwaitWake
  repeat' first | exact ⟨_, rfl⟩ | exact ends_packet _ _ _ _ _ _ | dsimp only | split
theorem execAwaitTimeout_ends (slice : Nat) (s : State) : Ends s (execAwaitTimeout slice s) := by
  unfold execAwaitTimeout
  repeat' first | exact ⟨_, rfl⟩ | exact ends_packet _ _ _ _ _ _ | dsimp only | split
theorem execLoadDataReturn_ends (req : Nat) (s : State) : Ends s (execLoadDataReturn req s) := by
  unfold execLoadDataReturn
  repeat' first | exact ⟨_, rfl⟩ | exact ends_packet _ _ _ _ _ _ | dsimp only | split
theorem execHomeRead_ends (req : Nat) (s : State) : Ends s (execHomeRead req s) := by
  unfold execHomeRead
  repeat' first | exact ⟨_, rfl⟩ | exact ends_packet _ _ _ _ _ _ | dsimp only | split
theorem execHomeWrite_ends (req : Nat) (s : State) : Ends s (execHomeWrite req s) := by
  unfold execHomeWrite
  repeat' first | exact ⟨_, rfl⟩ | exact ends_packet _ _ _ _ _ _ | dsimp only | split
theorem execStoreAck_ends (req : Nat) (s : State) : Ends s (execStoreAck req s) := by
  unfold execStoreAck
  repeat' first | exact ⟨_, rfl⟩ | exact ends_packet _ _ _ _ _ _ | dsimp only | split
theorem execParkedReplay_ends (req : Nat) (s : State) : Ends s (execParkedReplay req s) := by
  unfold execParkedReplay
  repeat' first | exact ⟨_, rfl⟩ | exact ends_packet _ _ _ _ _ _ | dsimp only | split
theorem execMigrationComplete_ends (asid : Nat) (va : Nat) (s : State) : EndsOr s (execMigrationComplete asid va s) := by
  unfold execMigrationComplete
  repeat' first | exact .inl ⟨_, rfl⟩ | exact .inr ⟨_, rfl⟩ | dsimp only | split
theorem execPageMove_ends (asid : Nat) (va tier stack : Nat) (s : State) : Ends s (execPageMove asid va tier stack s) := by
  unfold execPageMove
  repeat' first | exact ⟨_, rfl⟩ | exact ends_packet _ _ _ _ _ _ | dsimp only | split
theorem execWcBufferDrain_ends (core : Nat) (s : State) : Ends s (execWcBufferDrain core s) := by
  unfold execWcBufferDrain
  repeat' first | exact ⟨_, rfl⟩ | exact ends_packet _ _ _ _ _ _ | dsimp only | split
theorem execL2Writeback_ends (line : Nat) (s : State) : Ends s (execL2Writeback line s) := by
  unfold execL2Writeback
  repeat' first | exact ⟨_, rfl⟩ | exact ends_packet _ _ _ _ _ _ | dsimp only | split
theorem execClockTick_ends (core : Nat) (s : State) : Ends s (execClockTick core s) := by
  unfold execClockTick
  repeat' first | exact ⟨_, rfl⟩ | exact ends_packet _ _ _ _ _ _ | dsimp only | split
theorem execSweepComplete_ends (die : Nat) (s : State) : Ends s (execSweepComplete die s) := by
  unfold execSweepComplete
  repeat' first | exact ⟨_, rfl⟩ | exact ends_packet _ _ _ _ _ _ | dsimp only | split
theorem execFenceSpValidate_ends (gang : Nat) (s : State) : Ends s (execFenceSpValidate gang s) := by
  unfold execFenceSpValidate
  repeat' first | exact ⟨_, rfl⟩ | exact ends_packet _ _ _ _ _ _ | dsimp only | split
theorem execPersistAccept_ends (id : Nat) (s : State) : Ends s (execPersistAccept id s) := by
  unfold execPersistAccept
  repeat' first | exact ⟨_, rfl⟩ | exact ends_packet _ _ _ _ _ _ | dsimp only | split
theorem execEpochClosedNotice_ends (slice epoch opq : Nat) (s : State) : Ends s (execEpochClosedNotice slice epoch opq s) := by
  unfold execEpochClosedNotice
  repeat' first | exact ⟨_, rfl⟩ | exact ends_packet _ _ _ _ _ _ | dsimp only | split
theorem execCxlSnoopInvalidation_ends (hpa : Nat) (data : List Byte) (s : State) : Ends s (execCxlSnoopInvalidation hpa data s) := by
  unfold execCxlSnoopInvalidation
  repeat' first | exact ⟨_, rfl⟩ | exact ends_packet _ _ _ _ _ _ | dsimp only | split
theorem execHostMemRead_ends (pa size : Nat) (s : State) : EndsOr s (execHostMemRead pa size s) := by
  unfold execHostMemRead
  repeat' first | exact .inl ⟨_, rfl⟩ | exact .inr ⟨_, rfl⟩ | dsimp only | split
theorem execHostMemWrite_ends (pa : Nat) (data : List Byte) (s : State) : EndsOr s (execHostMemWrite pa data s) := by
  unfold execHostMemWrite
  repeat' first | exact .inl ⟨_, rfl⟩ | exact .inr ⟨_, rfl⟩ | dsimp only | split
theorem execCxlCompletionTimeout_ends (req : Nat) (s : State) : Ends s (execCxlCompletionTimeout req s) := by
  unfold execCxlCompletionTimeout
  repeat' first | exact ⟨_, rfl⟩ | exact ends_packet _ _ _ _ _ _ | dsimp only | split
theorem execIdeCheckFail_ends (s : State) : Ends s (execIdeCheckFail s) := by
  unfold execIdeCheckFail
  repeat' first | exact ⟨_, rfl⟩ | exact ends_packet _ _ _ _ _ _ | dsimp only | split
theorem execIdeKm_ends (s : State) : Ends s (execIdeKm s) := by
  unfold execIdeKm
  repeat' first | exact ⟨_, rfl⟩ | exact ends_packet _ _ _ _ _ _ | dsimp only | split
theorem execRemoteAccessArrive_ends (a : RemoteAccess) (s : State) : Ends s (execRemoteAccessArrive a s) := by
  unfold execRemoteAccessArrive
  repeat' first | exact ⟨_, rfl⟩ | exact ends_packet _ _ _ _ _ _ | dsimp only | split
theorem execRemoteResponse_ends (req rcode : Nat) (data : List Byte) (s : State) : Ends s (execRemoteResponse req rcode data s) := by
  unfold execRemoteResponse
  repeat' first | exact ⟨_, rfl⟩ | exact ends_packet _ _ _ _ _ _ | dsimp only | split
theorem execRemoteTimeout_ends (req : Nat) (s : State) : Ends s (execRemoteTimeout req s) := by
  unfold execRemoteTimeout
  repeat' first | exact ⟨_, rfl⟩ | exact ends_packet _ _ _ _ _ _ | dsimp only | split
theorem execDropNotice_ends (req : Nat) (s : State) : Ends s (execDropNotice req s) := by
  unfold execDropNotice
  repeat' first | exact ⟨_, rfl⟩ | exact ends_packet _ _ _ _ _ _ | dsimp only | split
theorem execBulkPacketArrive_ends (p : BulkPacket) (s : State) : Ends s (execBulkPacketArrive p s) := by
  unfold execBulkPacketArrive
  repeat' first | exact ⟨_, rfl⟩ | exact ends_packet _ _ _ _ _ _ | dsimp only | split
theorem execBulkAck_ends (op packet rcode : Nat) (data : List Byte) (s : State) : Ends s (execBulkAck op packet rcode data s) := by
  unfold execBulkAck
  repeat' first | exact ⟨_, rfl⟩ | exact ends_packet _ _ _ _ _ _ | dsimp only | split
theorem execMessageArrive_ends (m : Message) (s : State) : Ends s (execMessageArrive m s) := by
  unfold execMessageArrive
  repeat' first | exact ⟨_, rfl⟩ | exact ends_packet _ _ _ _ _ _ | dsimp only | split
theorem execLinkTraining_ends (port : Nat) (s : State) : Ends s (execLinkTraining port s) := by
  unfold execLinkTraining
  repeat' first | exact ⟨_, rfl⟩ | exact ends_packet _ _ _ _ _ _ | dsimp only | split
theorem execLinkRekey_ends (port : Nat) (s : State) : Ends s (execLinkRekey port s) := by
  unfold execLinkRekey
  repeat' first | exact ⟨_, rfl⟩ | exact ends_packet _ _ _ _ _ _ | dsimp only | split
theorem execLinkDown_ends (port : Nat) (s : State) : Ends s (execLinkDown port s) := by
  unfold execLinkDown
  repeat' first | exact ⟨_, rfl⟩ | exact ends_packet _ _ _ _ _ _ | dsimp only | split
theorem execPackDispatch_ends (launch core : Nat) (s : State) : Ends s (execPackDispatch launch core s) := by
  unfold execPackDispatch
  repeat' first | exact ⟨_, rfl⟩ | exact ends_packet _ _ _ _ _ _ | dsimp only | split
theorem execLaunchComplete_ends (launch : Nat) (s : State) : Ends s (execLaunchComplete launch s) := by
  unfold execLaunchComplete
  repeat' first | exact ⟨_, rfl⟩ | exact ends_packet _ _ _ _ _ _ | dsimp only | split
theorem execDrainPreemption_ends (launch : Nat) (s : State) : Ends s (execDrainPreemption launch s) := by
  unfold execDrainPreemption
  repeat' first | exact ⟨_, rfl⟩ | exact ends_packet _ _ _ _ _ _ | dsimp only | split
theorem execHardPreemption_ends (launch : Nat) (s : State) : Ends s (execHardPreemption launch s) := by
  unfold execHardPreemption
  repeat' first | exact ⟨_, rfl⟩ | exact ends_packet _ _ _ _ _ _ | dsimp only | split
theorem execPackRestore_ends (pack core slot : Nat) (s : State) : Ends s (execPackRestore pack core slot s) := by
  unfold execPackRestore
  repeat' first | exact ⟨_, rfl⟩ | exact ends_packet _ _ _ _ _ _ | dsimp only | split
theorem execSundeshThreadWake_ends (queue : Nat) (s : State) : Ends s (execSundeshThreadWake queue s) := by
  unfold execSundeshThreadWake
  repeat' first | exact ⟨_, rfl⟩ | exact ends_packet _ _ _ _ _ _ | dsimp only | split
theorem execWaitTimeout_ends (queue : Nat) (s : State) : Ends s (execWaitTimeout queue s) := by
  unfold execWaitTimeout
  repeat' first | exact ⟨_, rfl⟩ | exact ends_packet _ _ _ _ _ _ | dsimp only | split
theorem execQueueRotation_ends (out into : Nat) (s : State) : Ends s (execQueueRotation out into s) := by
  unfold execQueueRotation
  repeat' first | exact ⟨_, rfl⟩ | exact ends_packet _ _ _ _ _ _ | dsimp only | split
theorem execPoolUpdate_ends (die : Nat) (s : State) : Ends s (execPoolUpdate die s) := by
  unfold execPoolUpdate
  repeat' first | exact ⟨_, rfl⟩ | exact ends_packet _ _ _ _ _ _ | dsimp only | split
theorem execTelemetryRefresh_ends (s : State) : Ends s (execTelemetryRefresh s) := by
  unfold execTelemetryRefresh
  repeat' first | exact ⟨_, rfl⟩ | exact ends_packet _ _ _ _ _ _ | dsimp only | split
theorem execRailOvercurrent_ends (s : State) : Ends s (execRailOvercurrent s) := by
  unfold execRailOvercurrent
  repeat' first | exact ⟨_, rfl⟩ | exact ends_packet _ _ _ _ _ _ | dsimp only | split
theorem execClockStepUp_ends (s : State) : Ends s (execClockStepUp s) := by
  unfold execClockStepUp
  repeat' first | exact ⟨_, rfl⟩ | exact ends_packet _ _ _ _ _ _ | dsimp only | split
theorem execJunctionOver105_ends (die : Nat) (s : State) : Ends s (execJunctionOver105 die s) := by
  unfold execJunctionOver105
  repeat' first | exact ⟨_, rfl⟩ | exact ends_packet _ _ _ _ _ _ | dsimp only | split
theorem execThermalTrip_ends (s : State) : Ends s (execThermalTrip s) := by
  unfold execThermalTrip
  repeat' first | exact ⟨_, rfl⟩ | exact ends_packet _ _ _ _ _ _ | dsimp only | split
theorem execPowerLoss_ends (s : State) : Ends s (execPowerLoss s) := by
  unfold execPowerLoss
  repeat' first | exact ⟨_, rfl⟩ | exact ends_packet _ _ _ _ _ _ | dsimp only | split
theorem execPowerOn_ends (s : State) : Ends s (execPowerOn s) := by
  unfold execPowerOn
  repeat' first | exact ⟨_, rfl⟩ | exact ends_packet _ _ _ _ _ _ | dsimp only | split
theorem execBringupStage_ends (s : State) : Ends s (execBringupStage s) := by
  unfold execBringupStage
  repeat' first | exact ⟨_, rfl⟩ | exact ends_packet _ _ _ _ _ _ | dsimp only | split
theorem execPoisonRecheck_ends (line : Nat) (s : State) : Ends s (execPoisonRecheck line s) := by
  unfold execPoisonRecheck
  repeat' first | exact ⟨_, rfl⟩ | exact ends_packet _ _ _ _ _ _ | dsimp only | split
theorem execUncontainableError_ends (s : State) : Ends s (execUncontainableError s) := by
  unfold execUncontainableError
  repeat' first | exact ⟨_, rfl⟩ | exact ends_packet _ _ _ _ _ _ | dsimp only | split
theorem execSettPageCopy_ends (asid : Nat) (va : Nat) (s : State) : Ends s (execSettPageCopy asid va s) := by
  unfold execSettPageCopy
  repeat' first | exact ⟨_, rfl⟩ | exact ends_packet _ _ _ _ _ _ | dsimp only | split
theorem execSnapshotComplete_ends (asid : Nat) (s : State) : Ends s (execSnapshotComplete asid s) := by
  unfold execSnapshotComplete
  repeat' first | exact ⟨_, rfl⟩ | exact ends_packet _ _ _ _ _ _ | dsimp only | split
theorem execParityFold_ends (asid : Nat) (desc : Nat) (s : State) : Ends s (execParityFold asid desc s) := by
  unfold execParityFold
  repeat' first | exact ⟨_, rfl⟩ | exact ends_packet _ _ _ _ _ _ | dsimp only | split
theorem execRebuildDone_ends (asid : Nat) (s : State) : Ends s (execRebuildDone asid s) := by
  unfold execRebuildDone
  repeat' first | exact ⟨_, rfl⟩ | exact ends_packet _ _ _ _ _ _ | dsimp only | split
theorem execHeartbeatTimeout_ends (s : State) : Ends s (execHeartbeatTimeout s) := by
  unfold execHeartbeatTimeout
  repeat' first | exact ⟨_, rfl⟩ | exact ends_packet _ _ _ _ _ _ | dsimp only | split
theorem execDoorbell_ends (queue count : Nat) (s : State) : Ends s (execDoorbell queue count s) := by
  unfold execDoorbell
  repeat' first | exact ⟨_, rfl⟩ | exact ends_packet _ _ _ _ _ _ | dsimp only | split
theorem execWarmReset_ends (s : State) : Ends s (execWarmReset s) := by
  unfold execWarmReset
  repeat' first | exact ⟨_, rfl⟩ | exact ends_packet _ _ _ _ _ _ | dsimp only | split
theorem execPlimWrite_ends (value : Nat) (s : State) : Ends s (execPlimWrite value s) := by
  unfold execPlimWrite
  repeat' first | exact ⟨_, rfl⟩ | exact ends_packet _ _ _ _ _ _ | dsimp only | split
theorem execQreg_ends (queue va : Nat) (s : State) : Ends s (execQreg queue va s) := by
  unfold execQreg
  repeat' first | exact ⟨_, rfl⟩ | exact ends_packet _ _ _ _ _ _ | dsimp only | split
theorem execQunreg_ends (queue : Nat) (s : State) : Ends s (execQunreg queue s) := by
  unfold execQunreg
  repeat' first | exact ⟨_, rfl⟩ | exact ends_packet _ _ _ _ _ _ | dsimp only | split
theorem execQresume_ends (queue : Nat) (s : State) : Ends s (execQresume queue s) := by
  unfold execQresume
  repeat' first | exact ⟨_, rfl⟩ | exact ends_packet _ _ _ _ _ _ | dsimp only | split
theorem execPreempt_ends (queue mode : Nat) (s : State) : Ends s (execPreempt queue mode s) := by
  unfold execPreempt
  repeat' first | exact ⟨_, rfl⟩ | exact ends_packet _ _ _ _ _ _ | dsimp only | split
theorem execFwstage_ends (slot va : Nat) (s : State) : Ends s (execFwstage slot va s) := by
  unfold execFwstage
  repeat' first | exact ⟨_, rfl⟩ | exact ends_packet _ _ _ _ _ _ | dsimp only | split
theorem execFwact_ends (expected : Nat) (s : State) : Ends s (execFwact expected s) := by
  unfold execFwact
  repeat' first | exact ⟨_, rfl⟩ | exact ends_packet _ _ _ _ _ _ | dsimp only | split
theorem execDbgstate_ends (queue name va : Nat) (s : State) : Ends s (execDbgstate queue name va s) := by
  unfold execDbgstate
  repeat' first | exact ⟨_, rfl⟩ | exact ends_packet _ _ _ _ _ _ | dsimp only | split
theorem execDbgwrite_ends (queue name va : Nat) (s : State) : Ends s (execDbgwrite queue name va s) := by
  unfold execDbgwrite
  repeat' first | exact ⟨_, rfl⟩ | exact ends_packet _ _ _ _ _ _ | dsimp only | split
theorem execDbgresume_ends (queue name : Nat) (s : State) : Ends s (execDbgresume queue name s) := by
  unfold execDbgresume
  repeat' first | exact ⟨_, rfl⟩ | exact ends_packet _ _ _ _ _ _ | dsimp only | split
theorem execNopPacket_ends (queue index : Nat) (s : State) : Ends s (execNopPacket queue index s) := by
  unfold execNopPacket
  repeat' first | exact ⟨_, rfl⟩ | exact ends_packet _ _ _ _ _ _ | dsimp only | split
theorem execLaunch_ends (queue index : Nat) (s : State) : Ends s (execLaunch queue index s) := by
  unfold execLaunch
  repeat' first | exact ⟨_, rfl⟩ | exact ends_packet _ _ _ _ _ _ | dsimp only | split
theorem execGraphSeal_ends (queue index : Nat) (s : State) : Ends s (execGraphSeal queue index s) := by
  unfold execGraphSeal
  repeat' first | exact ⟨_, rfl⟩ | exact ends_packet _ _ _ _ _ _ | dsimp only | split
theorem execGraphLaunch_ends (queue index : Nat) (s : State) : Ends s (execGraphLaunch queue index s) := by
  unfold execGraphLaunch
  repeat' first | exact ⟨_, rfl⟩ | exact ends_packet _ _ _ _ _ _ | dsimp only | split
theorem execWait_ends (queue index : Nat) (s : State) : Ends s (execWait queue index s) := by
  unfold execWait
  repeat' first | exact ⟨_, rfl⟩ | exact ends_packet _ _ _ _ _ _ | dsimp only | split
theorem execSignalWrite_ends (queue index : Nat) (s : State) : Ends s (execSignalWrite queue index s) := by
  unfold execSignalWrite
  repeat' first | exact ⟨_, rfl⟩ | exact ends_packet _ _ _ _ _ _ | dsimp only | split
theorem execSignalAdd_ends (queue index : Nat) (s : State) : Ends s (execSignalAdd queue index s) := by
  unfold execSignalAdd
  repeat' first | exact ⟨_, rfl⟩ | exact ends_packet _ _ _ _ _ _ | dsimp only | split
theorem execBarrier_ends (queue index : Nat) (s : State) : Ends s (execBarrier queue index s) := by
  unfold execBarrier
  repeat' first | exact ⟨_, rfl⟩ | exact ends_packet _ _ _ _ _ _ | dsimp only | split
theorem execMapRoot_ends (queue index : Nat) (s : State) : Ends s (execMapRoot queue index s) := by
  unfold execMapRoot
  repeat' first | exact ⟨_, rfl⟩ | exact ends_packet _ _ _ _ _ _ | dsimp only | split
theorem execMapSync_ends (queue index : Nat) (s : State) : Ends s (execMapSync queue index s) := by
  unfold execMapSync
  repeat' first | exact ⟨_, rfl⟩ | exact ends_packet _ _ _ _ _ _ | dsimp only | split
theorem execDspalloc_ends (queue index : Nat) (s : State) : Ends s (execDspalloc queue index s) := by
  unfold execDspalloc
  repeat' first | exact ⟨_, rfl⟩ | exact ends_packet _ _ _ _ _ _ | dsimp only | split
theorem execDspfree_ends (queue index : Nat) (s : State) : Ends s (execDspfree queue index s) := by
  unfold execDspfree
  repeat' first | exact ⟨_, rfl⟩ | exact ends_packet _ _ _ _ _ _ | dsimp only | split
theorem execMigreg_ends (queue index : Nat) (s : State) : Ends s (execMigreg queue index s) := by
  unfold execMigreg
  repeat' first | exact ⟨_, rfl⟩ | exact ends_packet _ _ _ _ _ _ | dsimp only | split
theorem execMcgroup_ends (queue index : Nat) (s : State) : Ends s (execMcgroup queue index s) := by
  unfold execMcgroup
  repeat' first | exact ⟨_, rfl⟩ | exact ends_packet _ _ _ _ _ _ | dsimp only | split
theorem execMcfree_ends (queue index : Nat) (s : State) : Ends s (execMcfree queue index s) := by
  unfold execMcfree
  repeat' first | exact ⟨_, rfl⟩ | exact ends_packet _ _ _ _ _ _ | dsimp only | split
theorem execUnmap_ends (queue index : Nat) (s : State) : Ends s (execUnmap queue index s) := by
  unfold execUnmap
  repeat' first | exact ⟨_, rfl⟩ | exact ends_packet _ _ _ _ _ _ | dsimp only | split
theorem execBias_ends (queue index : Nat) (s : State) : Ends s (execBias queue index s) := by
  unfold execBias
  repeat' first | exact ⟨_, rfl⟩ | exact ends_packet _ _ _ _ _ _ | dsimp only | split
theorem execCap_ends (queue index : Nat) (s : State) : Ends s (execCap queue index s) := by
  unfold execCap
  repeat' first | exact ⟨_, rfl⟩ | exact ends_packet _ _ _ _ _ _ | dsimp only | split
theorem execStep_ends (queue index : Nat) (s : State) : Ends s (execStep queue index s) := by
  unfold execStep
  repeat' first | exact ⟨_, rfl⟩ | exact ends_packet _ _ _ _ _ _ | dsimp only | split
theorem execSnapregionAdd_ends (queue index : Nat) (s : State) : Ends s (execSnapregionAdd queue index s) := by
  unfold execSnapregionAdd
  repeat' first | exact ⟨_, rfl⟩ | exact ends_packet _ _ _ _ _ _ | dsimp only | split
theorem execSnapregionRemove_ends (queue index : Nat) (s : State) : Ends s (execSnapregionRemove queue index s) := by
  unfold execSnapregionRemove
  repeat' first | exact ⟨_, rfl⟩ | exact ends_packet _ _ _ _ _ _ | dsimp only | split
theorem execRebuild_ends (queue index : Nat) (s : State) : Ends s (execRebuild queue index s) := by
  unfold execRebuild
  repeat' first | exact ⟨_, rfl⟩ | exact ends_packet _ _ _ _ _ _ | dsimp only | split
theorem execPersist_ends (queue index : Nat) (s : State) : Ends s (execPersist queue index s) := by
  unfold execPersist
  repeat' first | exact ⟨_, rfl⟩ | exact ends_packet _ _ _ _ _ _ | dsimp only | split
theorem execAttest_ends (queue index : Nat) (s : State) : Ends s (execAttest queue index s) := by
  unfold execAttest
  repeat' first | exact ⟨_, rfl⟩ | exact ends_packet _ _ _ _ _ _ | dsimp only | split
theorem execGetVersion_ends (s : State) : Ends s (execGetVersion s) := by
  unfold execGetVersion
  repeat' first | exact ⟨_, rfl⟩ | exact ends_packet _ _ _ _ _ _ | dsimp only | split
theorem execGetCapabilities_ends (s : State) : Ends s (execGetCapabilities s) := by
  unfold execGetCapabilities
  repeat' first | exact ⟨_, rfl⟩ | exact ends_packet _ _ _ _ _ _ | dsimp only | split
theorem execNegotiateAlgorithms_ends (s : State) : Ends s (execNegotiateAlgorithms s) := by
  unfold execNegotiateAlgorithms
  repeat' first | exact ⟨_, rfl⟩ | exact ends_packet _ _ _ _ _ _ | dsimp only | split
theorem execGetDigests_ends (s : State) : Ends s (execGetDigests s) := by
  unfold execGetDigests
  repeat' first | exact ⟨_, rfl⟩ | exact ends_packet _ _ _ _ _ _ | dsimp only | split
theorem execGetCertificate_ends (slot : Nat) (s : State) : Ends s (execGetCertificate slot s) := by
  unfold execGetCertificate
  repeat' first | exact ⟨_, rfl⟩ | exact ends_packet _ _ _ _ _ _ | dsimp only | split
theorem execChallenge_ends (nonce : Nat) (s : State) : Ends s (execChallenge nonce s) := by
  unfold execChallenge
  repeat' first | exact ⟨_, rfl⟩ | exact ends_packet _ _ _ _ _ _ | dsimp only | split
theorem execGetMeasurements_ends (index : Nat) (s : State) : Ends s (execGetMeasurements index s) := by
  unfold execGetMeasurements
  repeat' first | exact ⟨_, rfl⟩ | exact ends_packet _ _ _ _ _ _ | dsimp only | split
theorem execKeyExchange_ends (s : State) : Ends s (execKeyExchange s) := by
  unfold execKeyExchange
  repeat' first | exact ⟨_, rfl⟩ | exact ends_packet _ _ _ _ _ _ | dsimp only | split
theorem execFinish_ends (s : State) : Ends s (execFinish s) := by
  unfold execFinish
  repeat' first | exact ⟨_, rfl⟩ | exact ends_packet _ _ _ _ _ _ | dsimp only | split
theorem execEndSession_ends (s : State) : Ends s (execEndSession s) := by
  unfold execEndSession
  repeat' first | exact ⟨_, rfl⟩ | exact ends_packet _ _ _ _ _ _ | dsimp only | split
theorem execKeyset_ends (slot : Nat) (key : BitVec 256) (s : State) : Ends s (execKeyset slot key s) := by
  unfold execKeyset
  repeat' first | exact ⟨_, rfl⟩ | exact ends_packet _ _ _ _ _ _ | dsimp only | split
theorem execKeyrevoke_ends (slot : Nat) (s : State) : Ends s (execKeyrevoke slot s) := by
  unfold execKeyrevoke
  repeat' first | exact ⟨_, rfl⟩ | exact ends_packet _ _ _ _ _ _ | dsimp only | split
theorem execOpqDrain_ends (die : Nat) (s : State) : Ends s (execOpqDrain die s) := by
  unfold execOpqDrain
  repeat' first | exact ⟨_, rfl⟩ | exact ends_packet _ _ _ _ _ _ | dsimp only | split
theorem execLeaseCopyEviction_ends (copy : Nat) (s : State) : Ends s (execLeaseCopyEviction copy s) := by
  unfold execLeaseCopyEviction
  repeat' first | exact ⟨_, rfl⟩ | exact ends_packet _ _ _ _ _ _ | dsimp only | split
theorem execHostRegisterWrite_ends (offset value : Nat) (s : State) : Ends s (execHostRegisterWrite offset value s) := by
  unfold execHostRegisterWrite
  repeat' first | exact ⟨_, rfl⟩ | exact ends_packet _ _ _ _ _ _ | exact execWarmReset_ends _ | exact execDoorbell_ends _ _ _ | dsimp only | split

/-- Every instruction and every agent's step goes on from every state, but for the three rows that reach a frame by its number. -/
theorem exec_endsOr (i : Instr) (s : State) : EndsOr s (exec i s) := by
  cases i with
  | ext x => exact .inl (execExt_ends x s)
  | nop f => exact .inl (execNop_ends f s)
  | bkpt f => exact .inl (execBkpt_ends f s)
  | yield f => exact .inl (execYield_ends f s)
  | exit f => exact .inl (execExit_ends f s)
  | trap f => exact .inl (execTrap_ends f s)
  | rtt f => exact .inl (execRtt_ends f s)
  | srd f => exact .inl (execSrd_ends f s)
  | swr f => exact .inl (execSwr_ends f s)
  | brAny f => exact .inl (execBrAny_ends f s)
  | brAll f => exact .inl (execBrAll_ends f s)
  | call f => exact .inl (execCall_ends f s)
  | jmpr f => exact .inl (execJmpr_ends f s)
  | callr f => exact .inl (execCallr_ends f s)
  | ret f => exact .inl (execRet_ends f s)
  | regang f => exact .inl (execRegang_ends f s)
  | spawn f => exact .inl (execSpawn_ends f s)
  | spill f => exact .inl (execSpill_ends f s)
  | fill f => exact .inl (execFill_ends f s)
  | pand f => exact .inl (execPand_ends f s)
  | por f => exact .inl (execPor_ends f s)
  | pxor f => exact .inl (execPxor_ends f s)
  | pnot f => exact .inl (execPnot_ends f s)
  | voteAny f => exact .inl (execVoteAny_ends f s)
  | voteAll f => exact .inl (execVoteAll_ends f s)
  | ballot f => exact .inl (execBallot_ends f s)
  | pmov f => exact .inl (execPmov_ends f s)
  | shflIdx f => exact .inl (execShflIdx_ends f s)
  | shflUp f => exact .inl (execShflUp_ends f s)
  | shflDown f => exact .inl (execShflDown_ends f s)
  | shflXor f => exact .inl (execShflXor_ends f s)
  | lswz f => exact .inl (execLswz_ends f s)
  | gredIadd f => exact .inl (execGredIadd_ends f s)
  | gredFmax f => exact .inl (execGredFmax_ends f s)
  | gscanIadd f => exact .inl (execGscanIadd_ends f s)
  | iadd f => exact .inl (execIadd_ends f s)
  | isub f => exact .inl (execIsub_ends f s)
  | imul f => exact .inl (execImul_ends f s)
  | imulhI f => exact .inl (execImulhI_ends f s)
  | imulhN f => exact .inl (execImulhN_ends f s)
  | ineg f => exact .inl (execIneg_ends f s)
  | iabs f => exact .inl (execIabs_ends f s)
  | iaddSat f => exact .inl (execIaddSat_ends f s)
  | iminI f => exact .inl (execIminI_ends f s)
  | iminN f => exact .inl (execIminN_ends f s)
  | imaxI f => exact .inl (execImaxI_ends f s)
  | imaxN f => exact .inl (execImaxN_ends f s)
  | iadd64 f => exact .inl (execIadd64_ends f s)
  | isub64 f => exact .inl (execIsub64_ends f s)
  | lea f => exact .inl (execLea_ends f s)
  | isubSat f => exact .inl (execIsubSat_ends f s)
  | imad f => exact .inl (execImad_ends f s)
  | imadwI f => exact .inl (execImadwI_ends f s)
  | imadwN f => exact .inl (execImadwN_ends f s)
  | iaccw f => exact .inl (execIaccw_ends f s)
  | idot4I8 f => exact .inl (execIdot4I8_ends f s)
  | idot4N8 f => exact .inl (execIdot4N8_ends f s)
  | idot2I16 f => exact .inl (execIdot2I16_ends f s)
  | isad f => exact .inl (execIsad_ends f s)
  | and f => exact .inl (execAnd_ends f s)
  | or f => exact .inl (execOr_ends f s)
  | xor f => exact .inl (execXor_ends f s)
  | andn f => exact .inl (execAndn_ends f s)
  | orn f => exact .inl (execOrn_ends f s)
  | not f => exact .inl (execNot_ends f s)
  | mov f => exact .inl (execMov_ends f s)
  | sel f => exact .inl (execSel_ends f s)
  | shl f => exact .inl (execShl_ends f s)
  | shr f => exact .inl (execShr_ends f s)
  | sar f => exact .inl (execSar_ends f s)
  | rol f => exact .inl (execRol_ends f s)
  | ror f => exact .inl (execRor_ends f s)
  | shl64 f => exact .inl (execShl64_ends f s)
  | shr64 f => exact .inl (execShr64_ends f s)
  | sar64 f => exact .inl (execSar64_ends f s)
  | popc f => exact .inl (execPopc_ends f s)
  | clz f => exact .inl (execClz_ends f s)
  | ctz f => exact .inl (execCtz_ends f s)
  | brev f => exact .inl (execBrev_ends f s)
  | bfxI f => exact .inl (execBfxI_ends f s)
  | bfxN f => exact .inl (execBfxN_ends f s)
  | bfi f => exact .inl (execBfi_ends f s)
  | bswp f => exact .inl (execBswp_ends f s)
  | isetEq f => exact .inl (execIsetEq_ends f s)
  | isetNe f => exact .inl (execIsetNe_ends f s)
  | isetLtI f => exact .inl (execIsetLtI_ends f s)
  | isetLeI f => exact .inl (execIsetLeI_ends f s)
  | isetLtN f => exact .inl (execIsetLtN_ends f s)
  | isetLeN f => exact .inl (execIsetLeN_ends f s)
  | isetTst f => exact .inl (execIsetTst_ends f s)
  | movi f => exact .inl (execMovi_ends f s)
  | movh f => exact .inl (execMovh_ends f s)
  | mov64 f => exact .inl (execMov64_ends f s)
  | idxset f => exact .inl (execIdxset_ends f s)
  | idxadd f => exact .inl (execIdxadd_ends f s)
  | winset f => exact .inl (execWinset_ends f s)
  | unif f => exact .inl (execUnif_ends f s)
  | fadd f => exact .inl (execFadd_ends f s)
  | fsub f => exact .inl (execFsub_ends f s)
  | fmul f => exact .inl (execFmul_ends f s)
  | fmin f => exact .inl (execFmin_ends f s)
  | fmax f => exact .inl (execFmax_ends f s)
  | fabs f => exact .inl (execFabs_ends f s)
  | fneg f => exact .inl (execFneg_ends f s)
  | fcpys f => exact .inl (execFcpys_ends f s)
  | ffma f => exact .inl (execFfma_ends f s)
  | ffms f => exact .inl (execFfms_ends f s)
  | fnma f => exact .inl (execFnma_ends f s)
  | twosum f => exact .inl (execTwosum_ends f s)
  | ftsum f => exact .inl (execFtsum_ends f s)
  | twoprod f => exact .inl (execTwoprod_ends f s)
  | fsetEq f => exact .inl (execFsetEq_ends f s)
  | fsetNe f => exact .inl (execFsetNe_ends f s)
  | fsetLt f => exact .inl (execFsetLt_ends f s)
  | fsetLe f => exact .inl (execFsetLe_ends f s)
  | fsetUnord f => exact .inl (execFsetUnord_ends f s)
  | fsetOrd f => exact .inl (execFsetOrd_ends f s)
  | fsetClass f => exact .inl (execFsetClass_ends f s)
  | frcp f => exact .inl (execFrcp_ends f s)
  | frsq f => exact .inl (execFrsq_ends f s)
  | fsqrt f => exact .inl (execFsqrt_ends f s)
  | fexp2 f => exact .inl (execFexp2_ends f s)
  | flog2 f => exact .inl (execFlog2_ends f s)
  | fsin f => exact .inl (execFsin_ends f s)
  | fcos f => exact .inl (execFcos_ends f s)
  | ftanh f => exact .inl (execFtanh_ends f s)
  | hadd2Bf16 f => exact .inl (execHadd2Bf16_ends f s)
  | hmul2Bf16 f => exact .inl (execHmul2Bf16_ends f s)
  | hfma2Bf16 f => exact .inl (execHfma2Bf16_ends f s)
  | hadd2F16 f => exact .inl (execHadd2F16_ends f s)
  | hmul2F16 f => exact .inl (execHmul2F16_ends f s)
  | hfma2F16 f => exact .inl (execHfma2F16_ends f s)
  | hmax2Bf16 f => exact .inl (execHmax2Bf16_ends f s)
  | hmin2Bf16 f => exact .inl (execHmin2Bf16_ends f s)
  | dadd f => exact .inl (execDadd_ends f s)
  | dsub f => exact .inl (execDsub_ends f s)
  | dmul f => exact .inl (execDmul_ends f s)
  | dfma f => exact .inl (execDfma_ends f s)
  | dmin f => exact .inl (execDmin_ends f s)
  | dmax f => exact .inl (execDmax_ends f s)
  | dsetLt f => exact .inl (execDsetLt_ends f s)
  | dsetEq f => exact .inl (execDsetEq_ends f s)
  | cvtF32I32 f => exact .inl (execCvtF32I32_ends f s)
  | cvtF32N32 f => exact .inl (execCvtF32N32_ends f s)
  | cvtI32F32 f => exact .inl (execCvtI32F32_ends f s)
  | cvtN32F32 f => exact .inl (execCvtN32F32_ends f s)
  | cvtF32F64 f => exact .inl (execCvtF32F64_ends f s)
  | cvtF64F32 f => exact .inl (execCvtF64F32_ends f s)
  | cvtBf16x2F32 f => exact .inl (execCvtBf16x2F32_ends f s)
  | cvtF16x2F32 f => exact .inl (execCvtF16x2F32_ends f s)
  | unpkBf16x2 f => exact .inl (execUnpkBf16x2_ends f s)
  | unpkF16x2 f => exact .inl (execUnpkF16x2_ends f s)
  | cvtF64I32 f => exact .inl (execCvtF64I32_ends f s)
  | cvtI32F64 f => exact .inl (execCvtI32F64_ends f s)
  | packI8x4 f => exact .inl (execPackI8x4_ends f s)
  | packN8x4 f => exact .inl (execPackN8x4_ends f s)
  | unpkI8x4 f => exact .inl (execUnpkI8x4_ends f s)
  | unpkN8x4 f => exact .inl (execUnpkN8x4_ends f s)
  | qnt f => exact .inl (execQnt_ends f s)
  | dqnt f => exact .inl (execDqnt_ends f s)
  | qpack f => exact .inl (execQpack_ends f s)
  | qunpk f => exact .inl (execQunpk_ends f s)
  | segscl f => exact .inl (execSegscl_ends f s)
  | fmtchk f => exact .inl (execFmtchk_ends f s)
  | ld f => exact .inl (execLd_ends f s)
  | st f => exact .inl (execSt_ends f s)
  | ldNt f => exact .inl (execLdNt_ends f s)
  | stNt f => exact .inl (execStNt_ends f s)
  | ldfe f => exact .inl (execLdfe_ends f s)
  | stfe f => exact .inl (execStfe_ends f s)
  | pf f => exact .inl (execPf_ends f s)
  | cmoClean f => exact .inl (execCmoClean_ends f s)
  | cmoInv f => exact .inl (execCmoInv_ends f s)
  | cmoCleaninv f => exact .inl (execCmoCleaninv_ends f s)
  | atomG f => exact .inl (execAtomG_ends f s)
  | atomS f => exact .inl (execAtomS_ends f s)
  | atomC f => exact .inl (execAtomC_ends f s)
  | redG f => exact .inl (execRedG_ends f s)
  | bara f => exact .inl (execBara_ends f s)
  | barw f => exact .inl (execBarw_ends f s)
  | baraw f => exact .inl (execBaraw_ends f s)
  | barinit f => exact .inl (execBarinit_ends f s)
  | gbar f => exact .inl (execGbar_ends f s)
  | barq f => exact .inl (execBarq_ends f s)
  | arrvInit f => exact .inl (execArrvInit_ends f s)
  | arrvAdd f => exact .inl (execArrvAdd_ends f s)
  | await f => exact .inl (execAwait_ends f s)
  | awaitT f => exact .inl (execAwaitT_ends f s)
  | arrvRd f => exact .inl (execArrvRd_ends f s)
  | fenceAcq f => exact .inl (execFenceAcq_ends f s)
  | fenceRel f => exact .inl (execFenceRel_ends f s)
  | fenceAr f => exact .inl (execFenceAr_ends f s)
  | fenceSp f => exact .inl (execFenceSp_ends f s)
  | ifence f => exact .inl (execIfence_ends f s)
  | pbar f => exact .inl (execPbar_ends f s)
  | psync f => exact .inl (execPsync_ends f s)
  | mma f => exact .inl (execMma_ends f s)
  | mzero f => exact .inl (execMzero_ends f s)
  | mrd f => exact .inl (execMrd_ends f s)
  | mwr f => exact .inl (execMwr_ends f s)
  | mdrain f => exact .inl (execMdrain_ends f s)
  | mfence f => exact .inl (execMfence_ends f s)
  | mwait f => exact .inl (execMwait_ends f s)
  | mwm f => exact .inl (execMwm_ends f s)
  | mtld f => exact .inl (execMtld_ends f s)
  | mstat f => exact .inl (execMstat_ends f s)
  | cpy f => exact .inl (execCpy_ends f s)
  | cpym f => exact .inl (execCpym_ends f s)
  | cpystg f => exact .inl (execCpystg_ends f s)
  | cpystgRet f => exact .inl (execCpystgRet_ends f s)
  | cpytst f => exact .inl (execCpytst_ends f s)
  | cpywt f => exact .inl (execCpywt_ends f s)
  | cpyq f => exact .inl (execCpyq_ends f s)
  | cpycnl f => exact .inl (execCpycnl_ends f s)
  | rput f => exact .inl (execRput_ends f s)
  | rget f => exact .inl (execRget_ends f s)
  | rred f => exact .inl (execRred_ends f s)
  | rstv f => exact .inl (execRstv_ends f s)
  | rrcv f => exact .inl (execRrcv_ends f s)
  | name f => exact .inl (execName_ends f s)
  | rstat f => exact .inl (execRstat_ends f s)
  | meetEntryFree pack => exact .inl (execMeetEntryFree_ends pack s)
  | partialGangTimer pack => exact .inl (execPartialGangTimer_ends pack s)
  | heldSetExchange entry => exact .inl (execHeldSetExchange_ends entry s)
  | splitPromotion entry => exact .inl (execSplitPromotion_ends entry s)
  | binTimer bin => exact .inl (execBinTimer_ends bin s)
  | spawnRoom slice => exact .inl (execSpawnRoom_ends slice s)
  | tokenGrant die => exact .inl (execTokenGrant_ends die s)
  | mmaEngineStart quad => exact .inl (execMmaEngineStart_ends quad s)
  | mmaBlockEnd quad => exact .inl (execMmaBlockEnd_ends quad s)
  | mmaResume id => exact .inl (execMmaResume_ends id s)
  | mmaSuspend id => exact .inl (execMmaSuspend_ends id s)
  | refillAccept pack entry => exact .inl (execRefillAccept_ends pack entry s)
  | copyQueueSpace slice => exact .inl (execCopyQueueSpace_ends slice s)
  | chunkStart core queue => exact .inl (execChunkStart_ends core queue s)
  | copyQueueResume core queue => exact .inl (execCopyQueueResume_ends core queue s)
  | chunkEnd core queue => exact .inl (execChunkEnd_ends core queue s)
  | copyComplete core queue => exact .inl (execCopyComplete_ends core queue s)
  | barrierWake slice => exact .inl (execBarrierWake_ends slice s)
  | groupPhaseComplete launch group => exact .inl (execGroupPhaseComplete_ends launch group s)
  | awaitWake slice => exact .inl (execAwaitWake_ends slice s)
  | awaitTimeout slice => exact .inl (execAwaitTimeout_ends slice s)
  | loadDataReturn req => exact .inl (execLoadDataReturn_ends req s)
  | homeRead req => exact .inl (execHomeRead_ends req s)
  | homeWrite req => exact .inl (execHomeWrite_ends req s)
  | storeAck req => exact .inl (execStoreAck_ends req s)
  | parkedReplay req => exact .inl (execParkedReplay_ends req s)
  | migrationComplete asid va => exact execMigrationComplete_ends asid va s
  | pageMove asid va tier stack => exact .inl (execPageMove_ends asid va tier stack s)
  | wcBufferDrain core => exact .inl (execWcBufferDrain_ends core s)
  | l2Writeback line => exact .inl (execL2Writeback_ends line s)
  | clockTick core => exact .inl (execClockTick_ends core s)
  | sweepComplete die => exact .inl (execSweepComplete_ends die s)
  | fenceSpValidate gang => exact .inl (execFenceSpValidate_ends gang s)
  | persistAccept id => exact .inl (execPersistAccept_ends id s)
  | epochClosedNotice slice epoch opq => exact .inl (execEpochClosedNotice_ends slice epoch opq s)
  | cxlSnoopInvalidation hpa data => exact .inl (execCxlSnoopInvalidation_ends hpa data s)
  | hostMemRead pa size => exact execHostMemRead_ends pa size s
  | hostMemWrite pa data => exact execHostMemWrite_ends pa data s
  | cxlCompletionTimeout req => exact .inl (execCxlCompletionTimeout_ends req s)
  | ideCheckFail => exact .inl (execIdeCheckFail_ends s)
  | ideKm => exact .inl (execIdeKm_ends s)
  | remoteAccessArrive a => exact .inl (execRemoteAccessArrive_ends a s)
  | remoteResponse req rcode data => exact .inl (execRemoteResponse_ends req rcode data s)
  | remoteTimeout req => exact .inl (execRemoteTimeout_ends req s)
  | dropNotice req => exact .inl (execDropNotice_ends req s)
  | bulkPacketArrive p => exact .inl (execBulkPacketArrive_ends p s)
  | bulkAck op packet rcode data => exact .inl (execBulkAck_ends op packet rcode data s)
  | messageArrive m => exact .inl (execMessageArrive_ends m s)
  | linkTraining port => exact .inl (execLinkTraining_ends port s)
  | linkRekey port => exact .inl (execLinkRekey_ends port s)
  | linkDown port => exact .inl (execLinkDown_ends port s)
  | packDispatch launch core => exact .inl (execPackDispatch_ends launch core s)
  | launchComplete launch => exact .inl (execLaunchComplete_ends launch s)
  | drainPreemption launch => exact .inl (execDrainPreemption_ends launch s)
  | hardPreemption launch => exact .inl (execHardPreemption_ends launch s)
  | packRestore pack core slot => exact .inl (execPackRestore_ends pack core slot s)
  | sundeshThreadWake queue => exact .inl (execSundeshThreadWake_ends queue s)
  | waitTimeout queue => exact .inl (execWaitTimeout_ends queue s)
  | queueRotation out into => exact .inl (execQueueRotation_ends out into s)
  | poolUpdate die => exact .inl (execPoolUpdate_ends die s)
  | telemetryRefresh => exact .inl (execTelemetryRefresh_ends s)
  | railOvercurrent => exact .inl (execRailOvercurrent_ends s)
  | clockStepUp => exact .inl (execClockStepUp_ends s)
  | junctionOver105 die => exact .inl (execJunctionOver105_ends die s)
  | thermalTrip => exact .inl (execThermalTrip_ends s)
  | powerLoss => exact .inl (execPowerLoss_ends s)
  | powerOn => exact .inl (execPowerOn_ends s)
  | bringupStage => exact .inl (execBringupStage_ends s)
  | poisonRecheck line => exact .inl (execPoisonRecheck_ends line s)
  | uncontainableError => exact .inl (execUncontainableError_ends s)
  | settPageCopy asid va => exact .inl (execSettPageCopy_ends asid va s)
  | snapshotComplete asid => exact .inl (execSnapshotComplete_ends asid s)
  | parityFold asid desc => exact .inl (execParityFold_ends asid desc s)
  | rebuildDone asid => exact .inl (execRebuildDone_ends asid s)
  | heartbeatTimeout => exact .inl (execHeartbeatTimeout_ends s)
  | doorbell queue count => exact .inl (execDoorbell_ends queue count s)
  | warmReset => exact .inl (execWarmReset_ends s)
  | plimWrite value => exact .inl (execPlimWrite_ends value s)
  | hostRegisterWrite offset value => exact .inl (execHostRegisterWrite_ends offset value s)
  | qreg queue va => exact .inl (execQreg_ends queue va s)
  | qunreg queue => exact .inl (execQunreg_ends queue s)
  | qresume queue => exact .inl (execQresume_ends queue s)
  | preempt queue mode => exact .inl (execPreempt_ends queue mode s)
  | fwstage slot va => exact .inl (execFwstage_ends slot va s)
  | fwact expected => exact .inl (execFwact_ends expected s)
  | dbgstate queue name va => exact .inl (execDbgstate_ends queue name va s)
  | dbgwrite queue name va => exact .inl (execDbgwrite_ends queue name va s)
  | dbgresume queue name => exact .inl (execDbgresume_ends queue name s)
  | nopPacket queue index => exact .inl (execNopPacket_ends queue index s)
  | launch queue index => exact .inl (execLaunch_ends queue index s)
  | graphSeal queue index => exact .inl (execGraphSeal_ends queue index s)
  | graphLaunch queue index => exact .inl (execGraphLaunch_ends queue index s)
  | wait queue index => exact .inl (execWait_ends queue index s)
  | signalWrite queue index => exact .inl (execSignalWrite_ends queue index s)
  | signalAdd queue index => exact .inl (execSignalAdd_ends queue index s)
  | barrier queue index => exact .inl (execBarrier_ends queue index s)
  | mapRoot queue index => exact .inl (execMapRoot_ends queue index s)
  | mapSync queue index => exact .inl (execMapSync_ends queue index s)
  | dspalloc queue index => exact .inl (execDspalloc_ends queue index s)
  | dspfree queue index => exact .inl (execDspfree_ends queue index s)
  | migreg queue index => exact .inl (execMigreg_ends queue index s)
  | mcgroup queue index => exact .inl (execMcgroup_ends queue index s)
  | mcfree queue index => exact .inl (execMcfree_ends queue index s)
  | unmap queue index => exact .inl (execUnmap_ends queue index s)
  | bias queue index => exact .inl (execBias_ends queue index s)
  | cap queue index => exact .inl (execCap_ends queue index s)
  | step queue index => exact .inl (execStep_ends queue index s)
  | snapregionAdd queue index => exact .inl (execSnapregionAdd_ends queue index s)
  | snapregionRemove queue index => exact .inl (execSnapregionRemove_ends queue index s)
  | rebuild queue index => exact .inl (execRebuild_ends queue index s)
  | persist queue index => exact .inl (execPersist_ends queue index s)
  | attest queue index => exact .inl (execAttest_ends queue index s)
  | getVersion => exact .inl (execGetVersion_ends s)
  | getCapabilities => exact .inl (execGetCapabilities_ends s)
  | negotiateAlgorithms => exact .inl (execNegotiateAlgorithms_ends s)
  | getDigests => exact .inl (execGetDigests_ends s)
  | getCertificate slot => exact .inl (execGetCertificate_ends slot s)
  | challenge nonce => exact .inl (execChallenge_ends nonce s)
  | getMeasurements index => exact .inl (execGetMeasurements_ends index s)
  | keyExchange => exact .inl (execKeyExchange_ends s)
  | finish => exact .inl (execFinish_ends s)
  | endSession => exact .inl (execEndSession_ends s)
  | keyset slot key => exact .inl (execKeyset_ends slot key s)
  | keyrevoke slot => exact .inl (execKeyrevoke_ends slot s)
  | opqDrain die => exact .inl (execOpqDrain_ends die s)
  | leaseCopyEviction copy => exact .inl (execLeaseCopyEviction_ends copy s)

/-- The rows that can end in a fault. -/
def reachesFrame : Instr → Bool
  | .migrationComplete _ _ => true
  | .hostMemRead _ _ => true
  | .hostMemWrite _ _ => true
  | _ => false

/-- Every other instruction and step goes on. -/
theorem exec_ends (i : Instr) (s : State) (h : reachesFrame i = false) : Ends s (exec i s) := by
  cases i with
  | ext x => exact execExt_ends x s
  | nop f => exact execNop_ends f s
  | bkpt f => exact execBkpt_ends f s
  | yield f => exact execYield_ends f s
  | exit f => exact execExit_ends f s
  | trap f => exact execTrap_ends f s
  | rtt f => exact execRtt_ends f s
  | srd f => exact execSrd_ends f s
  | swr f => exact execSwr_ends f s
  | brAny f => exact execBrAny_ends f s
  | brAll f => exact execBrAll_ends f s
  | call f => exact execCall_ends f s
  | jmpr f => exact execJmpr_ends f s
  | callr f => exact execCallr_ends f s
  | ret f => exact execRet_ends f s
  | regang f => exact execRegang_ends f s
  | spawn f => exact execSpawn_ends f s
  | spill f => exact execSpill_ends f s
  | fill f => exact execFill_ends f s
  | pand f => exact execPand_ends f s
  | por f => exact execPor_ends f s
  | pxor f => exact execPxor_ends f s
  | pnot f => exact execPnot_ends f s
  | voteAny f => exact execVoteAny_ends f s
  | voteAll f => exact execVoteAll_ends f s
  | ballot f => exact execBallot_ends f s
  | pmov f => exact execPmov_ends f s
  | shflIdx f => exact execShflIdx_ends f s
  | shflUp f => exact execShflUp_ends f s
  | shflDown f => exact execShflDown_ends f s
  | shflXor f => exact execShflXor_ends f s
  | lswz f => exact execLswz_ends f s
  | gredIadd f => exact execGredIadd_ends f s
  | gredFmax f => exact execGredFmax_ends f s
  | gscanIadd f => exact execGscanIadd_ends f s
  | iadd f => exact execIadd_ends f s
  | isub f => exact execIsub_ends f s
  | imul f => exact execImul_ends f s
  | imulhI f => exact execImulhI_ends f s
  | imulhN f => exact execImulhN_ends f s
  | ineg f => exact execIneg_ends f s
  | iabs f => exact execIabs_ends f s
  | iaddSat f => exact execIaddSat_ends f s
  | iminI f => exact execIminI_ends f s
  | iminN f => exact execIminN_ends f s
  | imaxI f => exact execImaxI_ends f s
  | imaxN f => exact execImaxN_ends f s
  | iadd64 f => exact execIadd64_ends f s
  | isub64 f => exact execIsub64_ends f s
  | lea f => exact execLea_ends f s
  | isubSat f => exact execIsubSat_ends f s
  | imad f => exact execImad_ends f s
  | imadwI f => exact execImadwI_ends f s
  | imadwN f => exact execImadwN_ends f s
  | iaccw f => exact execIaccw_ends f s
  | idot4I8 f => exact execIdot4I8_ends f s
  | idot4N8 f => exact execIdot4N8_ends f s
  | idot2I16 f => exact execIdot2I16_ends f s
  | isad f => exact execIsad_ends f s
  | and f => exact execAnd_ends f s
  | or f => exact execOr_ends f s
  | xor f => exact execXor_ends f s
  | andn f => exact execAndn_ends f s
  | orn f => exact execOrn_ends f s
  | not f => exact execNot_ends f s
  | mov f => exact execMov_ends f s
  | sel f => exact execSel_ends f s
  | shl f => exact execShl_ends f s
  | shr f => exact execShr_ends f s
  | sar f => exact execSar_ends f s
  | rol f => exact execRol_ends f s
  | ror f => exact execRor_ends f s
  | shl64 f => exact execShl64_ends f s
  | shr64 f => exact execShr64_ends f s
  | sar64 f => exact execSar64_ends f s
  | popc f => exact execPopc_ends f s
  | clz f => exact execClz_ends f s
  | ctz f => exact execCtz_ends f s
  | brev f => exact execBrev_ends f s
  | bfxI f => exact execBfxI_ends f s
  | bfxN f => exact execBfxN_ends f s
  | bfi f => exact execBfi_ends f s
  | bswp f => exact execBswp_ends f s
  | isetEq f => exact execIsetEq_ends f s
  | isetNe f => exact execIsetNe_ends f s
  | isetLtI f => exact execIsetLtI_ends f s
  | isetLeI f => exact execIsetLeI_ends f s
  | isetLtN f => exact execIsetLtN_ends f s
  | isetLeN f => exact execIsetLeN_ends f s
  | isetTst f => exact execIsetTst_ends f s
  | movi f => exact execMovi_ends f s
  | movh f => exact execMovh_ends f s
  | mov64 f => exact execMov64_ends f s
  | idxset f => exact execIdxset_ends f s
  | idxadd f => exact execIdxadd_ends f s
  | winset f => exact execWinset_ends f s
  | unif f => exact execUnif_ends f s
  | fadd f => exact execFadd_ends f s
  | fsub f => exact execFsub_ends f s
  | fmul f => exact execFmul_ends f s
  | fmin f => exact execFmin_ends f s
  | fmax f => exact execFmax_ends f s
  | fabs f => exact execFabs_ends f s
  | fneg f => exact execFneg_ends f s
  | fcpys f => exact execFcpys_ends f s
  | ffma f => exact execFfma_ends f s
  | ffms f => exact execFfms_ends f s
  | fnma f => exact execFnma_ends f s
  | twosum f => exact execTwosum_ends f s
  | ftsum f => exact execFtsum_ends f s
  | twoprod f => exact execTwoprod_ends f s
  | fsetEq f => exact execFsetEq_ends f s
  | fsetNe f => exact execFsetNe_ends f s
  | fsetLt f => exact execFsetLt_ends f s
  | fsetLe f => exact execFsetLe_ends f s
  | fsetUnord f => exact execFsetUnord_ends f s
  | fsetOrd f => exact execFsetOrd_ends f s
  | fsetClass f => exact execFsetClass_ends f s
  | frcp f => exact execFrcp_ends f s
  | frsq f => exact execFrsq_ends f s
  | fsqrt f => exact execFsqrt_ends f s
  | fexp2 f => exact execFexp2_ends f s
  | flog2 f => exact execFlog2_ends f s
  | fsin f => exact execFsin_ends f s
  | fcos f => exact execFcos_ends f s
  | ftanh f => exact execFtanh_ends f s
  | hadd2Bf16 f => exact execHadd2Bf16_ends f s
  | hmul2Bf16 f => exact execHmul2Bf16_ends f s
  | hfma2Bf16 f => exact execHfma2Bf16_ends f s
  | hadd2F16 f => exact execHadd2F16_ends f s
  | hmul2F16 f => exact execHmul2F16_ends f s
  | hfma2F16 f => exact execHfma2F16_ends f s
  | hmax2Bf16 f => exact execHmax2Bf16_ends f s
  | hmin2Bf16 f => exact execHmin2Bf16_ends f s
  | dadd f => exact execDadd_ends f s
  | dsub f => exact execDsub_ends f s
  | dmul f => exact execDmul_ends f s
  | dfma f => exact execDfma_ends f s
  | dmin f => exact execDmin_ends f s
  | dmax f => exact execDmax_ends f s
  | dsetLt f => exact execDsetLt_ends f s
  | dsetEq f => exact execDsetEq_ends f s
  | cvtF32I32 f => exact execCvtF32I32_ends f s
  | cvtF32N32 f => exact execCvtF32N32_ends f s
  | cvtI32F32 f => exact execCvtI32F32_ends f s
  | cvtN32F32 f => exact execCvtN32F32_ends f s
  | cvtF32F64 f => exact execCvtF32F64_ends f s
  | cvtF64F32 f => exact execCvtF64F32_ends f s
  | cvtBf16x2F32 f => exact execCvtBf16x2F32_ends f s
  | cvtF16x2F32 f => exact execCvtF16x2F32_ends f s
  | unpkBf16x2 f => exact execUnpkBf16x2_ends f s
  | unpkF16x2 f => exact execUnpkF16x2_ends f s
  | cvtF64I32 f => exact execCvtF64I32_ends f s
  | cvtI32F64 f => exact execCvtI32F64_ends f s
  | packI8x4 f => exact execPackI8x4_ends f s
  | packN8x4 f => exact execPackN8x4_ends f s
  | unpkI8x4 f => exact execUnpkI8x4_ends f s
  | unpkN8x4 f => exact execUnpkN8x4_ends f s
  | qnt f => exact execQnt_ends f s
  | dqnt f => exact execDqnt_ends f s
  | qpack f => exact execQpack_ends f s
  | qunpk f => exact execQunpk_ends f s
  | segscl f => exact execSegscl_ends f s
  | fmtchk f => exact execFmtchk_ends f s
  | ld f => exact execLd_ends f s
  | st f => exact execSt_ends f s
  | ldNt f => exact execLdNt_ends f s
  | stNt f => exact execStNt_ends f s
  | ldfe f => exact execLdfe_ends f s
  | stfe f => exact execStfe_ends f s
  | pf f => exact execPf_ends f s
  | cmoClean f => exact execCmoClean_ends f s
  | cmoInv f => exact execCmoInv_ends f s
  | cmoCleaninv f => exact execCmoCleaninv_ends f s
  | atomG f => exact execAtomG_ends f s
  | atomS f => exact execAtomS_ends f s
  | atomC f => exact execAtomC_ends f s
  | redG f => exact execRedG_ends f s
  | bara f => exact execBara_ends f s
  | barw f => exact execBarw_ends f s
  | baraw f => exact execBaraw_ends f s
  | barinit f => exact execBarinit_ends f s
  | gbar f => exact execGbar_ends f s
  | barq f => exact execBarq_ends f s
  | arrvInit f => exact execArrvInit_ends f s
  | arrvAdd f => exact execArrvAdd_ends f s
  | await f => exact execAwait_ends f s
  | awaitT f => exact execAwaitT_ends f s
  | arrvRd f => exact execArrvRd_ends f s
  | fenceAcq f => exact execFenceAcq_ends f s
  | fenceRel f => exact execFenceRel_ends f s
  | fenceAr f => exact execFenceAr_ends f s
  | fenceSp f => exact execFenceSp_ends f s
  | ifence f => exact execIfence_ends f s
  | pbar f => exact execPbar_ends f s
  | psync f => exact execPsync_ends f s
  | mma f => exact execMma_ends f s
  | mzero f => exact execMzero_ends f s
  | mrd f => exact execMrd_ends f s
  | mwr f => exact execMwr_ends f s
  | mdrain f => exact execMdrain_ends f s
  | mfence f => exact execMfence_ends f s
  | mwait f => exact execMwait_ends f s
  | mwm f => exact execMwm_ends f s
  | mtld f => exact execMtld_ends f s
  | mstat f => exact execMstat_ends f s
  | cpy f => exact execCpy_ends f s
  | cpym f => exact execCpym_ends f s
  | cpystg f => exact execCpystg_ends f s
  | cpystgRet f => exact execCpystgRet_ends f s
  | cpytst f => exact execCpytst_ends f s
  | cpywt f => exact execCpywt_ends f s
  | cpyq f => exact execCpyq_ends f s
  | cpycnl f => exact execCpycnl_ends f s
  | rput f => exact execRput_ends f s
  | rget f => exact execRget_ends f s
  | rred f => exact execRred_ends f s
  | rstv f => exact execRstv_ends f s
  | rrcv f => exact execRrcv_ends f s
  | name f => exact execName_ends f s
  | rstat f => exact execRstat_ends f s
  | meetEntryFree pack => exact execMeetEntryFree_ends pack s
  | partialGangTimer pack => exact execPartialGangTimer_ends pack s
  | heldSetExchange entry => exact execHeldSetExchange_ends entry s
  | splitPromotion entry => exact execSplitPromotion_ends entry s
  | binTimer bin => exact execBinTimer_ends bin s
  | spawnRoom slice => exact execSpawnRoom_ends slice s
  | tokenGrant die => exact execTokenGrant_ends die s
  | mmaEngineStart quad => exact execMmaEngineStart_ends quad s
  | mmaBlockEnd quad => exact execMmaBlockEnd_ends quad s
  | mmaResume id => exact execMmaResume_ends id s
  | mmaSuspend id => exact execMmaSuspend_ends id s
  | refillAccept pack entry => exact execRefillAccept_ends pack entry s
  | copyQueueSpace slice => exact execCopyQueueSpace_ends slice s
  | chunkStart core queue => exact execChunkStart_ends core queue s
  | copyQueueResume core queue => exact execCopyQueueResume_ends core queue s
  | chunkEnd core queue => exact execChunkEnd_ends core queue s
  | copyComplete core queue => exact execCopyComplete_ends core queue s
  | barrierWake slice => exact execBarrierWake_ends slice s
  | groupPhaseComplete launch group => exact execGroupPhaseComplete_ends launch group s
  | awaitWake slice => exact execAwaitWake_ends slice s
  | awaitTimeout slice => exact execAwaitTimeout_ends slice s
  | loadDataReturn req => exact execLoadDataReturn_ends req s
  | homeRead req => exact execHomeRead_ends req s
  | homeWrite req => exact execHomeWrite_ends req s
  | storeAck req => exact execStoreAck_ends req s
  | parkedReplay req => exact execParkedReplay_ends req s
  | migrationComplete asid va => exact absurd h (by simp [reachesFrame])
  | pageMove asid va tier stack => exact execPageMove_ends asid va tier stack s
  | wcBufferDrain core => exact execWcBufferDrain_ends core s
  | l2Writeback line => exact execL2Writeback_ends line s
  | clockTick core => exact execClockTick_ends core s
  | sweepComplete die => exact execSweepComplete_ends die s
  | fenceSpValidate gang => exact execFenceSpValidate_ends gang s
  | persistAccept id => exact execPersistAccept_ends id s
  | epochClosedNotice slice epoch opq => exact execEpochClosedNotice_ends slice epoch opq s
  | cxlSnoopInvalidation hpa data => exact execCxlSnoopInvalidation_ends hpa data s
  | hostMemRead pa size => exact absurd h (by simp [reachesFrame])
  | hostMemWrite pa data => exact absurd h (by simp [reachesFrame])
  | cxlCompletionTimeout req => exact execCxlCompletionTimeout_ends req s
  | ideCheckFail => exact execIdeCheckFail_ends s
  | ideKm => exact execIdeKm_ends s
  | remoteAccessArrive a => exact execRemoteAccessArrive_ends a s
  | remoteResponse req rcode data => exact execRemoteResponse_ends req rcode data s
  | remoteTimeout req => exact execRemoteTimeout_ends req s
  | dropNotice req => exact execDropNotice_ends req s
  | bulkPacketArrive p => exact execBulkPacketArrive_ends p s
  | bulkAck op packet rcode data => exact execBulkAck_ends op packet rcode data s
  | messageArrive m => exact execMessageArrive_ends m s
  | linkTraining port => exact execLinkTraining_ends port s
  | linkRekey port => exact execLinkRekey_ends port s
  | linkDown port => exact execLinkDown_ends port s
  | packDispatch launch core => exact execPackDispatch_ends launch core s
  | launchComplete launch => exact execLaunchComplete_ends launch s
  | drainPreemption launch => exact execDrainPreemption_ends launch s
  | hardPreemption launch => exact execHardPreemption_ends launch s
  | packRestore pack core slot => exact execPackRestore_ends pack core slot s
  | sundeshThreadWake queue => exact execSundeshThreadWake_ends queue s
  | waitTimeout queue => exact execWaitTimeout_ends queue s
  | queueRotation out into => exact execQueueRotation_ends out into s
  | poolUpdate die => exact execPoolUpdate_ends die s
  | telemetryRefresh => exact execTelemetryRefresh_ends s
  | railOvercurrent => exact execRailOvercurrent_ends s
  | clockStepUp => exact execClockStepUp_ends s
  | junctionOver105 die => exact execJunctionOver105_ends die s
  | thermalTrip => exact execThermalTrip_ends s
  | powerLoss => exact execPowerLoss_ends s
  | powerOn => exact execPowerOn_ends s
  | bringupStage => exact execBringupStage_ends s
  | poisonRecheck line => exact execPoisonRecheck_ends line s
  | uncontainableError => exact execUncontainableError_ends s
  | settPageCopy asid va => exact execSettPageCopy_ends asid va s
  | snapshotComplete asid => exact execSnapshotComplete_ends asid s
  | parityFold asid desc => exact execParityFold_ends asid desc s
  | rebuildDone asid => exact execRebuildDone_ends asid s
  | heartbeatTimeout => exact execHeartbeatTimeout_ends s
  | doorbell queue count => exact execDoorbell_ends queue count s
  | warmReset => exact execWarmReset_ends s
  | plimWrite value => exact execPlimWrite_ends value s
  | hostRegisterWrite offset value => exact execHostRegisterWrite_ends offset value s
  | qreg queue va => exact execQreg_ends queue va s
  | qunreg queue => exact execQunreg_ends queue s
  | qresume queue => exact execQresume_ends queue s
  | preempt queue mode => exact execPreempt_ends queue mode s
  | fwstage slot va => exact execFwstage_ends slot va s
  | fwact expected => exact execFwact_ends expected s
  | dbgstate queue name va => exact execDbgstate_ends queue name va s
  | dbgwrite queue name va => exact execDbgwrite_ends queue name va s
  | dbgresume queue name => exact execDbgresume_ends queue name s
  | nopPacket queue index => exact execNopPacket_ends queue index s
  | launch queue index => exact execLaunch_ends queue index s
  | graphSeal queue index => exact execGraphSeal_ends queue index s
  | graphLaunch queue index => exact execGraphLaunch_ends queue index s
  | wait queue index => exact execWait_ends queue index s
  | signalWrite queue index => exact execSignalWrite_ends queue index s
  | signalAdd queue index => exact execSignalAdd_ends queue index s
  | barrier queue index => exact execBarrier_ends queue index s
  | mapRoot queue index => exact execMapRoot_ends queue index s
  | mapSync queue index => exact execMapSync_ends queue index s
  | dspalloc queue index => exact execDspalloc_ends queue index s
  | dspfree queue index => exact execDspfree_ends queue index s
  | migreg queue index => exact execMigreg_ends queue index s
  | mcgroup queue index => exact execMcgroup_ends queue index s
  | mcfree queue index => exact execMcfree_ends queue index s
  | unmap queue index => exact execUnmap_ends queue index s
  | bias queue index => exact execBias_ends queue index s
  | cap queue index => exact execCap_ends queue index s
  | step queue index => exact execStep_ends queue index s
  | snapregionAdd queue index => exact execSnapregionAdd_ends queue index s
  | snapregionRemove queue index => exact execSnapregionRemove_ends queue index s
  | rebuild queue index => exact execRebuild_ends queue index s
  | persist queue index => exact execPersist_ends queue index s
  | attest queue index => exact execAttest_ends queue index s
  | getVersion => exact execGetVersion_ends s
  | getCapabilities => exact execGetCapabilities_ends s
  | negotiateAlgorithms => exact execNegotiateAlgorithms_ends s
  | getDigests => exact execGetDigests_ends s
  | getCertificate slot => exact execGetCertificate_ends slot s
  | challenge nonce => exact execChallenge_ends nonce s
  | getMeasurements index => exact execGetMeasurements_ends index s
  | keyExchange => exact execKeyExchange_ends s
  | finish => exact execFinish_ends s
  | endSession => exact execEndSession_ends s
  | keyset slot key => exact execKeyset_ends slot key s
  | keyrevoke slot => exact execKeyrevoke_ends slot s
  | opqDrain die => exact execOpqDrain_ends die s
  | leaseCopyEviction copy => exact execLeaseCopyEviction_ends copy s

/-- A next state is the state before after some effects. -/
theorem exec_next (i : Instr) (s t : State) (h : exec i s = .next t) : ∃ es, t = commit s es := by
  rcases exec_endsOr i s with ⟨es, he⟩ | ⟨k, he⟩
  · rw [he] at h; cases h; exact ⟨es, rfl⟩
  · rw [he] at h; cases h

/-- The step of an agent is the meaning of the row of its name. -/
theorem runAgent_exec (a : Agent) (s : State) : ∃ i, runAgent a s = exec i s := by
  cases a with
  | meetEntryFree pack => exact ⟨.meetEntryFree pack, rfl⟩
  | partialGangTimer pack => exact ⟨.partialGangTimer pack, rfl⟩
  | heldSetExchange entry => exact ⟨.heldSetExchange entry, rfl⟩
  | splitPromotion entry => exact ⟨.splitPromotion entry, rfl⟩
  | barrierWake slice => exact ⟨.barrierWake slice, rfl⟩
  | groupPhaseComplete launch group => exact ⟨.groupPhaseComplete launch group, rfl⟩
  | awaitWake slice => exact ⟨.awaitWake slice, rfl⟩
  | awaitTimeout slice => exact ⟨.awaitTimeout slice, rfl⟩
  | loadDataReturn req => exact ⟨.loadDataReturn req, rfl⟩
  | homeRead req => exact ⟨.homeRead req, rfl⟩
  | homeWrite req => exact ⟨.homeWrite req, rfl⟩
  | storeAck req => exact ⟨.storeAck req, rfl⟩
  | parkedReplay req => exact ⟨.parkedReplay req, rfl⟩
  | migrationComplete asid va => exact ⟨.migrationComplete asid va, rfl⟩
  | pageMove asid va tier stack => exact ⟨.pageMove asid va tier stack, rfl⟩
  | wcBufferDrain core => exact ⟨.wcBufferDrain core, rfl⟩
  | l2Writeback line => exact ⟨.l2Writeback line, rfl⟩
  | clockTick core => exact ⟨.clockTick core, rfl⟩
  | sweepComplete die => exact ⟨.sweepComplete die, rfl⟩
  | fenceSpValidate gang => exact ⟨.fenceSpValidate gang, rfl⟩
  | persistAccept id => exact ⟨.persistAccept id, rfl⟩
  | epochClosedNotice slice epoch opq => exact ⟨.epochClosedNotice slice epoch opq, rfl⟩
  | opqDrain die => exact ⟨.opqDrain die, rfl⟩
  | leaseCopyEviction copy => exact ⟨.leaseCopyEviction copy, rfl⟩
  | tokenGrant die => exact ⟨.tokenGrant die, rfl⟩
  | mmaEngineStart quad => exact ⟨.mmaEngineStart quad, rfl⟩
  | mmaBlockEnd quad => exact ⟨.mmaBlockEnd quad, rfl⟩
  | mmaResume id => exact ⟨.mmaResume id, rfl⟩
  | mmaSuspend id => exact ⟨.mmaSuspend id, rfl⟩
  | copyQueueSpace slice => exact ⟨.copyQueueSpace slice, rfl⟩
  | chunkStart core queue => exact ⟨.chunkStart core queue, rfl⟩
  | copyQueueResume core queue => exact ⟨.copyQueueResume core queue, rfl⟩
  | chunkEnd core queue => exact ⟨.chunkEnd core queue, rfl⟩
  | copyComplete core queue => exact ⟨.copyComplete core queue, rfl⟩
  | refillAccept pack entry => exact ⟨.refillAccept pack entry, rfl⟩
  | remoteTimeout req => exact ⟨.remoteTimeout req, rfl⟩
  | messageArrive m => exact ⟨.messageArrive m, rfl⟩
  | remoteAccessArrive a => exact ⟨.remoteAccessArrive a, rfl⟩
  | bulkPacketArrive p => exact ⟨.bulkPacketArrive p, rfl⟩
  | nopPacket queue index => exact ⟨.nopPacket queue index, rfl⟩
  | launch queue index => exact ⟨.launch queue index, rfl⟩
  | graphSeal queue index => exact ⟨.graphSeal queue index, rfl⟩
  | graphLaunch queue index => exact ⟨.graphLaunch queue index, rfl⟩
  | wait queue index => exact ⟨.wait queue index, rfl⟩
  | signalWrite queue index => exact ⟨.signalWrite queue index, rfl⟩
  | signalAdd queue index => exact ⟨.signalAdd queue index, rfl⟩
  | barrier queue index => exact ⟨.barrier queue index, rfl⟩
  | mapRoot queue index => exact ⟨.mapRoot queue index, rfl⟩
  | mapSync queue index => exact ⟨.mapSync queue index, rfl⟩
  | dspalloc queue index => exact ⟨.dspalloc queue index, rfl⟩
  | dspfree queue index => exact ⟨.dspfree queue index, rfl⟩
  | migreg queue index => exact ⟨.migreg queue index, rfl⟩
  | mcgroup queue index => exact ⟨.mcgroup queue index, rfl⟩
  | mcfree queue index => exact ⟨.mcfree queue index, rfl⟩
  | unmap queue index => exact ⟨.unmap queue index, rfl⟩
  | bias queue index => exact ⟨.bias queue index, rfl⟩
  | cap queue index => exact ⟨.cap queue index, rfl⟩
  | step queue index => exact ⟨.step queue index, rfl⟩
  | snapregionAdd queue index => exact ⟨.snapregionAdd queue index, rfl⟩
  | snapregionRemove queue index => exact ⟨.snapregionRemove queue index, rfl⟩
  | rebuild queue index => exact ⟨.rebuild queue index, rfl⟩
  | persist queue index => exact ⟨.persist queue index, rfl⟩
  | attest queue index => exact ⟨.attest queue index, rfl⟩
  | sundeshThreadWake queue => exact ⟨.sundeshThreadWake queue, rfl⟩
  | waitTimeout queue => exact ⟨.waitTimeout queue, rfl⟩
  | queueRotation out into => exact ⟨.queueRotation out into, rfl⟩
  | packDispatch launch core => exact ⟨.packDispatch launch core, rfl⟩
  | binTimer bin => exact ⟨.binTimer bin, rfl⟩
  | spawnRoom slice => exact ⟨.spawnRoom slice, rfl⟩
  | drainPreemption launch => exact ⟨.drainPreemption launch, rfl⟩
  | hardPreemption launch => exact ⟨.hardPreemption launch, rfl⟩
  | packRestore pack core slot => exact ⟨.packRestore pack core slot, rfl⟩
  | launchComplete launch => exact ⟨.launchComplete launch, rfl⟩
  | settPageCopy asid va => exact ⟨.settPageCopy asid va, rfl⟩
  | snapshotComplete asid => exact ⟨.snapshotComplete asid, rfl⟩
  | parityFold asid desc => exact ⟨.parityFold asid desc, rfl⟩
  | rebuildDone asid => exact ⟨.rebuildDone asid, rfl⟩
  | fwact expected => exact ⟨.fwact expected, rfl⟩
  | heartbeatTimeout => exact ⟨.heartbeatTimeout, rfl⟩
  | keyrevoke slot => exact ⟨.keyrevoke slot, rfl⟩
  | poisonRecheck line => exact ⟨.poisonRecheck line, rfl⟩
  | hostMemWrite pa data => exact ⟨.hostMemWrite pa data, rfl⟩
  | cxlSnoopInvalidation hpa data => exact ⟨.cxlSnoopInvalidation hpa data, rfl⟩
  | bringupStage => exact ⟨.bringupStage, rfl⟩

end Sys2Proof.Machine
end

