-- ==== Sys2Proof/Laws/Memory.lean ====
section
/-! SUPPORT. Memory by bytes: what a write leaves at each address, what is read after it, and what a step's changes leave in memory. -/
namespace Sys2Proof

open Machine

/-- A byte of memory after a write: the bytes written, and what stood there outside them. -/
theorem get_write (m : Mem) (k id : Nat) (bs : List Byte) (a : Nat) (h : Memory.wf m = true) :
    Sparse.get 0 (m.write k id bs).bytes a = if k ≤ a ∧ a < k + bs.length then bs.getD (a - k) 0 else Sparse.get 0 m.bytes a := by
  induction bs generalizing m k with
  | nil => rw [if_neg (by simp)]; rfl
  | cons b bs ih =>
    have hw : Memory.wf { m with bytes := Sparse.set 0 m.bytes k b, keys := Sparse.set 0 m.keys k id, undef := Sparse.set false m.undef k false } = true := by
      simp only [Memory.wf, Bool.and_eq_true] at *
      simp only [and_self, h, Sparse.wf_set]
    have hb : Sparse.wf 0 m.bytes = true := by
      simp only [Memory.wf, Bool.and_eq_true] at h
      exact h.1.1.1.1.1.1.1.1.1.1
    show Sparse.get 0 (Mem.write _ (k + 1) id bs).bytes a = _
    rw [ih _ _ hw]
    simp only [List.length_cons]
    by_cases h1 : a = k
    · subst h1
      rw [if_neg (by omega), if_pos (by omega)]
      simp only [Nat.sub_self, List.getD_cons_zero]
      exact Sparse.get_set_same _ _ _ _ hb
    · by_cases h2 : k + 1 ≤ a ∧ a < k + 1 + bs.length
      · rw [if_pos h2, if_pos (by omega)]
        obtain ⟨d, rfl⟩ : ∃ d, a = k + 1 + d := ⟨a - (k + 1), by omega⟩
        rw [show k + 1 + d - (k + 1) = d by omega, show k + 1 + d - k = d + 1 by omega]
        rfl
      · rw [if_neg h2, if_neg (by omega)]
        exact Sparse.get_set_other _ _ _ _ _ hb h1

/-- The bytes of a canonical state are a canonical map. -/
theorem canon_bytes (s : State) (h : s.canon = true) : Memory.wf s.mem = true := by
  simp only [State.canon, Bool.and_eq_true] at h
  exact h.1.1.1.1.1

/-- Read after write: the bytes written read back. -/
theorem bytes_write (m : Mem) (k id : Nat) (bs : List Byte) (h : Memory.wf m = true) : (List.range bs.length).map (fun i => Sparse.get 0 (m.write k id bs).bytes (k + i)) = bs := by
  apply List.ext_getElem
  · simp
  · intro i h1 h2
    simp only [List.length_map, List.length_range] at h1
    simp only [List.getElem_map, List.getElem_range]
    rw [get_write m k id bs _ h, if_pos (by omega)]
    simp [List.getD_eq_getElem?_getD, h2]

/-- Marking bytes as undefined leaves them as they are until the next ac. -/
theorem blur_bytes (m : Mem) (k n : Nat) : (m.blur k n).bytes = m.bytes := by
  induction n generalizing m k with
  | zero => rfl
  | succ n ih => exact ih _ _

/-- A change that leaves every byte of memory as it is. -/
def keepsBytes : Machine.Act → Bool
  | .store _ _ _ => false
  | .refill _ _ _ => false
  | .raise _ _ => false
  | .copyRange _ _ _ => false
  | .coldStart => false
  | _ => true

/-- Such a change leaves every byte as it is. -/
theorem keepsBytes_apply (s : State) (a : Machine.Act) (h : keepsBytes a = true) : (a.apply s).mem.bytes = s.mem.bytes := by
  by_cases hp : Field.mem ∈ a.parts
  · cases a <;> first | (simp [keepsBytes] at h; done) | (simp [Act.parts] at hp; done) | exact blur_bytes _ _ _ | rfl
  · rw [Act.keeps_mem s a hp]

/-- A change that stores nothing, or stores bytes. -/
def plainStore : Machine.Act → Bool
  | .store _ _ _ => true
  | a => keepsBytes a

/-- What one such change leaves at an address. -/
theorem plainStore_byte (s : State) (a : Machine.Act) (h : plainStore a = true) (hs : s.canon = true) (x : Nat) : (a.apply s).byte x = lastByte (actStores a) x (s.byte x) := by
  cases a
  case store k bs id =>
    simp only [actStores, lastByte, List.foldl_cons, List.foldl_nil]
    exact get_write s.mem k _ bs x (canon_bytes s hs)
  all_goals
    simp only [actStores, lastByte, List.foldl_nil]
    unfold State.byte
    rw [keepsBytes_apply s _ (by simpa [plainStore] using h)]

/-- What a step's changes leave in memory: their stores, one after another, and no other byte changes. -/
theorem commit_wrote (s : State) (es : List Eff) (h : ∀ e ∈ es, plainStore e.2 = true) (hs : s.canon = true) : Wrote s (commit s es) (es.flatMap (fun e => actStores e.2)) := by
  intro x
  show (applyAll s es).byte x = _
  unfold applyAll
  induction es generalizing s with
  | nil => rfl
  | cons e es ih =>
    have h1 := ih (e.2.apply s) (fun e' he => h e' (List.mem_cons_of_mem _ he)) (Act.canon_apply s e.2 hs)
    simp only [List.foldl_cons, List.flatMap_cons]
    rw [h1, plainStore_byte s e.2 (h e List.mem_cons_self) hs]
    simp [lastByte, List.foldl_append]

/-- A little-endian number reads back. -/
theorem leNat_leBytes (n x : Nat) : leNat (leBytes n x) = x % 256 ^ n := by
  induction n generalizing x with
  | zero => simp [leBytes, leNat, Nat.mod_one]
  | succ n ih =>
    simp only [leBytes, leNat, ih]
    rw [Nat.pow_succ, Nat.mul_comm (256 ^ n) 256, Nat.mod_mul]
    simp

end Sys2Proof
end

