-- ==== Sys2Proof/Laws/Slices.lean ====
section
/-! SUPPORT. The slices of a split act independently: what a word does to one slice is what its own effects do. -/
namespace Sys2Proof.Machine

/-- Two states agree on a slice: its own fields and its lanes' registers. -/
def SliceEq (sl : Nat) (s t : State) : Prop :=
  t.slice sl = s.slice sl ∧
  ∀ l, l < 4 →
    (∀ r, r < 256 → t.file (laneKey sl l) r = s.file (laneKey sl l) r ∧ t.poisoned (laneKey sl l) r = s.poisoned (laneKey sl l) r) ∧
    Sparse.get 0 t.lanes.pred (laneKey sl l) = Sparse.get 0 s.lanes.pred (laneKey sl l) ∧
    (∀ k, k < 8 → t.idxOf (laneKey sl l) k = s.idxOf (laneKey sl l) k)

theorem SliceEq.refl (sl : Nat) (s : State) : SliceEq sl s s := ⟨rfl, fun _ _ => ⟨fun _ _ => ⟨rfl, rfl⟩, rfl, fun _ _ => rfl⟩⟩
theorem SliceEq.symm {sl : Nat} {s t : State} (h : SliceEq sl s t) : SliceEq sl t s :=
  ⟨h.1.symm, fun l hl => ⟨fun r hr => ⟨((h.2 l hl).1 r hr).1.symm, ((h.2 l hl).1 r hr).2.symm⟩, (h.2 l hl).2.1.symm, fun k hk => ((h.2 l hl).2.2 k hk).symm⟩⟩
theorem SliceEq.trans {sl : Nat} {s t u : State} (h : SliceEq sl s t) (g : SliceEq sl t u) : SliceEq sl s u :=
  ⟨g.1.trans h.1, fun l hl => ⟨fun r hr => ⟨((g.2 l hl).1 r hr).1.trans ((h.2 l hl).1 r hr).1, ((g.2 l hl).1 r hr).2.trans ((h.2 l hl).1 r hr).2⟩,
    (g.2 l hl).2.1.trans (h.2 l hl).2.1, fun k hk => ((g.2 l hl).2.2 k hk).trans ((h.2 l hl).2.2 k hk)⟩⟩

/-- A change of a slice's own fields and lanes. -/
def Act.ownOf (sl : Nat) : Act → Bool
  | .reg lane r _ _ => decide (lane / 4 = sl) && decide (r < 256)
  | .pred lane _ _ => decide (lane / 4 = sl)
  | .idx lane k _ => decide (lane / 4 = sl) && decide (k < 8)
  | .untag x _ _ => decide (x = sl)
  | .slice x _ => decide (x = sl)
  | _ => false

/-- A change that leaves every slice's own fields and lanes alone. -/
def Act.still : Act → Bool
  | .reg _ _ _ _ => false
  | .pred _ _ _ => false
  | .idx _ _ _ => false
  | .undef _ _ => false
  | .slice _ _ => false
  | .trap _ _ => false
  | .meets _ _ => false
  | .rollback _ _ => false
  | .coldStart => false
  | _ => true

theorem State.slice_updSlice (s : State) (x y : Nat) (u : SliceUpd) (h : s.canon) : (s.updSlice x u).slice y = if y = x then (s.slice x).upd u else s.slice y := by
  have hw : Sparse.wf {} s.ctl.slices := by simp only [State.canon, Ctl.wf, Bool.and_eq_true] at h; exact h.1.1.2.1.1.1.1.1.1.1.1.1
  unfold State.slice State.updSlice
  exact Sparse.get_set _ _ _ _ _ hw

theorem State.slice_of_slices {s t : State} (h : t.ctl.slices = s.ctl.slices) (x : Nat) : t.slice x = s.slice x := by
  unfold State.slice; rw [h]

theorem SliceEq.of_parts {s t : State} (sl : Nat) (h1 : t.ctl.slices = s.ctl.slices) (h2 : t.lanes = s.lanes) : SliceEq sl s t :=
  ⟨State.slice_of_slices h1 sl, fun l _ => ⟨fun r _ => ⟨by unfold State.file; rw [h2], by unfold State.poisoned; rw [h2]⟩, by rw [h2], fun k _ => by unfold State.idxOf; rw [h2]⟩⟩

theorem State.endPack_slices (s : State) (p : Nat) : (s.endPack p).ctl.slices = s.ctl.slices := rfl

theorem State.takeEntry_slices (s : State) (p i : Nat) : (s.takeEntry p i).ctl.slices = s.ctl.slices := by
  unfold State.takeEntry
  dsimp only
  split <;> rfl

theorem State.raiseStage_slices (s : State) (p n : Nat) : (s.raiseStage p n).ctl.slices = s.ctl.slices := by
  unfold State.raiseStage State.fire
  dsimp only
  rw [foldl_keeps (fun s : State => s.ctl.slices)]
  intro s i
  split
  · exact State.takeEntry_slices _ _ _
  · rfl

/-- A quiet change leaves slices as they are. -/
theorem Act.still_slices (s : State) (a : Act) (h : a.still) : (a.apply s).ctl.slices = s.ctl.slices := by
  cases a
  case settle => simp only [Act.apply]; split <;> first | rfl | exact (State.divideAll_only _ _ _ _).slices
  case enter => exact (State.enter_only _ _).slices
  case resplit => simp only [Act.apply]; split <;> first | rfl | exact (State.divideAll_only _ _ _ _).slices
  case regroup ls => exact ((State.refill_only _).trans (State.enter_only _ _)).slices.trans (State.leave_only s ls).slices
  case vacate p => exact (State.refill_only _).slices
  case packEnd => simp only [Act.apply]; split <;> rfl
  case badEntry a va => simp only [Act.apply]; rw [State.noteWalk_only]
  case stage => exact State.raiseStage_slices _ _ _
  case take => exact State.takeEntry_slices _ _ _
  all_goals first
    | rfl
    | (simp [Act.still] at h; done)
    | (simp only [Act.apply]; split <;> rfl)

/-- A quiet change, but for tags, leaves the lane files as they are. -/
theorem Act.still_sliceEq (sl : Nat) (s : State) (a : Act) (h : a.still) : SliceEq sl s (a.apply s) := by
  by_cases hl : Field.lanes ∈ a.parts
  · cases a <;> simp [Act.parts] at hl <;> simp [Act.still] at h
    case untag x r b => exact ⟨rfl, fun l _ => ⟨fun r _ => ⟨rfl, rfl⟩, rfl, fun k _ => rfl⟩⟩
  · exact SliceEq.of_parts sl (Act.still_slices s a h) (Act.keeps_lanes s a hl)

theorem laneKey_div (sl l : Nat) (h : l < 4) : laneKey sl l / 4 = sl := by unfold laneKey; omega
theorem laneKey_ne (sl x l m : Nat) (hl : l < 4) (hm : m / 4 = x) (h : sl ≠ x) : laneKey sl l ≠ m := by unfold laneKey; omega

/-- The lane files of a canonical state. -/
theorem State.canon_files (s : State) (h : s.canon) :
    Sparse.wf 0 s.lanes.regs = true ∧ Sparse.wf false s.lanes.psn = true ∧ Sparse.wf 0 s.lanes.pred = true ∧ Sparse.wf 0 s.lanes.idx = true ∧ Sparse.wf false s.lanes.untag = true := by
  simp only [State.canon, Lanes.wf, Bool.and_eq_true] at h
  obtain ⟨⟨⟨⟨⟨m, c⟩, l⟩, d⟩, t⟩, y⟩ := h
  exact ⟨l.1.1.1.1.1, l.1.1.1.1.2, l.1.1.1.2, l.1.1.2, l.1.2⟩

/-- A change of another slice leaves this one alone. -/
theorem Act.own_other (sl x : Nat) (s : State) (a : Act) (hs : s.canon) (h : a.ownOf x) (hx : sl ≠ x) : SliceEq sl s (a.apply s) := by
  obtain ⟨h1, h2, h3, h4, h5⟩ := State.canon_files s hs
  cases a <;> simp [Act.ownOf] at h
  case reg lane r v p =>
    refine ⟨rfl, fun l hl => ⟨fun q hq => ?_, rfl, fun k _ => rfl⟩⟩
    have hne : regKey (laneKey sl l) q ≠ regKey lane r := by
      have := laneKey_ne sl x l lane hl h.1 hx; unfold regKey; omega
    exact ⟨Sparse.get_set_other _ _ _ _ _ h1 hne, Sparse.get_set_other _ _ _ _ _ h2 hne⟩
  case pred lane k b =>
    have hne : ∀ l, l < 4 → laneKey sl l ≠ lane := fun l hl => laneKey_ne sl x l lane hl h hx
    simp only [Act.apply]
    split
    · exact SliceEq.refl _ _
    · exact ⟨rfl, fun l hl => ⟨fun _ _ => ⟨rfl, rfl⟩, Sparse.get_set_other _ _ _ _ _ h3 (hne l hl), fun _ _ => rfl⟩⟩
  case idx lane k v =>
    refine ⟨rfl, fun l hl => ⟨fun _ _ => ⟨rfl, rfl⟩, rfl, fun j hj => ?_⟩⟩
    have := laneKey_ne sl x l lane hl h.1 hx
    exact Sparse.get_set_other _ _ _ _ _ h4 (by omega)
  case untag x' r b => exact ⟨rfl, fun l _ => ⟨fun r _ => ⟨rfl, rfl⟩, rfl, fun k _ => rfl⟩⟩
  case slice y u =>
    subst h
    exact ⟨by rw [Act.apply, State.slice_updSlice _ _ _ _ hs, if_neg hx], fun l _ => ⟨fun _ _ => ⟨rfl, rfl⟩, rfl, fun _ _ => rfl⟩⟩

/-- A slice's own change depends on that slice alone. -/
theorem Act.own_cong (sl : Nat) (s t : State) (a : Act) (hs : s.canon) (ht : t.canon) (h : a.ownOf sl) (e : SliceEq sl s t) : SliceEq sl (a.apply s) (a.apply t) := by
  obtain ⟨s1, s2, s3, s4, s5⟩ := State.canon_files s hs
  obtain ⟨t1, t2, t3, t4, t5⟩ := State.canon_files t ht
  cases a <;> simp [Act.ownOf] at h
  case reg lane r v p =>
    refine ⟨e.1, fun l hl => ⟨fun q hq => ?_, (e.2 l hl).2.1, (e.2 l hl).2.2⟩⟩
    have eq1 := ((e.2 l hl).1 q hq)
    simp only [State.file, State.poisoned, Act.apply] at *
    rw [Sparse.get_set _ _ _ _ _ t1, Sparse.get_set _ _ _ _ _ s1, Sparse.get_set _ _ _ _ _ t2, Sparse.get_set _ _ _ _ _ s2, eq1.1, eq1.2]
    exact ⟨rfl, rfl⟩
  case pred lane k b =>
    simp only [Act.apply]
    split
    · exact e
    · refine ⟨e.1, fun l hl => ⟨(e.2 l hl).1, ?_, (e.2 l hl).2.2⟩⟩
      have e2 := (e.2 (lane % 4) (by omega)).2.1
      have hk : laneKey sl (lane % 4) = lane := by unfold laneKey; omega
      rw [hk] at e2
      simp only
      rw [Sparse.get_set _ _ _ _ _ t3, Sparse.get_set _ _ _ _ _ s3, (e.2 l hl).2.1, e2]
  case idx lane k v =>
    refine ⟨e.1, fun l hl => ⟨(e.2 l hl).1, (e.2 l hl).2.1, fun j hj => ?_⟩⟩
    have e2 := (e.2 l hl).2.2 j hj
    simp only [State.idxOf, Act.apply] at *
    rw [Sparse.get_set _ _ _ _ _ t4, Sparse.get_set _ _ _ _ _ s4, e2]
  case untag x' r b => exact ⟨e.1, e.2⟩
  case slice y u =>
    subst h
    refine ⟨?_, e.2⟩
    rw [Act.apply, Act.apply, State.slice_updSlice _ _ _ _ hs, State.slice_updSlice _ _ _ _ ht, if_pos rfl, if_pos rfl, e.1]

/-- A change that is a slice's own, or quiet. -/
def Act.fits (sl : Nat) (a : Act) : Bool := a.ownOf sl || a.still

theorem Act.fits_other (sl x : Nat) (s : State) (a : Act) (hs : s.canon) (h : a.fits x) (hx : sl ≠ x) : SliceEq sl s (a.apply s) := by
  rcases Bool.or_eq_true _ _ |>.mp h with h | h
  · exact Act.own_other sl x s a hs h hx
  · exact Act.still_sliceEq sl s a h

theorem Act.fits_cong (sl : Nat) (s t : State) (a : Act) (hs : s.canon) (ht : t.canon) (h : a.fits sl) (e : SliceEq sl s t) : SliceEq sl (a.apply s) (a.apply t) := by
  rcases Bool.or_eq_true _ _ |>.mp h with h | h
  · exact Act.own_cong sl s t a hs ht h e
  · exact ((Act.still_sliceEq sl s a h).symm.trans e).trans (Act.still_sliceEq sl t a h)

theorem applyAll_append (s : State) (xs ys : List Eff) : applyAll s (xs ++ ys) = applyAll (applyAll s xs) ys := List.foldl_append
theorem applyAll_cons (s : State) (x : Eff) (ys : List Eff) : applyAll s (x :: ys) = applyAll (x.2.apply s) ys := rfl
@[simp] theorem applyAll_nil (s : State) : applyAll s [] = s := rfl

theorem applyAll_other (sl : Nat) (s : State) (es : List Eff) (hs : s.canon) (h : ∀ e ∈ es, ∃ x, sl ≠ x ∧ e.2.fits x = true) : SliceEq sl s (applyAll s es) := by
  induction es generalizing s with
  | nil => exact SliceEq.refl _ _
  | cons e es ih =>
    obtain ⟨x, hx, hf⟩ := h e List.mem_cons_self
    exact (Act.fits_other sl x s e.2 hs hf hx).trans (ih _ (Act.canon_apply s e.2 hs) (fun e' he' => h e' (List.mem_cons_of_mem _ he')))

theorem applyAll_cong (sl : Nat) (s t : State) (es : List Eff) (hs : s.canon) (ht : t.canon) (h : ∀ e ∈ es, e.2.fits sl = true) (e : SliceEq sl s t) :
    SliceEq sl (applyAll s es) (applyAll t es) := by
  induction es generalizing s t with
  | nil => exact e
  | cons a es ih =>
    exact ih _ _ (Act.canon_apply s a.2 hs) (Act.canon_apply t a.2 ht) (fun e' he' => h e' (List.mem_cons_of_mem _ he'))
      (Act.fits_cong sl s t a.2 hs ht (h a List.mem_cons_self) e)

theorem applyAll_quiet (sl : Nat) (s : State) (es : List Eff) (h : ∀ e ∈ es, e.2.still = true) : SliceEq sl s (applyAll s es) := by
  induction es generalizing s with
  | nil => exact SliceEq.refl _ _
  | cons e es ih => exact (Act.still_sliceEq sl s e.2 (h e List.mem_cons_self)).trans (ih _ (fun e' he' => h e' (List.mem_cons_of_mem _ he')))

theorem advance_fits (c : Cur) (v : View) (sl : Nat) : ∀ a ∈ advance c v sl, a.fits sl = true := by
  intro a ha
  simp only [advance, List.mem_cons, List.not_mem_nil, or_false] at ha
  rcases ha with rfl | rfl <;> simp [Act.fits, Act.ownOf]

/-- The slices of some effects, one after another: a slice sees its own effects, as if it were alone. -/
theorem perSlice_eq (slices : List Nat) (f : Nat → List Act) (s : State) (hs : s.canon) (nd : slices.Nodup) (hf : ∀ x ∈ slices, ∀ a ∈ f x, a.fits x = true)
    (sl : Nat) : SliceEq sl (if sl ∈ slices then applyAll s (tagged sl (f sl)) else s) (applyAll s (slices.flatMap (fun x => tagged x (f x)))) := by
  induction slices generalizing s with
  | nil => exact SliceEq.refl _ _
  | cons y ys ih =>
    rw [List.flatMap_cons, applyAll_append]
    have hy : (applyAll s (tagged y (f y))).canon := canon_applyAll s _ hs
    have ih' := ih (applyAll s (tagged y (f y))) hy (List.nodup_cons.mp nd).2 (fun x hx => hf x (List.mem_cons_of_mem _ hx))
    refine SliceEq.trans ?_ ih'
    by_cases he : sl = y
    · subst he
      rw [if_pos List.mem_cons_self, if_neg (List.nodup_cons.mp nd).1]
      exact SliceEq.refl _ _
    · have ho : SliceEq sl s (applyAll s (tagged y (f y))) := by
        apply applyAll_other sl s _ hs
        intro e he'
        simp only [tagged, List.mem_map] at he'
        obtain ⟨a, ha, rfl⟩ := he'
        exact ⟨y, he, hf y List.mem_cons_self a ha⟩
      by_cases hm : sl ∈ ys
      · rw [if_pos (List.mem_cons_of_mem _ hm), if_pos hm]
        apply applyAll_cong sl _ _ _ hs hy ?_ ho
        intro e he'
        simp only [tagged, List.mem_map] at he'
        obtain ⟨a, ha, rfl⟩ := he'
        exact hf sl (List.mem_cons_of_mem _ hm) a ha
      · have hn : sl ∉ y :: ys := by simp [he, hm]
        rw [if_neg hn, if_neg hm]
        exact ho

/-- Issuing a word whose slices act one by one, when none traps: each slice of the split goes on after the word with its own acts done, and every other slice stays as it is. -/
theorem issue_slices (i : Instr) (s : State) (body : Cur → View → Nat → Res) (c : Cur) (v : View) (f : Nat → List Act)
    (hs : s.canon) (hc : s.run.cur = some c) (hv : view i = .word v) (hi : v.ill = none) (hx : v.extOk c.ext = true) (nd : c.slices.Nodup)
    (hb : ∀ x ∈ c.slices, body c v x = .ok (f x)) (hf : ∀ x ∈ c.slices, ∀ a ∈ f x, a.fits x = true) :
    ∃ t, issue i s body = .next t ∧ ∀ sl, SliceEq sl (if sl ∈ c.slices then applyAll s (tagged sl (advance c v sl ++ f sl)) else s) t := by
  refine ⟨_, rfl, fun sl => ?_⟩
  have he : issueEffs i s (fun c v => sliceEffs c v (body c v)) =
      c.slices.flatMap (fun x => tagged x (advance c v x ++ f x)) ++ [(none, .cur (some { c with ext := none })), (none, .settle)] := by
    unfold issueEffs
    rw [hc, hv]
    simp only [hi, hx, and_self, ↓reduceIte]
    congr 1
    unfold sliceEffs
    have key : ∀ l : List Nat, (∀ x ∈ l, body c v x = .ok (f x)) →
        l.flatMap (fun sl => match body c v sl with | .error t => [(some sl, .trap sl t)] | .ok as => tagged sl (advance c v sl ++ as))
          = l.flatMap (fun x => tagged x (advance c v x ++ f x)) := by
      intro l hl
      induction l with
      | nil => rfl
      | cons y ys ih =>
        rw [List.flatMap_cons, List.flatMap_cons, hl y List.mem_cons_self, ih (fun x hx => hl x (List.mem_cons_of_mem _ hx))]
    exact key c.slices hb
  show SliceEq sl _ { applyAll s _ with log := _ }
  rw [he, applyAll_append]
  have h1 := perSlice_eq c.slices (fun x => advance c v x ++ f x) s hs nd
    (fun x hx' a ha => (List.mem_append.mp ha).elim (advance_fits c v x a) (hf x hx' a)) sl
  exact h1.trans (applyAll_quiet sl _ _ (by intro e he'; simp at he'; rcases he' with rfl | rfl <;> rfl))

end Sys2Proof.Machine
end

