-- ==== Sys2Proof/Laws/Operands.lean ====
section
/-! SUPPORT. What register writes of a slice do, once for every lane-wise instruction. -/
namespace Sys2Proof.Machine

theorem mem_maskLanes (m : BitVec 4) (l : Nat) : l ∈ maskLanes m ↔ l < 4 ∧ m.getLsbD l = true := by
  simp only [maskLanes, lanes4, List.mem_filter, List.mem_cons, List.not_mem_nil, or_false]
  constructor
  · rintro ⟨h, k⟩; exact ⟨by omega, k⟩
  · rintro ⟨h, k⟩; exact ⟨by omega, k⟩

theorem activeLanes_lt {s : State} {sl pg l : Nat} (h : l ∈ s.activeLanes sl pg) : l < 4 := by
  unfold State.activeLanes State.liveLanes at h
  exact ((mem_maskLanes _ _).mp (List.mem_filter.mp h).1).1

theorem maskLanes_nodup (m : BitVec 4) : (maskLanes m).Nodup := List.Nodup.sublist List.filter_sublist (by decide : lanes4.Nodup)

theorem activeLanes_nodup (s : State) (sl pg : Nat) : (s.activeLanes sl pg).Nodup :=
  List.Nodup.sublist List.filter_sublist (maskLanes_nodup _)

/-- The registers a field resolves to lie below 256. -/
theorem regOf_bound (s : State) (sl l field n : Nat) (h : n ≤ 200) : s.regOf sl l field n + n ≤ 256 := by
  unfold State.regOf
  split
  · next r hr =>
    unfold State.resolve at hr
    split at hr
    · cases hr; omega
    · dsimp only at hr
      split at hr
      · cases hr
      · split at hr
        · cases hr
        · next h1 => cases hr; omega
  · omega

/-- The change of one register: the file and the poison bit. -/
def writeOne (sl : Nat) (w : Nat × Nat × Word) : Act := .reg (laneKey sl w.1) w.2.1 w.2.2 false

theorem writeOne_fits (sl : Nat) (w : Nat × Nat × Word) (h : w.1 < 4) (k : w.2.1 < 256) : (writeOne sl w).fits sl = true := by
  simp [writeOne, Act.fits, Act.ownOf, laneKey_div sl w.1 h, k]

theorem tagActs_fits (s : State) (sl : Nat) (ws : List (Nat × Nat × Word)) : ∀ a ∈ s.tagActs sl ws, a.fits sl = true := by
  intro a ha
  simp only [State.tagActs, List.mem_flatMap, List.mem_cons] at ha
  obtain ⟨r, _, rfl | ha⟩ := ha
  · simp [Act.fits, Act.ownOf]
  · split at ha
    · simp at ha; subst ha; rfl
    · simp at ha

/-- Two states agree on a slice's registers and predicates; its own fields may differ. -/
def SameRegs (sl : Nat) (s t : State) : Prop :=
  ∀ l, l < 4 →
    (∀ r, r < 256 → t.file (laneKey sl l) r = s.file (laneKey sl l) r ∧ t.poisoned (laneKey sl l) r = s.poisoned (laneKey sl l) r) ∧
    Sparse.get 0 t.lanes.pred (laneKey sl l) = Sparse.get 0 s.lanes.pred (laneKey sl l) ∧
    (∀ k, k < 8 → t.idxOf (laneKey sl l) k = s.idxOf (laneKey sl l) k)

theorem regKey_inj {sl l m r q : Nat} (hl : l < 4) (hm : m < 4) (hr : r < 256) (hq : q < 256) (h : regKey (laneKey sl l) r = regKey (laneKey sl m) q) : l = m ∧ r = q := by
  unfold regKey laneKey at h; omega

/-- After the writes of some registers: each register written holds its value and is clean; other registers, and everything else of the slice, are as before. -/
theorem writes_effect (sl : Nat) (ws : List (Nat × Nat × Word)) (s : State) (hs : s.canon)
    (hb : ∀ w ∈ ws, w.1 < 4 ∧ w.2.1 < 256) (hd : ws.Pairwise (fun a b => ¬(a.1 = b.1 ∧ a.2.1 = b.2.1))) :
    let t := applyAll s (tagged sl (ws.map (writeOne sl)))
    t.slice sl = s.slice sl
    ∧ (∀ w ∈ ws, t.file (laneKey sl w.1) w.2.1 = w.2.2 ∧ t.poisoned (laneKey sl w.1) w.2.1 = false)
    ∧ (∀ l r, l < 4 → r < 256 → (∀ w ∈ ws, ¬(l = w.1 ∧ r = w.2.1)) → t.file (laneKey sl l) r = s.file (laneKey sl l) r ∧ t.poisoned (laneKey sl l) r = s.poisoned (laneKey sl l) r)
    ∧ t.lanes.pred = s.lanes.pred ∧ t.lanes.idx = s.lanes.idx := by
  induction ws generalizing s with
  | nil => exact ⟨rfl, by simp, fun l r _ _ _ => ⟨rfl, rfl⟩, rfl, rfl⟩
  | cons w ws ih =>
    dsimp only
    show _ ∧ _
    rw [List.map_cons, show tagged sl (writeOne sl w :: ws.map (writeOne sl)) = (some sl, writeOne sl w) :: tagged sl (ws.map (writeOne sl)) from rfl, applyAll_cons]
    have hc : ((writeOne sl w).apply s).canon := Act.canon_apply s _ hs
    obtain ⟨i1, i2, i3, i4, i5⟩ := ih _ hc (fun x hx => hb x (List.mem_cons_of_mem _ hx)) (List.pairwise_cons.mp hd).2
    obtain ⟨c1, c2, c3, c4, c5⟩ := State.canon_files s hs
    have hw := hb w List.mem_cons_self
    have file1 : ∀ l r, l < 4 → r < 256 → ((writeOne sl w).apply s).file (laneKey sl l) r = (if l = w.1 ∧ r = w.2.1 then w.2.2 else s.file (laneKey sl l) r)
        ∧ ((writeOne sl w).apply s).poisoned (laneKey sl l) r = (if l = w.1 ∧ r = w.2.1 then false else s.poisoned (laneKey sl l) r) := by
      intro l r hl hr
      by_cases he : l = w.1 ∧ r = w.2.1
      · rw [if_pos he, if_pos he, he.1, he.2]
        exact ⟨Sparse.get_set_same _ _ _ _ c1, Sparse.get_set_same _ _ _ false c2⟩
      · rw [if_neg he, if_neg he]
        have hne : regKey (laneKey sl l) r ≠ regKey (laneKey sl w.1) w.2.1 := fun h => he (regKey_inj hl hw.1 hr hw.2 h)
        exact ⟨Sparse.get_set_other _ _ _ _ _ c1 hne, Sparse.get_set_other _ _ _ _ false c2 hne⟩
    refine ⟨i1, ?_, ?_, i4, i5⟩
    · intro x hx
      rcases List.mem_cons.mp hx with rfl | hx
      · obtain ⟨a1, a2⟩ := i3 x.1 x.2.1 hw.1 hw.2 (fun y hy => (List.pairwise_cons.mp hd).1 y hy)
        obtain ⟨b1, b2⟩ := file1 x.1 x.2.1 hw.1 hw.2
        rw [a1, a2, b1, b2, if_pos ⟨rfl, rfl⟩, if_pos ⟨rfl, rfl⟩]; exact ⟨rfl, rfl⟩
      · exact i2 x hx
    · intro l r hl hr hn
      obtain ⟨a1, a2⟩ := i3 l r hl hr (fun y hy => hn y (List.mem_cons_of_mem _ hy))
      obtain ⟨b1, b2⟩ := file1 l r hl hr
      rw [a1, a2, b1, b2, if_neg (hn w List.mem_cons_self), if_neg (hn w List.mem_cons_self)]; exact ⟨rfl, rfl⟩

/-- Quiet changes of a slice's own effects leave its own view alone. -/
theorem applyAll_untags (sl : Nat) (s : State) (as : List Act) (h : ∀ a ∈ as, (∃ r b, a = .untag sl r b) ∨ a.still = true) : SliceEq sl s (applyAll s (tagged sl as)) := by
  induction as generalizing s with
  | nil => exact SliceEq.refl _ _
  | cons a as ih =>
    refine SliceEq.trans ?_ (ih _ (fun b hb => h b (List.mem_cons_of_mem _ hb)))
    rcases h a List.mem_cons_self with ⟨r, b, rfl⟩ | hq
    · exact ⟨rfl, fun l _ => ⟨fun _ _ => ⟨rfl, rfl⟩, rfl, fun _ _ => rfl⟩⟩
    · exact Act.still_sliceEq sl s a hq

theorem tagActs_quiet (s : State) (sl : Nat) (ws : List (Nat × Nat × Word)) : ∀ a ∈ s.tagActs sl ws, (∃ r b, a = .untag sl r b) ∨ a.still = true := by
  intro a ha
  simp only [State.tagActs, List.mem_flatMap, List.mem_cons] at ha
  obtain ⟨r, _, rfl | ha⟩ := ha
  · exact .inl ⟨_, _, rfl⟩
  · split at ha
    · simp at ha; subst ha; exact .inr rfl
    · simp at ha

end Sys2Proof.Machine
end

