-- ==== Sys2Proof/Laws/PerInstr.lean ====
section
/-! SUPPORT. For each instruction: its word fits 32 bits, and the fields of the word select the instruction again (02_encoding R28, R41). -/
namespace Sys2Proof.Laws

open Sys2Proof Sys2Proof.Machine

theorem wordR_lt (op fn : Nat) (f : RF) (h : op < 64) (k : fn < 8) : wordR op fn f < 2 ^ 32 := by
  obtain ⟨c, d, a, b, t, pg⟩ := f
  have := d.isLt; have := a.isLt; have := b.isLt; have := pg.isLt
  unfold wordR
  cases c <;> cases t <;> simp only [bit, Bool.false_eq_true, ↓reduceIte] <;> omega

theorem wordX_lt (op : Nat) (f : XF) (h : op < 64) : wordX op f < 2 ^ 32 := by
  obtain ⟨c, d, a, b, la, pg⟩ := f
  have := d.isLt; have := a.isLt; have := b.isLt; have := la.isLt; have := pg.isLt
  unfold wordX
  cases c <;> simp only [bit, Bool.false_eq_true, ↓reduceIte] <;> omega

theorem wordB_lt (op : Nat) (f : BF) (h : op < 64) : wordB op f < 2 ^ 32 := by
  obtain ⟨c, off, pg⟩ := f
  have := off.isLt; have := pg.isLt
  unfold wordB
  cases c <;> simp only [bit, Bool.false_eq_true, ↓reduceIte] <;> omega

theorem opOf_wordR (op fn : Nat) (f : RF) (h : op < 64) (k : fn < 8) : opOf (wordR op fn f) = op := by
  obtain ⟨c, d, a, b, t, pg⟩ := f
  have := d.isLt; have := a.isLt; have := b.isLt; have := pg.isLt
  unfold wordR opOf
  cases c <;> cases t <;> simp only [bit, Bool.false_eq_true, ↓reduceIte] <;> omega

theorem fnOf_wordR (op fn : Nat) (f : RF) (h : op < 64) (k : fn < 8) : wordR op fn f / 2 ^ 4 % 8 = fn := by
  obtain ⟨c, d, a, b, t, pg⟩ := f
  have := d.isLt; have := a.isLt; have := b.isLt; have := pg.isLt
  unfold wordR
  cases c <;> cases t <;> simp only [bit, Bool.false_eq_true, ↓reduceIte] <;> omega

theorem opOf_wordX (op : Nat) (f : XF) (h : op < 64) : opOf (wordX op f) = op := by
  obtain ⟨c, d, a, b, la, pg⟩ := f
  have := d.isLt; have := a.isLt; have := b.isLt; have := la.isLt; have := pg.isLt
  unfold wordX opOf
  cases c <;> simp only [bit, Bool.false_eq_true, ↓reduceIte] <;> omega

theorem opOf_wordB (op : Nat) (f : BF) (h : op < 64) : opOf (wordB op f) = op := by
  obtain ⟨c, off, pg⟩ := f
  have := off.isLt; have := pg.isLt
  unfold wordB opOf
  cases c <;> simp only [bit, Bool.false_eq_true, ↓reduceIte] <;> omega

theorem fieldsR_wordR (op fn : Nat) (f : RF) (h : op < 64) (k : fn < 8) : fieldsR (wordR op fn f) = f := by
  obtain ⟨c, d, a, b, t, pg⟩ := f
  have := d.isLt; have := a.isLt; have := b.isLt; have := pg.isLt
  simp only [fieldsR, wordR, RF.mk.injEq]
  refine ⟨?_, ?_, ?_, ?_, ?_, ?_⟩
  · cases c <;> cases t <;> simp [bit] <;> omega
  all_goals first
    | (apply BitVec.eq_of_toNat_eq; rw [BitVec.toNat_ofNat]; cases c <;> cases t <;> simp only [bit, Bool.false_eq_true, ↓reduceIte] <;> omega)
    | (cases c <;> cases t <;> simp [bit] <;> omega)

theorem fieldsX_wordX (op : Nat) (f : XF) (h : op < 64) : fieldsX (wordX op f) = f := by
  obtain ⟨c, d, a, b, la, pg⟩ := f
  have := d.isLt; have := a.isLt; have := b.isLt; have := la.isLt; have := pg.isLt
  simp only [fieldsX, wordX, XF.mk.injEq]
  refine ⟨?_, ?_, ?_, ?_, ?_, ?_⟩
  · cases c <;> simp [bit] <;> omega
  all_goals (apply BitVec.eq_of_toNat_eq; rw [BitVec.toNat_ofNat]; cases c <;> simp only [bit, Bool.false_eq_true, ↓reduceIte] <;> omega)

theorem fieldsB_wordB (op : Nat) (f : BF) (h : op < 64) : fieldsB (wordB op f) = f := by
  obtain ⟨c, off, pg⟩ := f
  have := off.isLt; have := pg.isLt
  simp only [fieldsB, wordB, BF.mk.injEq]
  refine ⟨?_, ?_, ?_⟩
  · cases c <;> simp [bit] <;> omega
  all_goals (apply BitVec.eq_of_toNat_eq; rw [BitVec.toNat_ofNat]; cases c <;> simp only [bit, Bool.false_eq_true, ↓reduceIte] <;> omega)

/-- The word of a legal instruction fits 32 bits, and its fields select the instruction. -/
def Fields.Statement (i : Instr) : Prop :=
  ∀ v, view i = .word v → v.ill = none →
    v.word < 2 ^ 32 ∧ opOf v.word = v.op ∧ v.op ≠ 7 ∧ ctorOf (opOf v.word) (v.word / 2 ^ 4 % 8) (fieldsR v.word) (fieldsX v.word) (fieldsB v.word) = some i


theorem Fields.ofR (i : Instr) (op fn : Nat) (f : RF) (form : Form) (hv : view i = .word (vR op fn f form)) (h : op < 64) (k : fn < 8) (h7 : op ≠ 7)
    (hc : (vR op fn f form).ill = none → ∀ x o, ctorOf op fn f x o = some i) : Fields.Statement i := by
  intro v e hi
  rw [hv] at e
  cases e
  refine ⟨wordR_lt op fn f h k, opOf_wordR op fn f h k, h7, ?_⟩
  show ctorOf (opOf (wordR op fn f)) (wordR op fn f / 2 ^ 4 % 8) (fieldsR (wordR op fn f)) _ _ = _
  rw [opOf_wordR op fn f h k, fnOf_wordR op fn f h k, fieldsR_wordR op fn f h k]
  exact hc hi _ _

theorem Fields.ofX (i : Instr) (op : Nat) (f : XF) (form : Form) (hv : view i = .word (vX op f form)) (h : op < 64) (h7 : op ≠ 7)
    (hc : (vX op f form).ill = none → ∀ fn r o, ctorOf op fn r f o = some i) : Fields.Statement i := by
  intro v e hi
  rw [hv] at e
  cases e
  refine ⟨wordX_lt op f h, opOf_wordX op f h, h7, ?_⟩
  show ctorOf (opOf (wordX op f)) _ _ (fieldsX (wordX op f)) _ = _
  rw [opOf_wordX op f h, fieldsX_wordX op f h]
  exact hc hi _ _ _

theorem Fields.ofB (i : Instr) (op : Nat) (f : BF) (form : Form) (hv : view i = .word (vB op f form)) (h : op < 64) (h7 : op ≠ 7)
    (hc : ∀ fn r x, ctorOf op fn r x f = some i) : Fields.Statement i := by
  intro v e _
  rw [hv] at e
  cases e
  refine ⟨wordB_lt op f h, opOf_wordB op f h, h7, ?_⟩
  show ctorOf (opOf (wordB op f)) _ _ _ (fieldsB (wordB op f)) = _
  rw [opOf_wordB op f h, fieldsB_wordB op f h]
  exact hc _ _ _

/-- D of a CPYSTG word is fixed by the entry. -/
theorem stg_field (f : RF) (k : Nat) (form : Form) (hm : form.mask = 0x7ff81ff8) (hb : form.bits = 0x70000000 + k * 2 ^ 19) (hk : k < 64) (h : (vR 56 0 f form).ill = none) : f.d = BitVec.ofNat 6 k := by
  unfold View.ill at h
  split at h
  · cases h
  · next hw =>
    simp only [ne_eq, Decidable.not_not, vR, hm, hb] at hw
    have h1 := congrArg (fun n => n / 2 ^ 19 % 2 ^ 6) hw
    simp only [Nat.and_div_two_pow, Nat.and_mod_two_pow] at h1
    have h2 : 0x7ff81ff8 / 2 ^ 19 % 2 ^ 6 = 2 ^ 6 - 1 := by decide
    rw [h2, Nat.and_two_pow_sub_one_eq_mod] at h1
    obtain ⟨c, d, a, b, t, pg⟩ := f
    have := d.isLt; have := a.isLt; have := b.isLt; have := pg.isLt
    simp only [wordR] at h1
    apply BitVec.eq_of_toNat_eq
    rw [BitVec.toNat_ofNat]
    cases c <;> cases t <;> simp only [bit, Bool.false_eq_true, ↓reduceIte] at h1 <;> simp only <;> omega

/-- W of a CMO word is fixed by the entry. -/
theorem cmo_width (f : XF) (k : Nat) (form : Form) (hm : form.mask = 0x7ff81f80) (hb : form.bits = 0x4e000000 + k * 2 ^ 10) (hk : k < 8) (h : (vX 39 f form).ill = none) : f.b.toNat / 8 = k := by
  unfold View.ill at h
  split at h
  · cases h
  · next hw =>
    simp only [ne_eq, Decidable.not_not, vX, hm, hb] at hw
    have h1 := congrArg (fun n => n / 2 ^ 10 % 2 ^ 3) hw
    simp only [Nat.and_div_two_pow, Nat.and_mod_two_pow] at h1
    have h2 : 0x7ff81f80 / 2 ^ 10 % 2 ^ 3 = 2 ^ 3 - 1 := by decide
    rw [h2, Nat.and_two_pow_sub_one_eq_mod] at h1
    obtain ⟨c, d, a, b, la, pg⟩ := f
    have := d.isLt; have := a.isLt; have := b.isLt; have := la.isLt; have := pg.isLt
    simp only [wordX] at h1
    cases c <;> simp only [bit, Bool.false_eq_true, ↓reduceIte] at h1 <;> simp only <;> omega

theorem Fields.ext (x : BitVec 25) : Fields.Statement (.ext x) := by
  intro v h; cases h
theorem Fields.nop (f : RF) : Fields.Statement (.nop f) := Fields.ofR _ 0 0 f _ rfl (by decide) (by decide) (by decide) (fun _ _ _ => rfl)
theorem Fields.bkpt (f : RF) : Fields.Statement (.bkpt f) := Fields.ofR _ 0 1 f _ rfl (by decide) (by decide) (by decide) (fun _ _ _ => rfl)
theorem Fields.yield (f : RF) : Fields.Statement (.yield f) := Fields.ofR _ 0 2 f _ rfl (by decide) (by decide) (by decide) (fun _ _ _ => rfl)
theorem Fields.exit (f : RF) : Fields.Statement (.exit f) := Fields.ofR _ 0 3 f _ rfl (by decide) (by decide) (by decide) (fun _ _ _ => rfl)
theorem Fields.trap (f : RF) : Fields.Statement (.trap f) := Fields.ofR _ 0 4 f _ rfl (by decide) (by decide) (by decide) (fun _ _ _ => rfl)
theorem Fields.rtt (f : RF) : Fields.Statement (.rtt f) := Fields.ofR _ 0 5 f _ rfl (by decide) (by decide) (by decide) (fun _ _ _ => rfl)
theorem Fields.srd (f : RF) : Fields.Statement (.srd f) := Fields.ofR _ 0 6 f _ rfl (by decide) (by decide) (by decide) (fun _ _ _ => rfl)
theorem Fields.swr (f : RF) : Fields.Statement (.swr f) := Fields.ofR _ 0 7 f _ rfl (by decide) (by decide) (by decide) (fun _ _ _ => rfl)
theorem Fields.brAny (f : BF) : Fields.Statement (.brAny f) := Fields.ofB _ 1 f _ rfl (by decide) (by decide) (fun _ _ _ => rfl)
theorem Fields.brAll (f : BF) : Fields.Statement (.brAll f) := Fields.ofB _ 2 f _ rfl (by decide) (by decide) (fun _ _ _ => rfl)
theorem Fields.call (f : BF) : Fields.Statement (.call f) := Fields.ofB _ 3 f _ rfl (by decide) (by decide) (fun _ _ _ => rfl)
theorem Fields.jmpr (f : RF) : Fields.Statement (.jmpr f) := Fields.ofR _ 4 0 f _ rfl (by decide) (by decide) (by decide) (fun _ _ _ => rfl)
theorem Fields.callr (f : RF) : Fields.Statement (.callr f) := Fields.ofR _ 4 1 f _ rfl (by decide) (by decide) (by decide) (fun _ _ _ => rfl)
theorem Fields.ret (f : RF) : Fields.Statement (.ret f) := Fields.ofR _ 4 2 f _ rfl (by decide) (by decide) (by decide) (fun _ _ _ => rfl)
theorem Fields.regang (f : RF) : Fields.Statement (.regang f) := Fields.ofR _ 4 3 f _ rfl (by decide) (by decide) (by decide) (fun _ _ _ => rfl)
theorem Fields.spawn (f : RF) : Fields.Statement (.spawn f) := Fields.ofR _ 4 4 f _ rfl (by decide) (by decide) (by decide) (fun _ _ _ => rfl)
theorem Fields.spill (f : RF) : Fields.Statement (.spill f) := Fields.ofR _ 4 5 f _ rfl (by decide) (by decide) (by decide) (fun _ _ _ => rfl)
theorem Fields.fill (f : RF) : Fields.Statement (.fill f) := Fields.ofR _ 4 6 f _ rfl (by decide) (by decide) (by decide) (fun _ _ _ => rfl)
theorem Fields.pand (f : RF) : Fields.Statement (.pand f) := Fields.ofR _ 5 0 f _ rfl (by decide) (by decide) (by decide) (fun _ _ _ => rfl)
theorem Fields.por (f : RF) : Fields.Statement (.por f) := Fields.ofR _ 5 1 f _ rfl (by decide) (by decide) (by decide) (fun _ _ _ => rfl)
theorem Fields.pxor (f : RF) : Fields.Statement (.pxor f) := Fields.ofR _ 5 2 f _ rfl (by decide) (by decide) (by decide) (fun _ _ _ => rfl)
theorem Fields.pnot (f : RF) : Fields.Statement (.pnot f) := Fields.ofR _ 5 3 f _ rfl (by decide) (by decide) (by decide) (fun _ _ _ => rfl)
theorem Fields.voteAny (f : RF) : Fields.Statement (.voteAny f) := Fields.ofR _ 5 4 f _ rfl (by decide) (by decide) (by decide) (fun _ _ _ => rfl)
theorem Fields.voteAll (f : RF) : Fields.Statement (.voteAll f) := Fields.ofR _ 5 5 f _ rfl (by decide) (by decide) (by decide) (fun _ _ _ => rfl)
theorem Fields.ballot (f : RF) : Fields.Statement (.ballot f) := Fields.ofR _ 5 6 f _ rfl (by decide) (by decide) (by decide) (fun _ _ _ => rfl)
theorem Fields.pmov (f : RF) : Fields.Statement (.pmov f) := Fields.ofR _ 5 7 f _ rfl (by decide) (by decide) (by decide) (fun _ _ _ => rfl)
theorem Fields.shflIdx (f : RF) : Fields.Statement (.shflIdx f) := Fields.ofR _ 6 0 f _ rfl (by decide) (by decide) (by decide) (fun _ _ _ => rfl)
theorem Fields.shflUp (f : RF) : Fields.Statement (.shflUp f) := Fields.ofR _ 6 1 f _ rfl (by decide) (by decide) (by decide) (fun _ _ _ => rfl)
theorem Fields.shflDown (f : RF) : Fields.Statement (.shflDown f) := Fields.ofR _ 6 2 f _ rfl (by decide) (by decide) (by decide) (fun _ _ _ => rfl)
theorem Fields.shflXor (f : RF) : Fields.Statement (.shflXor f) := Fields.ofR _ 6 3 f _ rfl (by decide) (by decide) (by decide) (fun _ _ _ => rfl)
theorem Fields.lswz (f : RF) : Fields.Statement (.lswz f) := Fields.ofR _ 6 4 f _ rfl (by decide) (by decide) (by decide) (fun _ _ _ => rfl)
theorem Fields.gredIadd (f : RF) : Fields.Statement (.gredIadd f) := Fields.ofR _ 6 5 f _ rfl (by decide) (by decide) (by decide) (fun _ _ _ => rfl)
theorem Fields.gredFmax (f : RF) : Fields.Statement (.gredFmax f) := Fields.ofR _ 6 6 f _ rfl (by decide) (by decide) (by decide) (fun _ _ _ => rfl)
theorem Fields.gscanIadd (f : RF) : Fields.Statement (.gscanIadd f) := Fields.ofR _ 6 7 f _ rfl (by decide) (by decide) (by decide) (fun _ _ _ => rfl)
theorem Fields.iadd (f : RF) : Fields.Statement (.iadd f) := Fields.ofR _ 8 0 f _ rfl (by decide) (by decide) (by decide) (fun _ _ _ => rfl)
theorem Fields.isub (f : RF) : Fields.Statement (.isub f) := Fields.ofR _ 8 1 f _ rfl (by decide) (by decide) (by decide) (fun _ _ _ => rfl)
theorem Fields.imul (f : RF) : Fields.Statement (.imul f) := Fields.ofR _ 8 2 f _ rfl (by decide) (by decide) (by decide) (fun _ _ _ => rfl)
theorem Fields.imulhI (f : RF) : Fields.Statement (.imulhI f) := Fields.ofR _ 8 3 f _ rfl (by decide) (by decide) (by decide) (fun _ _ _ => rfl)
theorem Fields.imulhN (f : RF) : Fields.Statement (.imulhN f) := Fields.ofR _ 8 4 f _ rfl (by decide) (by decide) (by decide) (fun _ _ _ => rfl)
theorem Fields.ineg (f : RF) : Fields.Statement (.ineg f) := Fields.ofR _ 8 5 f _ rfl (by decide) (by decide) (by decide) (fun _ _ _ => rfl)
theorem Fields.iabs (f : RF) : Fields.Statement (.iabs f) := Fields.ofR _ 8 6 f _ rfl (by decide) (by decide) (by decide) (fun _ _ _ => rfl)
theorem Fields.iaddSat (f : RF) : Fields.Statement (.iaddSat f) := Fields.ofR _ 8 7 f _ rfl (by decide) (by decide) (by decide) (fun _ _ _ => rfl)
theorem Fields.iminI (f : RF) : Fields.Statement (.iminI f) := Fields.ofR _ 9 0 f _ rfl (by decide) (by decide) (by decide) (fun _ _ _ => rfl)
theorem Fields.iminN (f : RF) : Fields.Statement (.iminN f) := Fields.ofR _ 9 1 f _ rfl (by decide) (by decide) (by decide) (fun _ _ _ => rfl)
theorem Fields.imaxI (f : RF) : Fields.Statement (.imaxI f) := Fields.ofR _ 9 2 f _ rfl (by decide) (by decide) (by decide) (fun _ _ _ => rfl)
theorem Fields.imaxN (f : RF) : Fields.Statement (.imaxN f) := Fields.ofR _ 9 3 f _ rfl (by decide) (by decide) (by decide) (fun _ _ _ => rfl)
theorem Fields.iadd64 (f : RF) : Fields.Statement (.iadd64 f) := Fields.ofR _ 9 4 f _ rfl (by decide) (by decide) (by decide) (fun _ _ _ => rfl)
theorem Fields.isub64 (f : RF) : Fields.Statement (.isub64 f) := Fields.ofR _ 9 5 f _ rfl (by decide) (by decide) (by decide) (fun _ _ _ => rfl)
theorem Fields.lea (f : RF) : Fields.Statement (.lea f) := Fields.ofR _ 9 6 f _ rfl (by decide) (by decide) (by decide) (fun _ _ _ => rfl)
theorem Fields.isubSat (f : RF) : Fields.Statement (.isubSat f) := Fields.ofR _ 9 7 f _ rfl (by decide) (by decide) (by decide) (fun _ _ _ => rfl)
theorem Fields.imad (f : RF) : Fields.Statement (.imad f) := Fields.ofR _ 10 0 f _ rfl (by decide) (by decide) (by decide) (fun _ _ _ => rfl)
theorem Fields.imadwI (f : RF) : Fields.Statement (.imadwI f) := Fields.ofR _ 10 1 f _ rfl (by decide) (by decide) (by decide) (fun _ _ _ => rfl)
theorem Fields.imadwN (f : RF) : Fields.Statement (.imadwN f) := Fields.ofR _ 10 2 f _ rfl (by decide) (by decide) (by decide) (fun _ _ _ => rfl)
theorem Fields.iaccw (f : RF) : Fields.Statement (.iaccw f) := Fields.ofR _ 10 3 f _ rfl (by decide) (by decide) (by decide) (fun _ _ _ => rfl)
theorem Fields.idot4I8 (f : RF) : Fields.Statement (.idot4I8 f) := Fields.ofR _ 10 4 f _ rfl (by decide) (by decide) (by decide) (fun _ _ _ => rfl)
theorem Fields.idot4N8 (f : RF) : Fields.Statement (.idot4N8 f) := Fields.ofR _ 10 5 f _ rfl (by decide) (by decide) (by decide) (fun _ _ _ => rfl)
theorem Fields.idot2I16 (f : RF) : Fields.Statement (.idot2I16 f) := Fields.ofR _ 10 6 f _ rfl (by decide) (by decide) (by decide) (fun _ _ _ => rfl)
theorem Fields.isad (f : RF) : Fields.Statement (.isad f) := Fields.ofR _ 10 7 f _ rfl (by decide) (by decide) (by decide) (fun _ _ _ => rfl)
theorem Fields.and (f : RF) : Fields.Statement (.and f) := Fields.ofR _ 11 0 f _ rfl (by decide) (by decide) (by decide) (fun _ _ _ => rfl)
theorem Fields.or (f : RF) : Fields.Statement (.or f) := Fields.ofR _ 11 1 f _ rfl (by decide) (by decide) (by decide) (fun _ _ _ => rfl)
theorem Fields.xor (f : RF) : Fields.Statement (.xor f) := Fields.ofR _ 11 2 f _ rfl (by decide) (by decide) (by decide) (fun _ _ _ => rfl)
theorem Fields.andn (f : RF) : Fields.Statement (.andn f) := Fields.ofR _ 11 3 f _ rfl (by decide) (by decide) (by decide) (fun _ _ _ => rfl)
theorem Fields.orn (f : RF) : Fields.Statement (.orn f) := Fields.ofR _ 11 4 f _ rfl (by decide) (by decide) (by decide) (fun _ _ _ => rfl)
theorem Fields.not (f : RF) : Fields.Statement (.not f) := Fields.ofR _ 11 5 f _ rfl (by decide) (by decide) (by decide) (fun _ _ _ => rfl)
theorem Fields.mov (f : RF) : Fields.Statement (.mov f) := Fields.ofR _ 11 6 f _ rfl (by decide) (by decide) (by decide) (fun _ _ _ => rfl)
theorem Fields.sel (f : RF) : Fields.Statement (.sel f) := Fields.ofR _ 11 7 f _ rfl (by decide) (by decide) (by decide) (fun _ _ _ => rfl)
theorem Fields.shl (f : RF) : Fields.Statement (.shl f) := Fields.ofR _ 12 0 f _ rfl (by decide) (by decide) (by decide) (fun _ _ _ => rfl)
theorem Fields.shr (f : RF) : Fields.Statement (.shr f) := Fields.ofR _ 12 1 f _ rfl (by decide) (by decide) (by decide) (fun _ _ _ => rfl)
theorem Fields.sar (f : RF) : Fields.Statement (.sar f) := Fields.ofR _ 12 2 f _ rfl (by decide) (by decide) (by decide) (fun _ _ _ => rfl)
theorem Fields.rol (f : RF) : Fields.Statement (.rol f) := Fields.ofR _ 12 3 f _ rfl (by decide) (by decide) (by decide) (fun _ _ _ => rfl)
theorem Fields.ror (f : RF) : Fields.Statement (.ror f) := Fields.ofR _ 12 4 f _ rfl (by decide) (by decide) (by decide) (fun _ _ _ => rfl)
theorem Fields.shl64 (f : RF) : Fields.Statement (.shl64 f) := Fields.ofR _ 12 5 f _ rfl (by decide) (by decide) (by decide) (fun _ _ _ => rfl)
theorem Fields.shr64 (f : RF) : Fields.Statement (.shr64 f) := Fields.ofR _ 12 6 f _ rfl (by decide) (by decide) (by decide) (fun _ _ _ => rfl)
theorem Fields.sar64 (f : RF) : Fields.Statement (.sar64 f) := Fields.ofR _ 12 7 f _ rfl (by decide) (by decide) (by decide) (fun _ _ _ => rfl)
theorem Fields.popc (f : RF) : Fields.Statement (.popc f) := Fields.ofR _ 13 0 f _ rfl (by decide) (by decide) (by decide) (fun _ _ _ => rfl)
theorem Fields.clz (f : RF) : Fields.Statement (.clz f) := Fields.ofR _ 13 1 f _ rfl (by decide) (by decide) (by decide) (fun _ _ _ => rfl)
theorem Fields.ctz (f : RF) : Fields.Statement (.ctz f) := Fields.ofR _ 13 2 f _ rfl (by decide) (by decide) (by decide) (fun _ _ _ => rfl)
theorem Fields.brev (f : RF) : Fields.Statement (.brev f) := Fields.ofR _ 13 3 f _ rfl (by decide) (by decide) (by decide) (fun _ _ _ => rfl)
theorem Fields.bfxI (f : RF) : Fields.Statement (.bfxI f) := Fields.ofR _ 13 4 f _ rfl (by decide) (by decide) (by decide) (fun _ _ _ => rfl)
theorem Fields.bfxN (f : RF) : Fields.Statement (.bfxN f) := Fields.ofR _ 13 5 f _ rfl (by decide) (by decide) (by decide) (fun _ _ _ => rfl)
theorem Fields.bfi (f : RF) : Fields.Statement (.bfi f) := Fields.ofR _ 13 6 f _ rfl (by decide) (by decide) (by decide) (fun _ _ _ => rfl)
theorem Fields.bswp (f : RF) : Fields.Statement (.bswp f) := Fields.ofR _ 13 7 f _ rfl (by decide) (by decide) (by decide) (fun _ _ _ => rfl)
theorem Fields.isetEq (f : RF) : Fields.Statement (.isetEq f) := Fields.ofR _ 14 0 f _ rfl (by decide) (by decide) (by decide) (fun _ _ _ => rfl)
theorem Fields.isetNe (f : RF) : Fields.Statement (.isetNe f) := Fields.ofR _ 14 1 f _ rfl (by decide) (by decide) (by decide) (fun _ _ _ => rfl)
theorem Fields.isetLtI (f : RF) : Fields.Statement (.isetLtI f) := Fields.ofR _ 14 2 f _ rfl (by decide) (by decide) (by decide) (fun _ _ _ => rfl)
theorem Fields.isetLeI (f : RF) : Fields.Statement (.isetLeI f) := Fields.ofR _ 14 3 f _ rfl (by decide) (by decide) (by decide) (fun _ _ _ => rfl)
theorem Fields.isetLtN (f : RF) : Fields.Statement (.isetLtN f) := Fields.ofR _ 14 4 f _ rfl (by decide) (by decide) (by decide) (fun _ _ _ => rfl)
theorem Fields.isetLeN (f : RF) : Fields.Statement (.isetLeN f) := Fields.ofR _ 14 5 f _ rfl (by decide) (by decide) (by decide) (fun _ _ _ => rfl)
theorem Fields.isetTst (f : RF) : Fields.Statement (.isetTst f) := Fields.ofR _ 14 6 f _ rfl (by decide) (by decide) (by decide) (fun _ _ _ => rfl)
theorem Fields.movi (f : RF) : Fields.Statement (.movi f) := Fields.ofR _ 15 0 f _ rfl (by decide) (by decide) (by decide) (fun _ _ _ => rfl)
theorem Fields.movh (f : RF) : Fields.Statement (.movh f) := Fields.ofR _ 15 1 f _ rfl (by decide) (by decide) (by decide) (fun _ _ _ => rfl)
theorem Fields.mov64 (f : RF) : Fields.Statement (.mov64 f) := Fields.ofR _ 15 2 f _ rfl (by decide) (by decide) (by decide) (fun _ _ _ => rfl)
theorem Fields.idxset (f : RF) : Fields.Statement (.idxset f) := Fields.ofR _ 15 3 f _ rfl (by decide) (by decide) (by decide) (fun _ _ _ => rfl)
theorem Fields.idxadd (f : RF) : Fields.Statement (.idxadd f) := Fields.ofR _ 15 4 f _ rfl (by decide) (by decide) (by decide) (fun _ _ _ => rfl)
theorem Fields.winset (f : RF) : Fields.Statement (.winset f) := Fields.ofR _ 15 5 f _ rfl (by decide) (by decide) (by decide) (fun _ _ _ => rfl)
theorem Fields.unif (f : RF) : Fields.Statement (.unif f) := Fields.ofR _ 15 6 f _ rfl (by decide) (by decide) (by decide) (fun _ _ _ => rfl)
theorem Fields.fadd (f : RF) : Fields.Statement (.fadd f) := Fields.ofR _ 16 0 f _ rfl (by decide) (by decide) (by decide) (fun _ _ _ => rfl)
theorem Fields.fsub (f : RF) : Fields.Statement (.fsub f) := Fields.ofR _ 16 1 f _ rfl (by decide) (by decide) (by decide) (fun _ _ _ => rfl)
theorem Fields.fmul (f : RF) : Fields.Statement (.fmul f) := Fields.ofR _ 16 2 f _ rfl (by decide) (by decide) (by decide) (fun _ _ _ => rfl)
theorem Fields.fmin (f : RF) : Fields.Statement (.fmin f) := Fields.ofR _ 16 3 f _ rfl (by decide) (by decide) (by decide) (fun _ _ _ => rfl)
theorem Fields.fmax (f : RF) : Fields.Statement (.fmax f) := Fields.ofR _ 16 4 f _ rfl (by decide) (by decide) (by decide) (fun _ _ _ => rfl)
theorem Fields.fabs (f : RF) : Fields.Statement (.fabs f) := Fields.ofR _ 16 5 f _ rfl (by decide) (by decide) (by decide) (fun _ _ _ => rfl)
theorem Fields.fneg (f : RF) : Fields.Statement (.fneg f) := Fields.ofR _ 16 6 f _ rfl (by decide) (by decide) (by decide) (fun _ _ _ => rfl)
theorem Fields.fcpys (f : RF) : Fields.Statement (.fcpys f) := Fields.ofR _ 16 7 f _ rfl (by decide) (by decide) (by decide) (fun _ _ _ => rfl)
theorem Fields.ffma (f : RF) : Fields.Statement (.ffma f) := Fields.ofR _ 17 0 f _ rfl (by decide) (by decide) (by decide) (fun _ _ _ => rfl)
theorem Fields.ffms (f : RF) : Fields.Statement (.ffms f) := Fields.ofR _ 17 1 f _ rfl (by decide) (by decide) (by decide) (fun _ _ _ => rfl)
theorem Fields.fnma (f : RF) : Fields.Statement (.fnma f) := Fields.ofR _ 17 2 f _ rfl (by decide) (by decide) (by decide) (fun _ _ _ => rfl)
theorem Fields.twosum (f : RF) : Fields.Statement (.twosum f) := Fields.ofR _ 17 3 f _ rfl (by decide) (by decide) (by decide) (fun _ _ _ => rfl)
theorem Fields.ftsum (f : RF) : Fields.Statement (.ftsum f) := Fields.ofR _ 17 4 f _ rfl (by decide) (by decide) (by decide) (fun _ _ _ => rfl)
theorem Fields.twoprod (f : RF) : Fields.Statement (.twoprod f) := Fields.ofR _ 17 5 f _ rfl (by decide) (by decide) (by decide) (fun _ _ _ => rfl)
theorem Fields.fsetEq (f : RF) : Fields.Statement (.fsetEq f) := Fields.ofR _ 18 0 f _ rfl (by decide) (by decide) (by decide) (fun _ _ _ => rfl)
theorem Fields.fsetNe (f : RF) : Fields.Statement (.fsetNe f) := Fields.ofR _ 18 1 f _ rfl (by decide) (by decide) (by decide) (fun _ _ _ => rfl)
theorem Fields.fsetLt (f : RF) : Fields.Statement (.fsetLt f) := Fields.ofR _ 18 2 f _ rfl (by decide) (by decide) (by decide) (fun _ _ _ => rfl)
theorem Fields.fsetLe (f : RF) : Fields.Statement (.fsetLe f) := Fields.ofR _ 18 3 f _ rfl (by decide) (by decide) (by decide) (fun _ _ _ => rfl)
theorem Fields.fsetUnord (f : RF) : Fields.Statement (.fsetUnord f) := Fields.ofR _ 18 4 f _ rfl (by decide) (by decide) (by decide) (fun _ _ _ => rfl)
theorem Fields.fsetOrd (f : RF) : Fields.Statement (.fsetOrd f) := Fields.ofR _ 18 5 f _ rfl (by decide) (by decide) (by decide) (fun _ _ _ => rfl)
theorem Fields.fsetClass (f : RF) : Fields.Statement (.fsetClass f) := Fields.ofR _ 18 6 f _ rfl (by decide) (by decide) (by decide) (fun _ _ _ => rfl)
theorem Fields.frcp (f : RF) : Fields.Statement (.frcp f) := Fields.ofR _ 19 0 f _ rfl (by decide) (by decide) (by decide) (fun _ _ _ => rfl)
theorem Fields.frsq (f : RF) : Fields.Statement (.frsq f) := Fields.ofR _ 19 1 f _ rfl (by decide) (by decide) (by decide) (fun _ _ _ => rfl)
theorem Fields.fsqrt (f : RF) : Fields.Statement (.fsqrt f) := Fields.ofR _ 19 2 f _ rfl (by decide) (by decide) (by decide) (fun _ _ _ => rfl)
theorem Fields.fexp2 (f : RF) : Fields.Statement (.fexp2 f) := Fields.ofR _ 19 3 f _ rfl (by decide) (by decide) (by decide) (fun _ _ _ => rfl)
theorem Fields.flog2 (f : RF) : Fields.Statement (.flog2 f) := Fields.ofR _ 19 4 f _ rfl (by decide) (by decide) (by decide) (fun _ _ _ => rfl)
theorem Fields.fsin (f : RF) : Fields.Statement (.fsin f) := Fields.ofR _ 19 5 f _ rfl (by decide) (by decide) (by decide) (fun _ _ _ => rfl)
theorem Fields.fcos (f : RF) : Fields.Statement (.fcos f) := Fields.ofR _ 19 6 f _ rfl (by decide) (by decide) (by decide) (fun _ _ _ => rfl)
theorem Fields.ftanh (f : RF) : Fields.Statement (.ftanh f) := Fields.ofR _ 19 7 f _ rfl (by decide) (by decide) (by decide) (fun _ _ _ => rfl)
theorem Fields.hadd2Bf16 (f : RF) : Fields.Statement (.hadd2Bf16 f) := Fields.ofR _ 20 0 f _ rfl (by decide) (by decide) (by decide) (fun _ _ _ => rfl)
theorem Fields.hmul2Bf16 (f : RF) : Fields.Statement (.hmul2Bf16 f) := Fields.ofR _ 20 1 f _ rfl (by decide) (by decide) (by decide) (fun _ _ _ => rfl)
theorem Fields.hfma2Bf16 (f : RF) : Fields.Statement (.hfma2Bf16 f) := Fields.ofR _ 20 2 f _ rfl (by decide) (by decide) (by decide) (fun _ _ _ => rfl)
theorem Fields.hadd2F16 (f : RF) : Fields.Statement (.hadd2F16 f) := Fields.ofR _ 20 3 f _ rfl (by decide) (by decide) (by decide) (fun _ _ _ => rfl)
theorem Fields.hmul2F16 (f : RF) : Fields.Statement (.hmul2F16 f) := Fields.ofR _ 20 4 f _ rfl (by decide) (by decide) (by decide) (fun _ _ _ => rfl)
theorem Fields.hfma2F16 (f : RF) : Fields.Statement (.hfma2F16 f) := Fields.ofR _ 20 5 f _ rfl (by decide) (by decide) (by decide) (fun _ _ _ => rfl)
theorem Fields.hmax2Bf16 (f : RF) : Fields.Statement (.hmax2Bf16 f) := Fields.ofR _ 20 6 f _ rfl (by decide) (by decide) (by decide) (fun _ _ _ => rfl)
theorem Fields.hmin2Bf16 (f : RF) : Fields.Statement (.hmin2Bf16 f) := Fields.ofR _ 20 7 f _ rfl (by decide) (by decide) (by decide) (fun _ _ _ => rfl)
theorem Fields.dadd (f : RF) : Fields.Statement (.dadd f) := Fields.ofR _ 21 0 f _ rfl (by decide) (by decide) (by decide) (fun _ _ _ => rfl)
theorem Fields.dsub (f : RF) : Fields.Statement (.dsub f) := Fields.ofR _ 21 1 f _ rfl (by decide) (by decide) (by decide) (fun _ _ _ => rfl)
theorem Fields.dmul (f : RF) : Fields.Statement (.dmul f) := Fields.ofR _ 21 2 f _ rfl (by decide) (by decide) (by decide) (fun _ _ _ => rfl)
theorem Fields.dfma (f : RF) : Fields.Statement (.dfma f) := Fields.ofR _ 21 3 f _ rfl (by decide) (by decide) (by decide) (fun _ _ _ => rfl)
theorem Fields.dmin (f : RF) : Fields.Statement (.dmin f) := Fields.ofR _ 21 4 f _ rfl (by decide) (by decide) (by decide) (fun _ _ _ => rfl)
theorem Fields.dmax (f : RF) : Fields.Statement (.dmax f) := Fields.ofR _ 21 5 f _ rfl (by decide) (by decide) (by decide) (fun _ _ _ => rfl)
theorem Fields.dsetLt (f : RF) : Fields.Statement (.dsetLt f) := Fields.ofR _ 21 6 f _ rfl (by decide) (by decide) (by decide) (fun _ _ _ => rfl)
theorem Fields.dsetEq (f : RF) : Fields.Statement (.dsetEq f) := Fields.ofR _ 21 7 f _ rfl (by decide) (by decide) (by decide) (fun _ _ _ => rfl)
theorem Fields.cvtF32I32 (f : RF) : Fields.Statement (.cvtF32I32 f) := Fields.ofR _ 22 0 f _ rfl (by decide) (by decide) (by decide) (fun _ _ _ => rfl)
theorem Fields.cvtF32N32 (f : RF) : Fields.Statement (.cvtF32N32 f) := Fields.ofR _ 22 1 f _ rfl (by decide) (by decide) (by decide) (fun _ _ _ => rfl)
theorem Fields.cvtI32F32 (f : RF) : Fields.Statement (.cvtI32F32 f) := Fields.ofR _ 22 2 f _ rfl (by decide) (by decide) (by decide) (fun _ _ _ => rfl)
theorem Fields.cvtN32F32 (f : RF) : Fields.Statement (.cvtN32F32 f) := Fields.ofR _ 22 3 f _ rfl (by decide) (by decide) (by decide) (fun _ _ _ => rfl)
theorem Fields.cvtF32F64 (f : RF) : Fields.Statement (.cvtF32F64 f) := Fields.ofR _ 22 4 f _ rfl (by decide) (by decide) (by decide) (fun _ _ _ => rfl)
theorem Fields.cvtF64F32 (f : RF) : Fields.Statement (.cvtF64F32 f) := Fields.ofR _ 22 5 f _ rfl (by decide) (by decide) (by decide) (fun _ _ _ => rfl)
theorem Fields.cvtBf16x2F32 (f : RF) : Fields.Statement (.cvtBf16x2F32 f) := Fields.ofR _ 22 6 f _ rfl (by decide) (by decide) (by decide) (fun _ _ _ => rfl)
theorem Fields.cvtF16x2F32 (f : RF) : Fields.Statement (.cvtF16x2F32 f) := Fields.ofR _ 22 7 f _ rfl (by decide) (by decide) (by decide) (fun _ _ _ => rfl)
theorem Fields.unpkBf16x2 (f : RF) : Fields.Statement (.unpkBf16x2 f) := Fields.ofR _ 23 0 f _ rfl (by decide) (by decide) (by decide) (fun _ _ _ => rfl)
theorem Fields.unpkF16x2 (f : RF) : Fields.Statement (.unpkF16x2 f) := Fields.ofR _ 23 1 f _ rfl (by decide) (by decide) (by decide) (fun _ _ _ => rfl)
theorem Fields.cvtF64I32 (f : RF) : Fields.Statement (.cvtF64I32 f) := Fields.ofR _ 23 2 f _ rfl (by decide) (by decide) (by decide) (fun _ _ _ => rfl)
theorem Fields.cvtI32F64 (f : RF) : Fields.Statement (.cvtI32F64 f) := Fields.ofR _ 23 3 f _ rfl (by decide) (by decide) (by decide) (fun _ _ _ => rfl)
theorem Fields.packI8x4 (f : RF) : Fields.Statement (.packI8x4 f) := Fields.ofR _ 23 4 f _ rfl (by decide) (by decide) (by decide) (fun _ _ _ => rfl)
theorem Fields.packN8x4 (f : RF) : Fields.Statement (.packN8x4 f) := Fields.ofR _ 23 5 f _ rfl (by decide) (by decide) (by decide) (fun _ _ _ => rfl)
theorem Fields.unpkI8x4 (f : RF) : Fields.Statement (.unpkI8x4 f) := Fields.ofR _ 23 6 f _ rfl (by decide) (by decide) (by decide) (fun _ _ _ => rfl)
theorem Fields.unpkN8x4 (f : RF) : Fields.Statement (.unpkN8x4 f) := Fields.ofR _ 23 7 f _ rfl (by decide) (by decide) (by decide) (fun _ _ _ => rfl)
theorem Fields.qnt (f : RF) : Fields.Statement (.qnt f) := Fields.ofR _ 24 0 f _ rfl (by decide) (by decide) (by decide) (fun _ _ _ => rfl)
theorem Fields.dqnt (f : RF) : Fields.Statement (.dqnt f) := Fields.ofR _ 24 1 f _ rfl (by decide) (by decide) (by decide) (fun _ _ _ => rfl)
theorem Fields.qpack (f : RF) : Fields.Statement (.qpack f) := Fields.ofR _ 24 2 f _ rfl (by decide) (by decide) (by decide) (fun _ _ _ => rfl)
theorem Fields.qunpk (f : RF) : Fields.Statement (.qunpk f) := Fields.ofR _ 24 3 f _ rfl (by decide) (by decide) (by decide) (fun _ _ _ => rfl)
theorem Fields.segscl (f : RF) : Fields.Statement (.segscl f) := Fields.ofR _ 24 4 f _ rfl (by decide) (by decide) (by decide) (fun _ _ _ => rfl)
theorem Fields.fmtchk (f : RF) : Fields.Statement (.fmtchk f) := Fields.ofR _ 24 5 f _ rfl (by decide) (by decide) (by decide) (fun _ _ _ => rfl)
theorem Fields.ld (f : XF) : Fields.Statement (.ld f) := Fields.ofX _ 32 f _ rfl (by decide) (by decide) (fun _ _ _ _ => rfl)
theorem Fields.st (f : XF) : Fields.Statement (.st f) := Fields.ofX _ 33 f _ rfl (by decide) (by decide) (fun _ _ _ _ => rfl)
theorem Fields.ldNt (f : XF) : Fields.Statement (.ldNt f) := Fields.ofX _ 34 f _ rfl (by decide) (by decide) (fun _ _ _ _ => rfl)
theorem Fields.stNt (f : XF) : Fields.Statement (.stNt f) := Fields.ofX _ 35 f _ rfl (by decide) (by decide) (fun _ _ _ _ => rfl)
theorem Fields.ldfe (f : XF) : Fields.Statement (.ldfe f) := Fields.ofX _ 36 f _ rfl (by decide) (by decide) (fun _ _ _ _ => rfl)
theorem Fields.stfe (f : XF) : Fields.Statement (.stfe f) := Fields.ofX _ 37 f _ rfl (by decide) (by decide) (fun _ _ _ _ => rfl)
theorem Fields.pf (f : XF) : Fields.Statement (.pf f) := Fields.ofX _ 38 f _ rfl (by decide) (by decide) (fun _ _ _ _ => rfl)
theorem Fields.cmoClean (f : XF) : Fields.Statement (.cmoClean f) :=
  Fields.ofX _ 39 f _ rfl (by decide) (by decide) (fun h _ _ _ => by have := cmo_width f 0 _ rfl rfl (by decide) h; simp [ctorOf, this])
theorem Fields.cmoInv (f : XF) : Fields.Statement (.cmoInv f) :=
  Fields.ofX _ 39 f _ rfl (by decide) (by decide) (fun h _ _ _ => by have := cmo_width f 1 _ rfl rfl (by decide) h; simp [ctorOf, this])
theorem Fields.cmoCleaninv (f : XF) : Fields.Statement (.cmoCleaninv f) :=
  Fields.ofX _ 39 f _ rfl (by decide) (by decide) (fun h _ _ _ => by have := cmo_width f 2 _ rfl rfl (by decide) h; simp [ctorOf, this])
theorem Fields.atomG (f : XF) : Fields.Statement (.atomG f) := Fields.ofX _ 40 f _ rfl (by decide) (by decide) (fun _ _ _ _ => rfl)
theorem Fields.atomS (f : XF) : Fields.Statement (.atomS f) := Fields.ofX _ 41 f _ rfl (by decide) (by decide) (fun _ _ _ _ => rfl)
theorem Fields.atomC (f : XF) : Fields.Statement (.atomC f) := Fields.ofX _ 42 f _ rfl (by decide) (by decide) (fun _ _ _ _ => rfl)
theorem Fields.redG (f : XF) : Fields.Statement (.redG f) := Fields.ofX _ 43 f _ rfl (by decide) (by decide) (fun _ _ _ _ => rfl)
theorem Fields.bara (f : RF) : Fields.Statement (.bara f) := Fields.ofR _ 44 0 f _ rfl (by decide) (by decide) (by decide) (fun _ _ _ => rfl)
theorem Fields.barw (f : RF) : Fields.Statement (.barw f) := Fields.ofR _ 44 1 f _ rfl (by decide) (by decide) (by decide) (fun _ _ _ => rfl)
theorem Fields.baraw (f : RF) : Fields.Statement (.baraw f) := Fields.ofR _ 44 2 f _ rfl (by decide) (by decide) (by decide) (fun _ _ _ => rfl)
theorem Fields.barinit (f : RF) : Fields.Statement (.barinit f) := Fields.ofR _ 44 3 f _ rfl (by decide) (by decide) (by decide) (fun _ _ _ => rfl)
theorem Fields.gbar (f : RF) : Fields.Statement (.gbar f) := Fields.ofR _ 44 4 f _ rfl (by decide) (by decide) (by decide) (fun _ _ _ => rfl)
theorem Fields.barq (f : RF) : Fields.Statement (.barq f) := Fields.ofR _ 44 5 f _ rfl (by decide) (by decide) (by decide) (fun _ _ _ => rfl)
theorem Fields.arrvInit (f : RF) : Fields.Statement (.arrvInit f) := Fields.ofR _ 45 0 f _ rfl (by decide) (by decide) (by decide) (fun _ _ _ => rfl)
theorem Fields.arrvAdd (f : RF) : Fields.Statement (.arrvAdd f) := Fields.ofR _ 45 1 f _ rfl (by decide) (by decide) (by decide) (fun _ _ _ => rfl)
theorem Fields.await (f : RF) : Fields.Statement (.await f) := Fields.ofR _ 45 2 f _ rfl (by decide) (by decide) (by decide) (fun _ _ _ => rfl)
theorem Fields.awaitT (f : RF) : Fields.Statement (.awaitT f) := Fields.ofR _ 45 3 f _ rfl (by decide) (by decide) (by decide) (fun _ _ _ => rfl)
theorem Fields.arrvRd (f : RF) : Fields.Statement (.arrvRd f) := Fields.ofR _ 45 4 f _ rfl (by decide) (by decide) (by decide) (fun _ _ _ => rfl)
theorem Fields.fenceAcq (f : RF) : Fields.Statement (.fenceAcq f) := Fields.ofR _ 46 0 f _ rfl (by decide) (by decide) (by decide) (fun _ _ _ => rfl)
theorem Fields.fenceRel (f : RF) : Fields.Statement (.fenceRel f) := Fields.ofR _ 46 1 f _ rfl (by decide) (by decide) (by decide) (fun _ _ _ => rfl)
theorem Fields.fenceAr (f : RF) : Fields.Statement (.fenceAr f) := Fields.ofR _ 46 2 f _ rfl (by decide) (by decide) (by decide) (fun _ _ _ => rfl)
theorem Fields.fenceSp (f : RF) : Fields.Statement (.fenceSp f) := Fields.ofR _ 46 3 f _ rfl (by decide) (by decide) (by decide) (fun _ _ _ => rfl)
theorem Fields.ifence (f : RF) : Fields.Statement (.ifence f) := Fields.ofR _ 46 4 f _ rfl (by decide) (by decide) (by decide) (fun _ _ _ => rfl)
theorem Fields.pbar (f : RF) : Fields.Statement (.pbar f) := Fields.ofR _ 46 5 f _ rfl (by decide) (by decide) (by decide) (fun _ _ _ => rfl)
theorem Fields.psync (f : RF) : Fields.Statement (.psync f) := Fields.ofR _ 46 6 f _ rfl (by decide) (by decide) (by decide) (fun _ _ _ => rfl)
theorem Fields.mma (f : XF) : Fields.Statement (.mma f) := Fields.ofX _ 48 f _ rfl (by decide) (by decide) (fun _ _ _ _ => rfl)
theorem Fields.mzero (f : XF) : Fields.Statement (.mzero f) := Fields.ofX _ 49 f _ rfl (by decide) (by decide) (fun _ _ _ _ => rfl)
theorem Fields.mrd (f : XF) : Fields.Statement (.mrd f) := Fields.ofX _ 50 f _ rfl (by decide) (by decide) (fun _ _ _ _ => rfl)
theorem Fields.mwr (f : XF) : Fields.Statement (.mwr f) := Fields.ofX _ 51 f _ rfl (by decide) (by decide) (fun _ _ _ _ => rfl)
theorem Fields.mdrain (f : XF) : Fields.Statement (.mdrain f) := Fields.ofX _ 52 f _ rfl (by decide) (by decide) (fun _ _ _ _ => rfl)
theorem Fields.mfence (f : RF) : Fields.Statement (.mfence f) := Fields.ofR _ 53 0 f _ rfl (by decide) (by decide) (by decide) (fun _ _ _ => rfl)
theorem Fields.mwait (f : RF) : Fields.Statement (.mwait f) := Fields.ofR _ 53 1 f _ rfl (by decide) (by decide) (by decide) (fun _ _ _ => rfl)
theorem Fields.mwm (f : RF) : Fields.Statement (.mwm f) := Fields.ofR _ 53 2 f _ rfl (by decide) (by decide) (by decide) (fun _ _ _ => rfl)
theorem Fields.mtld (f : RF) : Fields.Statement (.mtld f) := Fields.ofR _ 53 3 f _ rfl (by decide) (by decide) (by decide) (fun _ _ _ => rfl)
theorem Fields.mstat (f : RF) : Fields.Statement (.mstat f) := Fields.ofR _ 53 4 f _ rfl (by decide) (by decide) (by decide) (fun _ _ _ => rfl)
theorem Fields.cpy (f : XF) : Fields.Statement (.cpy f) := Fields.ofX _ 54 f _ rfl (by decide) (by decide) (fun _ _ _ _ => rfl)
theorem Fields.cpym (f : XF) : Fields.Statement (.cpym f) := Fields.ofX _ 55 f _ rfl (by decide) (by decide) (fun _ _ _ _ => rfl)
theorem Fields.cpystg (f : RF) : Fields.Statement (.cpystg f) :=
  Fields.ofR _ 56 0 f _ rfl (by decide) (by decide) (by decide) (fun h _ _ => by have := stg_field f 0 _ rfl rfl (by decide) h; simp [ctorOf, fn38, this])
theorem Fields.cpystgRet (f : RF) : Fields.Statement (.cpystgRet f) :=
  Fields.ofR _ 56 0 f _ rfl (by decide) (by decide) (by decide) (fun h _ _ => by have := stg_field f 1 _ rfl rfl (by decide) h; simp [ctorOf, fn38, this])
theorem Fields.cpytst (f : RF) : Fields.Statement (.cpytst f) := Fields.ofR _ 56 1 f _ rfl (by decide) (by decide) (by decide) (fun _ _ _ => rfl)
theorem Fields.cpywt (f : RF) : Fields.Statement (.cpywt f) := Fields.ofR _ 56 2 f _ rfl (by decide) (by decide) (by decide) (fun _ _ _ => rfl)
theorem Fields.cpyq (f : RF) : Fields.Statement (.cpyq f) := Fields.ofR _ 56 3 f _ rfl (by decide) (by decide) (by decide) (fun _ _ _ => rfl)
theorem Fields.cpycnl (f : RF) : Fields.Statement (.cpycnl f) := Fields.ofR _ 56 4 f _ rfl (by decide) (by decide) (by decide) (fun _ _ _ => rfl)
theorem Fields.rput (f : XF) : Fields.Statement (.rput f) := Fields.ofX _ 58 f _ rfl (by decide) (by decide) (fun _ _ _ _ => rfl)
theorem Fields.rget (f : XF) : Fields.Statement (.rget f) := Fields.ofX _ 59 f _ rfl (by decide) (by decide) (fun _ _ _ _ => rfl)
theorem Fields.rred (f : XF) : Fields.Statement (.rred f) := Fields.ofX _ 60 f _ rfl (by decide) (by decide) (fun _ _ _ _ => rfl)
theorem Fields.rstv (f : RF) : Fields.Statement (.rstv f) := Fields.ofR _ 61 0 f _ rfl (by decide) (by decide) (by decide) (fun _ _ _ => rfl)
theorem Fields.rrcv (f : RF) : Fields.Statement (.rrcv f) := Fields.ofR _ 61 1 f _ rfl (by decide) (by decide) (by decide) (fun _ _ _ => rfl)
theorem Fields.name (f : RF) : Fields.Statement (.name f) := Fields.ofR _ 61 2 f _ rfl (by decide) (by decide) (by decide) (fun _ _ _ => rfl)
theorem Fields.rstat (f : RF) : Fields.Statement (.rstat f) := Fields.ofR _ 61 3 f _ rfl (by decide) (by decide) (by decide) (fun _ _ _ => rfl)
theorem Fields.meetEntryFree (pack : Nat) : Fields.Statement (.meetEntryFree pack) := by
  intro v h; cases h
theorem Fields.partialGangTimer (pack : Nat) : Fields.Statement (.partialGangTimer pack) := by
  intro v h; cases h
theorem Fields.heldSetExchange (entry : Nat) : Fields.Statement (.heldSetExchange entry) := by
  intro v h; cases h
theorem Fields.splitPromotion (entry : Nat) : Fields.Statement (.splitPromotion entry) := by
  intro v h; cases h
theorem Fields.binTimer (bin : Nat) : Fields.Statement (.binTimer bin) := by
  intro v h; cases h
theorem Fields.spawnRoom (slice : Nat) : Fields.Statement (.spawnRoom slice) := by
  intro v h; cases h
theorem Fields.tokenGrant (die : Nat) : Fields.Statement (.tokenGrant die) := by
  intro v h; cases h
theorem Fields.mmaEngineStart (quad : Nat) : Fields.Statement (.mmaEngineStart quad) := by
  intro v h; cases h
theorem Fields.mmaBlockEnd (quad : Nat) : Fields.Statement (.mmaBlockEnd quad) := by
  intro v h; cases h
theorem Fields.mmaResume (id : Nat) : Fields.Statement (.mmaResume id) := by
  intro v h; cases h
theorem Fields.mmaSuspend (id : Nat) : Fields.Statement (.mmaSuspend id) := by
  intro v h; cases h
theorem Fields.refillAccept (pack entry : Nat) : Fields.Statement (.refillAccept pack entry) := by
  intro v h; cases h
theorem Fields.copyQueueSpace (slice : Nat) : Fields.Statement (.copyQueueSpace slice) := by
  intro v h; cases h
theorem Fields.chunkStart (core queue : Nat) : Fields.Statement (.chunkStart core queue) := by
  intro v h; cases h
theorem Fields.copyQueueResume (core queue : Nat) : Fields.Statement (.copyQueueResume core queue) := by
  intro v h; cases h
theorem Fields.chunkEnd (core queue : Nat) : Fields.Statement (.chunkEnd core queue) := by
  intro v h; cases h
theorem Fields.copyComplete (core queue : Nat) : Fields.Statement (.copyComplete core queue) := by
  intro v h; cases h
theorem Fields.barrierWake (slice : Nat) : Fields.Statement (.barrierWake slice) := by
  intro v h; cases h
theorem Fields.groupPhaseComplete (launch group : Nat) : Fields.Statement (.groupPhaseComplete launch group) := by
  intro v h; cases h
theorem Fields.awaitWake (slice : Nat) : Fields.Statement (.awaitWake slice) := by
  intro v h; cases h
theorem Fields.awaitTimeout (slice : Nat) : Fields.Statement (.awaitTimeout slice) := by
  intro v h; cases h
theorem Fields.loadDataReturn (req : Nat) : Fields.Statement (.loadDataReturn req) := by
  intro v h; cases h
theorem Fields.homeRead (req : Nat) : Fields.Statement (.homeRead req) := by
  intro v h; cases h
theorem Fields.homeWrite (req : Nat) : Fields.Statement (.homeWrite req) := by
  intro v h; cases h
theorem Fields.storeAck (req : Nat) : Fields.Statement (.storeAck req) := by
  intro v h; cases h
theorem Fields.parkedReplay (req : Nat) : Fields.Statement (.parkedReplay req) := by
  intro v h; cases h
theorem Fields.migrationComplete (asid : Nat) (va : Nat) : Fields.Statement (.migrationComplete asid va) := by
  intro v h; cases h
theorem Fields.pageMove (asid : Nat) (va tier stack : Nat) : Fields.Statement (.pageMove asid va tier stack) := by
  intro v h; cases h
theorem Fields.wcBufferDrain (core : Nat) : Fields.Statement (.wcBufferDrain core) := by
  intro v h; cases h
theorem Fields.l2Writeback (line : Nat) : Fields.Statement (.l2Writeback line) := by
  intro v h; cases h
theorem Fields.clockTick (core : Nat) : Fields.Statement (.clockTick core) := by
  intro v h; cases h
theorem Fields.sweepComplete (die : Nat) : Fields.Statement (.sweepComplete die) := by
  intro v h; cases h
theorem Fields.fenceSpValidate (gang : Nat) : Fields.Statement (.fenceSpValidate gang) := by
  intro v h; cases h
theorem Fields.persistAccept (id : Nat) : Fields.Statement (.persistAccept id) := by
  intro v h; cases h
theorem Fields.epochClosedNotice (slice epoch opq : Nat) : Fields.Statement (.epochClosedNotice slice epoch opq) := by
  intro v h; cases h
theorem Fields.cxlSnoopInvalidation (hpa : Nat) (data : List Byte) : Fields.Statement (.cxlSnoopInvalidation hpa data) := by
  intro v h; cases h
theorem Fields.hostMemRead (pa size : Nat) : Fields.Statement (.hostMemRead pa size) := by
  intro v h; cases h
theorem Fields.hostMemWrite (pa : Nat) (data : List Byte) : Fields.Statement (.hostMemWrite pa data) := by
  intro v h; cases h
theorem Fields.cxlCompletionTimeout (req : Nat) : Fields.Statement (.cxlCompletionTimeout req) := by
  intro v h; cases h
theorem Fields.ideCheckFail : Fields.Statement (.ideCheckFail) := by
  intro v h; cases h
theorem Fields.ideKm : Fields.Statement (.ideKm) := by
  intro v h; cases h
theorem Fields.remoteAccessArrive (a : RemoteAccess) : Fields.Statement (.remoteAccessArrive a) := by
  intro v h; cases h
theorem Fields.remoteResponse (req rcode : Nat) (data : List Byte) : Fields.Statement (.remoteResponse req rcode data) := by
  intro v h; cases h
theorem Fields.remoteTimeout (req : Nat) : Fields.Statement (.remoteTimeout req) := by
  intro v h; cases h
theorem Fields.dropNotice (req : Nat) : Fields.Statement (.dropNotice req) := by
  intro v h; cases h
theorem Fields.bulkPacketArrive (p : BulkPacket) : Fields.Statement (.bulkPacketArrive p) := by
  intro v h; cases h
theorem Fields.bulkAck (op packet rcode : Nat) (data : List Byte) : Fields.Statement (.bulkAck op packet rcode data) := by
  intro v h; cases h
theorem Fields.messageArrive (m : Message) : Fields.Statement (.messageArrive m) := by
  intro v h; cases h
theorem Fields.linkTraining (port : Nat) : Fields.Statement (.linkTraining port) := by
  intro v h; cases h
theorem Fields.linkRekey (port : Nat) : Fields.Statement (.linkRekey port) := by
  intro v h; cases h
theorem Fields.linkDown (port : Nat) : Fields.Statement (.linkDown port) := by
  intro v h; cases h
theorem Fields.packDispatch (launch core : Nat) : Fields.Statement (.packDispatch launch core) := by
  intro v h; cases h
theorem Fields.launchComplete (launch : Nat) : Fields.Statement (.launchComplete launch) := by
  intro v h; cases h
theorem Fields.drainPreemption (launch : Nat) : Fields.Statement (.drainPreemption launch) := by
  intro v h; cases h
theorem Fields.hardPreemption (launch : Nat) : Fields.Statement (.hardPreemption launch) := by
  intro v h; cases h
theorem Fields.packRestore (pack core slot : Nat) : Fields.Statement (.packRestore pack core slot) := by
  intro v h; cases h
theorem Fields.sundeshThreadWake (queue : Nat) : Fields.Statement (.sundeshThreadWake queue) := by
  intro v h; cases h
theorem Fields.waitTimeout (queue : Nat) : Fields.Statement (.waitTimeout queue) := by
  intro v h; cases h
theorem Fields.queueRotation (out into : Nat) : Fields.Statement (.queueRotation out into) := by
  intro v h; cases h
theorem Fields.poolUpdate (die : Nat) : Fields.Statement (.poolUpdate die) := by
  intro v h; cases h
theorem Fields.telemetryRefresh : Fields.Statement (.telemetryRefresh) := by
  intro v h; cases h
theorem Fields.railOvercurrent : Fields.Statement (.railOvercurrent) := by
  intro v h; cases h
theorem Fields.clockStepUp : Fields.Statement (.clockStepUp) := by
  intro v h; cases h
theorem Fields.junctionOver105 (die : Nat) : Fields.Statement (.junctionOver105 die) := by
  intro v h; cases h
theorem Fields.thermalTrip : Fields.Statement (.thermalTrip) := by
  intro v h; cases h
theorem Fields.powerLoss : Fields.Statement (.powerLoss) := by
  intro v h; cases h
theorem Fields.powerOn : Fields.Statement (.powerOn) := by
  intro v h; cases h
theorem Fields.bringupStage : Fields.Statement (.bringupStage) := by
  intro v h; cases h
theorem Fields.poisonRecheck (line : Nat) : Fields.Statement (.poisonRecheck line) := by
  intro v h; cases h
theorem Fields.uncontainableError : Fields.Statement (.uncontainableError) := by
  intro v h; cases h
theorem Fields.settPageCopy (asid : Nat) (va : Nat) : Fields.Statement (.settPageCopy asid va) := by
  intro v h; cases h
theorem Fields.snapshotComplete (asid : Nat) : Fields.Statement (.snapshotComplete asid) := by
  intro v h; cases h
theorem Fields.parityFold (asid : Nat) (desc : Nat) : Fields.Statement (.parityFold asid desc) := by
  intro v h; cases h
theorem Fields.rebuildDone (asid : Nat) : Fields.Statement (.rebuildDone asid) := by
  intro v h; cases h
theorem Fields.heartbeatTimeout : Fields.Statement (.heartbeatTimeout) := by
  intro v h; cases h
theorem Fields.doorbell (queue count : Nat) : Fields.Statement (.doorbell queue count) := by
  intro v h; cases h
theorem Fields.warmReset : Fields.Statement (.warmReset) := by
  intro v h; cases h
theorem Fields.plimWrite (value : Nat) : Fields.Statement (.plimWrite value) := by
  intro v h; cases h
theorem Fields.hostRegisterWrite (offset value : Nat) : Fields.Statement (.hostRegisterWrite offset value) := by
  intro v h; cases h
theorem Fields.qreg (queue va : Nat) : Fields.Statement (.qreg queue va) := by
  intro v h; cases h
theorem Fields.qunreg (queue : Nat) : Fields.Statement (.qunreg queue) := by
  intro v h; cases h
theorem Fields.qresume (queue : Nat) : Fields.Statement (.qresume queue) := by
  intro v h; cases h
theorem Fields.preempt (queue mode : Nat) : Fields.Statement (.preempt queue mode) := by
  intro v h; cases h
theorem Fields.fwstage (slot va : Nat) : Fields.Statement (.fwstage slot va) := by
  intro v h; cases h
theorem Fields.fwact (expected : Nat) : Fields.Statement (.fwact expected) := by
  intro v h; cases h
theorem Fields.dbgstate (queue name va : Nat) : Fields.Statement (.dbgstate queue name va) := by
  intro v h; cases h
theorem Fields.dbgwrite (queue name va : Nat) : Fields.Statement (.dbgwrite queue name va) := by
  intro v h; cases h
theorem Fields.dbgresume (queue name : Nat) : Fields.Statement (.dbgresume queue name) := by
  intro v h; cases h
theorem Fields.nopPacket (queue index : Nat) : Fields.Statement (.nopPacket queue index) := by
  intro v h; cases h
theorem Fields.launch (queue index : Nat) : Fields.Statement (.launch queue index) := by
  intro v h; cases h
theorem Fields.graphSeal (queue index : Nat) : Fields.Statement (.graphSeal queue index) := by
  intro v h; cases h
theorem Fields.graphLaunch (queue index : Nat) : Fields.Statement (.graphLaunch queue index) := by
  intro v h; cases h
theorem Fields.wait (queue index : Nat) : Fields.Statement (.wait queue index) := by
  intro v h; cases h
theorem Fields.signalWrite (queue index : Nat) : Fields.Statement (.signalWrite queue index) := by
  intro v h; cases h
theorem Fields.signalAdd (queue index : Nat) : Fields.Statement (.signalAdd queue index) := by
  intro v h; cases h
theorem Fields.barrier (queue index : Nat) : Fields.Statement (.barrier queue index) := by
  intro v h; cases h
theorem Fields.mapRoot (queue index : Nat) : Fields.Statement (.mapRoot queue index) := by
  intro v h; cases h
theorem Fields.mapSync (queue index : Nat) : Fields.Statement (.mapSync queue index) := by
  intro v h; cases h
theorem Fields.dspalloc (queue index : Nat) : Fields.Statement (.dspalloc queue index) := by
  intro v h; cases h
theorem Fields.dspfree (queue index : Nat) : Fields.Statement (.dspfree queue index) := by
  intro v h; cases h
theorem Fields.migreg (queue index : Nat) : Fields.Statement (.migreg queue index) := by
  intro v h; cases h
theorem Fields.mcgroup (queue index : Nat) : Fields.Statement (.mcgroup queue index) := by
  intro v h; cases h
theorem Fields.mcfree (queue index : Nat) : Fields.Statement (.mcfree queue index) := by
  intro v h; cases h
theorem Fields.unmap (queue index : Nat) : Fields.Statement (.unmap queue index) := by
  intro v h; cases h
theorem Fields.bias (queue index : Nat) : Fields.Statement (.bias queue index) := by
  intro v h; cases h
theorem Fields.cap (queue index : Nat) : Fields.Statement (.cap queue index) := by
  intro v h; cases h
theorem Fields.step (queue index : Nat) : Fields.Statement (.step queue index) := by
  intro v h; cases h
theorem Fields.snapregionAdd (queue index : Nat) : Fields.Statement (.snapregionAdd queue index) := by
  intro v h; cases h
theorem Fields.snapregionRemove (queue index : Nat) : Fields.Statement (.snapregionRemove queue index) := by
  intro v h; cases h
theorem Fields.rebuild (queue index : Nat) : Fields.Statement (.rebuild queue index) := by
  intro v h; cases h
theorem Fields.persist (queue index : Nat) : Fields.Statement (.persist queue index) := by
  intro v h; cases h
theorem Fields.attest (queue index : Nat) : Fields.Statement (.attest queue index) := by
  intro v h; cases h
theorem Fields.getVersion : Fields.Statement (.getVersion) := by
  intro v h; cases h
theorem Fields.getCapabilities : Fields.Statement (.getCapabilities) := by
  intro v h; cases h
theorem Fields.negotiateAlgorithms : Fields.Statement (.negotiateAlgorithms) := by
  intro v h; cases h
theorem Fields.getDigests : Fields.Statement (.getDigests) := by
  intro v h; cases h
theorem Fields.getCertificate (slot : Nat) : Fields.Statement (.getCertificate slot) := by
  intro v h; cases h
theorem Fields.challenge (nonce : Nat) : Fields.Statement (.challenge nonce) := by
  intro v h; cases h
theorem Fields.getMeasurements (index : Nat) : Fields.Statement (.getMeasurements index) := by
  intro v h; cases h
theorem Fields.keyExchange : Fields.Statement (.keyExchange) := by
  intro v h; cases h
theorem Fields.finish : Fields.Statement (.finish) := by
  intro v h; cases h
theorem Fields.endSession : Fields.Statement (.endSession) := by
  intro v h; cases h
theorem Fields.keyset (slot : Nat) (key : BitVec 256) : Fields.Statement (.keyset slot key) := by
  intro v h; cases h
theorem Fields.keyrevoke (slot : Nat) : Fields.Statement (.keyrevoke slot) := by
  intro v h; cases h
theorem Fields.opqDrain (die : Nat) : Fields.Statement (.opqDrain die) := by
  intro v h; cases h
theorem Fields.leaseCopyEviction (copy : Nat) : Fields.Statement (.leaseCopyEviction copy) := by
  intro v h; cases h

end Sys2Proof.Laws
end

