-- ==== Sys2Proof/Laws/Requests.lean ====
section
/-! SUPPORT. Requests: one that a step makes is there after it. -/
namespace Sys2Proof

open Machine

/-- The numbers of requests are below the next one, and their map is canonical. -/
theorem canon_coh (s : State) (h : s.canon = true) : s.coh.wf = true := by
  simp only [State.canon, Bool.and_eq_true] at h
  exact h.1.1.1.1.2

theorem canon_reqs (s : State) (h : s.canon = true) : Sparse.wf none s.coh.reqs = true := by
  have h := canon_coh s h
  simp only [Coh.wf, Bool.and_eq_true] at h
  exact h.1.1.2

/-- A change leaves a request as it is, unless it names it, and numbers only grow. -/
theorem apply_req (s : State) (a : Machine.Act) (id : Nat) (h : s.canon = true) (hc : a ≠ .coldStart) (hs : ∀ r, a ≠ .setReq id r) (hid : id < s.coh.nextReq) :
    (a.apply s).req id = s.req id ∧ s.coh.nextReq ≤ (a.apply s).coh.nextReq := by
  by_cases hp : Field.coh ∈ a.parts
  · cases a <;> first | (simp [Act.parts] at hp; done) | exact ⟨rfl, Nat.le_refl _⟩ | skip
    case addReq r =>
      refine ⟨?_, Nat.le_succ _⟩
      show Sparse.get none (Sparse.set none s.coh.reqs s.coh.nextReq (some r)) id = _
      exact Sparse.get_set_other _ _ _ _ _ (canon_reqs s h) (by omega)
    case setReq k r =>
      simp only [Act.apply]
      split
      · exact ⟨Sparse.get_set_other _ _ _ _ _ (canon_reqs s h) (fun e => hs r (by rw [e])), Nat.le_refl _⟩
      · exact ⟨rfl, Nat.le_refl _⟩
    case coldStart => exact absurd rfl hc
    case agentClock k t =>
      simp only [Act.apply]
      split <;> exact ⟨rfl, Nat.le_refl _⟩
  · have := Act.keeps_coh s a hp
    constructor
    · unfold State.req; rw [this]
    · exact Nat.le_of_eq (by rw [this])

/-- A request below the numbers a list of changes names stays as it is. -/
theorem applyAll_req (s : State) (es : List Eff) (n id : Nat) (h : s.canon = true) (hc : ∀ e ∈ es, e.2 ≠ .coldStart) (hs : ∀ e ∈ es, ∀ k r, e.2 = .setReq k r → k < n) (hn : n ≤ id) (hid : id < s.coh.nextReq) :
    (applyAll s es).req id = s.req id := by
  induction es generalizing s with
  | nil => rfl
  | cons e es ih =>
    have h1 := apply_req s e.2 id h (hc e List.mem_cons_self) (fun r hr => by have := hs e List.mem_cons_self id r hr; omega) hid
    show (applyAll (e.2.apply s) es).req id = _
    rw [ih _ (Act.canon_apply s e.2 h) (fun e' he => hc e' (List.mem_cons_of_mem _ he)) (fun e' he => hs e' (List.mem_cons_of_mem _ he)) (by omega), h1.1]

/-- A request that is made is there after the step, when the step names only requests that were there before. -/
theorem commit_asks (s : State) (es : List Eff) (r : Req) (x : Option Nat) (h : s.canon = true) (hc : ∀ e ∈ es, e.2 ≠ .coldStart) (hs : ∀ e ∈ es, ∀ k q, e.2 = .setReq k q → k < s.coh.nextReq)
    (hr : (x, Machine.Act.addReq r) ∈ es) : Asks s (commit s es) r := by
  obtain ⟨as, bs, rfl⟩ := List.append_of_mem hr
  have hca : (applyAll s as).canon = true := canon_applyAll s as h
  have hmono : ∀ (l : List Eff) (u : State), u.canon = true → (∀ e ∈ l, e.2 ≠ .coldStart) → u.coh.nextReq ≤ (applyAll u l).coh.nextReq := by
    intro l
    induction l with
    | nil => intro u _ _; exact Nat.le_refl _
    | cons e l ih =>
      intro u hu he
      have h1 : u.coh.nextReq ≤ (e.2.apply u).coh.nextReq := by
        by_cases hp : Field.coh ∈ e.2.parts
        · have hne := he e List.mem_cons_self
          generalize e.2 = a at hp hne
          cases a <;> first | (simp [Act.parts] at hp; done) | exact Nat.le_refl _ | exact Nat.le_succ _ | skip
          case setReq k q => simp only [Act.apply]; split <;> exact Nat.le_refl _
          case coldStart => exact absurd rfl hne
          case agentClock k t => simp only [Act.apply]; split <;> exact Nat.le_refl _
        · exact Nat.le_of_eq (by rw [Act.keeps_coh u e.2 hp])
      exact Nat.le_trans h1 (ih _ (Act.canon_apply u e.2 hu) (fun e' he' => he e' (List.mem_cons_of_mem _ he')))
  have hn := hmono as s h (fun e he => hc e (List.mem_append_left _ he))
  refine ⟨(applyAll s as).coh.nextReq, hn, ?_⟩
  show (applyAll s (as ++ (x, Machine.Act.addReq r) :: bs)).req _ = _
  have e1 : applyAll s (as ++ (x, Machine.Act.addReq r) :: bs) = applyAll ((Machine.Act.addReq r).apply (applyAll s as)) bs := by
    unfold applyAll; rw [List.foldl_append]; rfl
  rw [e1, applyAll_req _ bs (applyAll s as).coh.nextReq _ (Act.canon_apply _ _ hca) (fun e he => hc e (List.mem_append_right _ (List.mem_cons_of_mem _ he)))
    (fun e he k q hk => Nat.lt_of_lt_of_le (hs e (List.mem_append_right _ (List.mem_cons_of_mem _ he)) k q hk) hn) (Nat.le_refl _) (Nat.lt_succ_self _)]
  show Sparse.get none (Sparse.set none (applyAll s as).coh.reqs (applyAll s as).coh.nextReq (some r)) (applyAll s as).coh.nextReq = _
  exact Sparse.get_set_same _ _ _ _ (canon_reqs _ hca)

end Sys2Proof
end

