-- ==== Sys2Proof/Tests/Slice0.lean ====
section
/-! SUPPORT. The model's own tests: words written out from the encodings, terms that are not well-formed, and for every statement of Certificates/Slice0/Obligations.lean states and operands that meet its hypotheses. -/
namespace Sys2Proof.Tests
open Machine
set_option Elab.async false

/-- The one slice of withFetchWord issues the first word of VA 0. -/
def tC : Cur := { entry := 0, slices := [128], pkt := 0, word := 0, nextPkt := 0, nextWord := 1, firstPkt := 0, firstWord := 0 }
/-- withFetchWord's state while that word issues, with a trap handler. -/
def tS : State :=
  let s := State.reset.withFetchWord 32 0
  { s with run := { s.run with cur := some tC }, ctl := { s.ctl with packs := s.ctl.packs.map (fun e => (e.1, { e.2 with handler := 24 })) } }
/-- tS after some changes. -/
def tWith (as : List Act) : State := { tS.actAll as with log := [] }
/-- The view of an instruction word. -/
def tV (i : Instr) : View := match view i with
  | .word v => v
  | _ => { op := 0, fn := 0, c := false, d := 0, a := 0, b := 0, t := false, la := 0, pg := 0, off := 0, word := 0, form := { mask := 0, bits := 0, pipe := .ctl, ext := .no, d := .non, a := .non, b := .non, t := false } }
/-- Fields of an R-format word without chain, transience or guard. -/
def tR (d a b : BitVec 6) : RF := ⟨false, d, a, b, false, 0⟩
/-- Fields of an X-format word. -/
def tX (d a b : BitVec 6) (la : BitVec 4) : XF := ⟨false, d, a, b, la, 0⟩

/-- The next state of an instruction. -/
def tNext (i : Instr) (s : State) : State := match exec i s with
  | .next t => t
  | _ => s
/-- Effects without a trap. -/
theorem no_trap (es : List Eff) (h : es.all (fun e => match e.2 with
    | .trap _ _ => false
    | _ => true) = true) : ∀ e ∈ es, ∀ x tr, e.2 ≠ .trap x tr := by
  intro e he x tr hx
  have := List.all_eq_true.mp h e he
  rw [hx] at this
  simp at this
/-- A pack without a debugger. -/
theorem unwatched (s : State) (sl : Nat) (h : (s.packOf sl).debug = none) : Unwatched s sl := fun d hd => by rw [h] at hd; cases hd
/-- Registers 3 to 6 of every lane hold distinct words, predicate 2 holds in lanes 1 and 3, and index register 1 names element 250 of window 2. -/
def tW : State := tWith ((List.range 4).flatMap (fun l => .idx (laneKey 128 l) 1 0x80FA :: .pred (laneKey 128 l) 2 (l % 2 = 1) :: [3, 4, 5, 6].map (fun r => .reg (laneKey 128 l) r (BitVec.ofNat 32 (l * 1000 + r * 7)) false)))

/-- What holds of the first of some lanes. -/
theorem first_lane {P : Nat → Prop} (ls : List Nat) (a : Nat) (h : ls.head? = some a) (hp : P a) : ∀ l, ls.head? = some l → P l := by
  intro l hl; rw [h] at hl; cases hl; exact hp
/-- What holds of the one slice of tC. -/
theorem one_slice {P : Nat → Prop} (h : P 128) : ∀ x ∈ tC.slices, P x := by
  intro x hx; obtain rfl := List.mem_singleton.mp hx; exact h
/-- An answer with a value that passes a test. -/
def okWith {ε α : Type} (r : Except ε α) (p : α → Bool) : Bool := match r with
  | .ok x => p x
  | .error _ => false
theorem ok_of {ε α : Type} {r : Except ε α} {p : α → Bool} (h : okWith r p = true) : ∃ a, r = .ok a ∧ p a = true := by
  cases r with
  | error e => cases h
  | ok a => exact ⟨a, rfl, h⟩
theorem ok_is {ε α : Type} [DecidableEq α] {r : Except ε α} {a : α} (h : okWith r (fun x => decide (x = a)) = true) : r = .ok a := by
  obtain ⟨x, rfl, hx⟩ := ok_of h; rw [of_decide_eq_true hx]
theorem ok_some {ε α : Type} {r : Except ε (Option α)} (h : okWith r (fun x => x.isSome) = true) : ∃ a, r = .ok (some a) := by
  obtain ⟨x, rfl, hx⟩ := ok_of h; cases x with
  | none => cases hx
  | some a => exact ⟨a, rfl⟩
theorem ok_three {ε γ : Type} {r : Except ε (Option (Nat × Nat × γ))} (p : Nat → Nat → Bool) (h : okWith r (fun o => o.any (fun x => p x.1 x.2.1)) = true) :
    ∃ a b c, r = .ok (some (a, b, c)) ∧ p a b = true := by
  obtain ⟨x, rfl, hx⟩ := ok_of h; cases x with
  | none => cases hx
  | some y => exact ⟨y.1, y.2.1, y.2.2, rfl, hx⟩
/-- A window access whose page is there, and whose write is let through. -/
theorem stack_there {s : State} {sl l o n field : Nat} {write : Bool} (h : (stackPage s sl l o n write).isSome = true)
    (hw : write = true → ((stackPage s sl l o n write).all (fun e => okWith (s.writeTest sl field (.window e.1 e.2)) (fun t => decide (t = .window e.1 e.2)))) = true) : StackThere s sl l o n field write := by
  obtain ⟨e, he⟩ := Option.isSome_iff_exists.mp h
  refine ⟨e.1, e.2, he, fun w => ok_is ?_⟩
  have := hw w
  rw [he] at this
  exact this
/-- tS in handler mode, to resume at word 1 of packet 36 with RPL set for lanes 0 and 2. -/
def tH : State := tWith [.slice 128 (.trapcause 0x80030000), .slice 128 (.trappc 36), .slice 128 (.trapregs 0 5)]
/-- Two slices of one split, of which the second holds predicate 2. -/
def tC2 : Cur := { tC with slices := [128, 129] }
def tS2 : State :=
  { tWith [.pred (laneKey 129 0) 2 true] with
    run := { tS.run with cur := some tC2 }
    ctl := { tS.ctl with
      slices := [(128, { here := true, live := 15, sptop := 4096 }), (129, { here := true, sid := 1, gslot := 1, live := 15, sptop := 4096 })]
      splits := [(0, { slices := [128, 129], gang := 128 })]
      packs := tS.ctl.packs.map (fun e => (e.1, { e.2 with nsl := 2, quota := [2, 0, 0, 0] })) } }

theorem ok_ex {ε α : Type} {r : Except ε α} (h : okWith r (fun _ => true) = true) : ∃ a, r = .ok a := by
  obtain ⟨x, rfl, _⟩ := ok_of h; exact ⟨x, rfl⟩
theorem err_is {ε α : Type} [DecidableEq ε] {r : Except ε α} {e : ε} (h : (match r with
    | .ok _ => false
    | .error x => decide (x = e)) = true) : r = .error e := by
  cases r with
  | ok a => cases h
  | error x => rw [of_decide_eq_true h]
/-- tW with four pages: VA 0, a page that is not resident at 2 MiB, one without A and D at 4 MiB, and one of SCM at 6 MiB, and with die scratchpad block 0. Lane l's pair v2, v3 names, in lane order, VA 64, the window's first byte, 2 MiB, and 8 bytes into 4 MiB; v12 is 65532, v13 is 4092, v14 is 65533. -/
def tM : State :=
  let s := tW.actAll ([.store 0x401008 (leBytes 8 (0xC1 + 0xA00000 + 2 ^ 60)) 0, .store 0x401010 (leBytes 8 (0xC3 + 0x1000000 + 2 ^ 60)) 0, .store 0x401018 (leBytes 8 (0xCC7 + 0x200000 + 2 ^ 60)) 0,
      .store (scratchKey 1 65528) (leBytes 8 0x8182838485868788) 0, .store 0x900FF8 (leBytes 8 0x9192939495969798) 0]
    ++ [(0, 64), (1, dspBase), (2, 2 ^ 21), (3, 2 ^ 22 + 8)].flatMap (fun e => [.reg (laneKey 128 e.1) 2 (BitVec.ofNat 32 e.2) false, .reg (laneKey 128 e.1) 3 (BitVec.ofNat 32 (e.2 / 2 ^ 32)) false,
      .reg (laneKey 128 e.1) 12 65532 false, (.reg (laneKey 128 e.1) 13 4092 false), .reg (laneKey 128 e.1) 14 65533 false]))
  { s with log := [], maps := { s.maps with blocks := [(0, 3)], handles := [(0xA0, some (0, 0xA0))], frames := [(0, (List.range 32).map (fun i => 0xC0 + i))] } }

/-- tC after an EXT word, and a state in which that word issues. -/
def tCe (p : Nat) : Cur := { tC with ext := some (BitVec.ofNat 25 p) }
def tExt (s : State) (p : Nat) : State := { s with run := { s.run with cur := some (tCe p) } }
/-- Some words in consecutive registers of every lane. -/
def tBlock (r : Nat) (ws : List Nat) : List Act := [0, 1, 2, 3].flatMap (fun l => ws.zipIdx.map (fun w => .reg (laneKey 128 l) (r + w.2) (BitVec.ofNat 32 w.1) false))

/-- The bytes of n-byte text from (offset, value) fields. -/
def tRaw (n : Nat) (fs : List (Nat × Nat)) : List Byte := leBytes n ((fs.map (fun f => f.2 * 2 ^ (8 * f.1))).foldl (· + ·) 0)
/-- A registered queue of tenant a with one packet in its ring, whose descriptor and ring are host physical memory where the tenant has no page table, and VA 0x2000 of a page table as tM's where it is tenant 1. -/
def tQueue (a door : Nat) : Queue := { here := true, desc := 0x1000, ring := 0x2000, asid := a, door := door, mapped := true }
def tPkt2 (a : Nat) (fs : List (Nat × Nat)) : Packet := { queue := 0, index := 0, asid := a, gen := 0, raw := tRaw 64 fs }
def tRing (a : Nat) (fs : List (Nat × Nat)) : State :=
  { State.reset with
    mem := if a = 1 then (((demoMem {} []).write 0x401008 0 (leBytes 8 (0xC1 + 0xA00000 + 2 ^ 60))).write 0x401010 0 (leBytes 8 (0xC3 + 0x1000000 + 2 ^ 60))).write 0x802000 0 (tRaw 64 fs) else ({} : Mem).write (hostBase + 0x2000) 0 (tRaw 64 fs)
    maps := { roots := [(1, some demoRoot)], blocks := [(0, 3)], handles := [(0xA0, some (0, 0xA0))], frames := [(0, (List.range 32).map (fun i => 0xC0 + i))] }
    sun := { queues := [(0, tQueue a 1)] }
    dev := { State.reset.dev with ready := true } }
/-- The acts of reading the packet of queue 0. -/
def tAs (s : State) : List Act := ((s.startable 0 0).map (fun x => x.2)).getD []

/-- A read that answers bytes that pass a test. -/
def gotWith (r : Got) (p : List Byte → Bool) : Bool := match r with
  | .ok bs _ => p bs
  | _ => false
theorem got_of {r : Got} {p : List Byte → Bool} (h : gotWith r p = true) : ∃ bs as, r = .ok bs as ∧ p bs = true := by
  cases r with
  | ok bs as => exact ⟨bs, as, rfl, h⟩
  | wait va => cases h
  | bad => cases h
theorem got_nil {r : Got} (h : gotWith r (fun bs => bs.isEmpty) = true) : ∃ as, r = .ok [] as := by
  obtain ⟨bs, as, rfl, hp⟩ := got_of h
  exact ⟨as, by rw [List.isEmpty_iff.mp hp]⟩

/-- Each word decodes to the instruction beside it. -/
def decodesTo (xs : List (Word × Instr)) : Bool := xs.all (fun e => match decode e.1 with
  | .ok i => decide (i = e.2)
  | .error _ => false)

/-! ### Decoding: a word of every instruction, written out from the opcode table and the formats of 02_encoding (R28) -/

theorem test_words_nop_to_jmpr : decodesTo [
    (0b0_000000_000000_000000_000000_000_0_001#32, .nop ⟨false, 0, 0, 0, false, 1⟩),
    (0b1_000000_000000_000000_011000_001_0_010#32, .bkpt ⟨true, 0, 0, 24, false, 2⟩),
    (0b0_000000_000000_000000_000000_010_0_011#32, .yield ⟨false, 0, 0, 0, false, 3⟩),
    (0b1_000000_000000_000000_000000_011_0_100#32, .exit ⟨true, 0, 0, 0, false, 4⟩),
    (0b0_000000_000000_000000_011000_100_0_101#32, .trap ⟨false, 0, 0, 24, false, 5⟩),
    (0b1_000000_000000_000000_000000_101_0_000#32, .rtt ⟨true, 0, 0, 0, false, 0⟩),
    (0b0_000000_001000_010000_000000_110_0_111#32, .srd ⟨false, 8, 16, 0, false, 7⟩),
    (0b1_000000_000000_010000_011000_111_0_001#32, .swr ⟨true, 0, 16, 24, false, 1⟩),
    (0b0_000001_1111110000000000000101_010#32, .brAny ⟨false, 4128773, 2⟩),
    (0b1_000010_1111110000000000000101_011#32, .brAll ⟨true, 4128773, 3⟩),
    (0b0_000011_1111110000000000000101_100#32, .call ⟨false, 4128773, 4⟩),
    (0b1_000100_000000_010000_000000_000_0_101#32, .jmpr ⟨true, 0, 16, 0, false, 5⟩)
  ] = true := by decide +kernel
theorem test_words_callr_to_voteAll : decodesTo [
    (0b0_000100_000000_010000_000000_001_0_110#32, .callr ⟨false, 0, 16, 0, false, 6⟩),
    (0b1_000100_000000_000000_000000_010_0_111#32, .ret ⟨true, 0, 0, 0, false, 7⟩),
    (0b0_000100_000000_000001_011000_011_0_000#32, .regang ⟨false, 0, 1, 24, false, 0⟩),
    (0b1_000100_001000_000001_011000_100_0_010#32, .spawn ⟨true, 8, 1, 24, false, 2⟩),
    (0b0_000100_001000_000000_011000_101_0_011#32, .spill ⟨false, 8, 0, 24, false, 3⟩),
    (0b1_000100_001000_000000_011000_110_0_100#32, .fill ⟨true, 8, 0, 24, false, 4⟩),
    (0b0_000101_000101_000110_000011_000_0_101#32, .pand ⟨false, 5, 6, 3, false, 5⟩),
    (0b1_000101_000101_000110_000011_001_0_110#32, .por ⟨true, 5, 6, 3, false, 6⟩),
    (0b0_000101_000101_000110_000011_010_0_111#32, .pxor ⟨false, 5, 6, 3, false, 7⟩),
    (0b1_000101_000101_000110_000000_011_0_001#32, .pnot ⟨true, 5, 6, 0, false, 1⟩),
    (0b0_000101_000101_000110_000000_100_0_010#32, .voteAny ⟨false, 5, 6, 0, false, 2⟩),
    (0b1_000101_000101_000110_000000_101_0_011#32, .voteAll ⟨true, 5, 6, 0, false, 3⟩)
  ] = true := by decide +kernel
theorem test_words_ballot_to_isub : decodesTo [
    (0b0_000101_001000_000110_000000_110_0_100#32, .ballot ⟨false, 8, 6, 0, false, 4⟩),
    (0b1_000101_000101_010000_000000_111_0_101#32, .pmov ⟨true, 5, 16, 0, false, 5⟩),
    (0b0_000110_001000_010000_011000_000_0_110#32, .shflIdx ⟨false, 8, 16, 24, false, 6⟩),
    (0b1_000110_001000_010000_011000_001_0_111#32, .shflUp ⟨true, 8, 16, 24, false, 7⟩),
    (0b0_000110_001000_010000_011000_010_0_001#32, .shflDown ⟨false, 8, 16, 24, false, 1⟩),
    (0b1_000110_001000_010000_011000_011_0_010#32, .shflXor ⟨true, 8, 16, 24, false, 2⟩),
    (0b0_000110_001000_010000_011000_100_0_011#32, .lswz ⟨false, 8, 16, 24, false, 3⟩),
    (0b1_000110_001000_010000_000000_101_0_100#32, .gredIadd ⟨true, 8, 16, 0, false, 4⟩),
    (0b0_000110_001000_010000_000000_110_0_101#32, .gredFmax ⟨false, 8, 16, 0, false, 5⟩),
    (0b1_000110_001000_010000_000000_111_0_110#32, .gscanIadd ⟨true, 8, 16, 0, false, 6⟩),
    (0b0_001000_001000_010000_011000_000_0_111#32, .iadd ⟨false, 8, 16, 24, false, 7⟩),
    (0b1_001000_001000_010000_011000_001_0_001#32, .isub ⟨true, 8, 16, 24, false, 1⟩)
  ] = true := by decide +kernel
theorem test_words_imul_to_isub64 : decodesTo [
    (0b0_001000_001000_010000_011000_010_0_010#32, .imul ⟨false, 8, 16, 24, false, 2⟩),
    (0b1_001000_001000_010000_011000_011_0_011#32, .imulhI ⟨true, 8, 16, 24, false, 3⟩),
    (0b0_001000_001000_010000_011000_100_0_100#32, .imulhN ⟨false, 8, 16, 24, false, 4⟩),
    (0b1_001000_001000_010000_000000_101_0_101#32, .ineg ⟨true, 8, 16, 0, false, 5⟩),
    (0b0_001000_001000_010000_000000_110_0_110#32, .iabs ⟨false, 8, 16, 0, false, 6⟩),
    (0b1_001000_001000_010000_011000_111_0_111#32, .iaddSat ⟨true, 8, 16, 24, false, 7⟩),
    (0b0_001001_001000_010000_011000_000_0_001#32, .iminI ⟨false, 8, 16, 24, false, 1⟩),
    (0b1_001001_001000_010000_011000_001_0_010#32, .iminN ⟨true, 8, 16, 24, false, 2⟩),
    (0b0_001001_001000_010000_011000_010_0_011#32, .imaxI ⟨false, 8, 16, 24, false, 3⟩),
    (0b1_001001_001000_010000_011000_011_0_100#32, .imaxN ⟨true, 8, 16, 24, false, 4⟩),
    (0b0_001001_001000_010000_011000_100_0_101#32, .iadd64 ⟨false, 8, 16, 24, false, 5⟩),
    (0b1_001001_001000_010000_011000_101_0_110#32, .isub64 ⟨true, 8, 16, 24, false, 6⟩)
  ] = true := by decide +kernel
theorem test_words_lea_to_or : decodesTo [
    (0b0_001001_001000_010000_011000_110_0_111#32, .lea ⟨false, 8, 16, 24, false, 7⟩),
    (0b1_001001_001000_010000_011000_111_0_001#32, .isubSat ⟨true, 8, 16, 24, false, 1⟩),
    (0b0_001010_001000_010000_011000_000_0_010#32, .imad ⟨false, 8, 16, 24, false, 2⟩),
    (0b1_001010_001000_010000_011000_001_0_011#32, .imadwI ⟨true, 8, 16, 24, false, 3⟩),
    (0b0_001010_001000_010000_011000_010_0_100#32, .imadwN ⟨false, 8, 16, 24, false, 4⟩),
    (0b1_001010_001000_010000_011000_011_0_101#32, .iaccw ⟨true, 8, 16, 24, false, 5⟩),
    (0b0_001010_001000_010000_011000_100_0_110#32, .idot4I8 ⟨false, 8, 16, 24, false, 6⟩),
    (0b1_001010_001000_010000_011000_101_0_111#32, .idot4N8 ⟨true, 8, 16, 24, false, 7⟩),
    (0b0_001010_001000_010000_011000_110_0_001#32, .idot2I16 ⟨false, 8, 16, 24, false, 1⟩),
    (0b1_001010_001000_010000_011000_111_0_010#32, .isad ⟨true, 8, 16, 24, false, 2⟩),
    (0b0_001011_001000_010000_011000_000_0_011#32, .and ⟨false, 8, 16, 24, false, 3⟩),
    (0b1_001011_001000_010000_011000_001_0_100#32, .or ⟨true, 8, 16, 24, false, 4⟩)
  ] = true := by decide +kernel
theorem test_words_xor_to_shl64 : decodesTo [
    (0b0_001011_001000_010000_011000_010_0_101#32, .xor ⟨false, 8, 16, 24, false, 5⟩),
    (0b1_001011_001000_010000_011000_011_0_110#32, .andn ⟨true, 8, 16, 24, false, 6⟩),
    (0b0_001011_001000_010000_011000_100_0_111#32, .orn ⟨false, 8, 16, 24, false, 7⟩),
    (0b1_001011_001000_010000_000000_101_0_001#32, .not ⟨true, 8, 16, 0, false, 1⟩),
    (0b0_001011_001000_000000_011000_110_0_010#32, .mov ⟨false, 8, 0, 24, false, 2⟩),
    (0b1_001011_001000_010000_011000_111_0_011#32, .sel ⟨true, 8, 16, 24, false, 3⟩),
    (0b0_001100_001000_010000_011000_000_0_100#32, .shl ⟨false, 8, 16, 24, false, 4⟩),
    (0b1_001100_001000_010000_011000_001_0_101#32, .shr ⟨true, 8, 16, 24, false, 5⟩),
    (0b0_001100_001000_010000_011000_010_0_110#32, .sar ⟨false, 8, 16, 24, false, 6⟩),
    (0b1_001100_001000_010000_011000_011_0_111#32, .rol ⟨true, 8, 16, 24, false, 7⟩),
    (0b0_001100_001000_010000_011000_100_0_001#32, .ror ⟨false, 8, 16, 24, false, 1⟩),
    (0b1_001100_001000_010000_011000_101_0_010#32, .shl64 ⟨true, 8, 16, 24, false, 2⟩)
  ] = true := by decide +kernel
theorem test_words_shr64_to_isetNe : decodesTo [
    (0b0_001100_001000_010000_011000_110_0_011#32, .shr64 ⟨false, 8, 16, 24, false, 3⟩),
    (0b1_001100_001000_010000_011000_111_0_100#32, .sar64 ⟨true, 8, 16, 24, false, 4⟩),
    (0b0_001101_001000_010000_000000_000_0_101#32, .popc ⟨false, 8, 16, 0, false, 5⟩),
    (0b1_001101_001000_010000_000000_001_0_110#32, .clz ⟨true, 8, 16, 0, false, 6⟩),
    (0b0_001101_001000_010000_000000_010_0_111#32, .ctz ⟨false, 8, 16, 0, false, 7⟩),
    (0b1_001101_001000_010000_000000_011_0_001#32, .brev ⟨true, 8, 16, 0, false, 1⟩),
    (0b0_001101_001000_010000_011000_100_0_010#32, .bfxI ⟨false, 8, 16, 24, false, 2⟩),
    (0b1_001101_001000_010000_011000_101_0_011#32, .bfxN ⟨true, 8, 16, 24, false, 3⟩),
    (0b0_001101_001000_010000_011000_110_0_100#32, .bfi ⟨false, 8, 16, 24, false, 4⟩),
    (0b1_001101_001000_010000_000000_111_0_101#32, .bswp ⟨true, 8, 16, 0, false, 5⟩),
    (0b0_001110_000101_010000_011000_000_0_110#32, .isetEq ⟨false, 5, 16, 24, false, 6⟩),
    (0b1_001110_000101_010000_011000_001_0_111#32, .isetNe ⟨true, 5, 16, 24, false, 7⟩)
  ] = true := by decide +kernel
theorem test_words_isetLtI_to_unif : decodesTo [
    (0b0_001110_000101_010000_011000_010_0_001#32, .isetLtI ⟨false, 5, 16, 24, false, 1⟩),
    (0b1_001110_000101_010000_011000_011_0_010#32, .isetLeI ⟨true, 5, 16, 24, false, 2⟩),
    (0b0_001110_000101_010000_011000_100_0_011#32, .isetLtN ⟨false, 5, 16, 24, false, 3⟩),
    (0b1_001110_000101_010000_011000_101_0_100#32, .isetLeN ⟨true, 5, 16, 24, false, 4⟩),
    (0b0_001110_000101_010000_011000_110_0_101#32, .isetTst ⟨false, 5, 16, 24, false, 5⟩),
    (0b1_001111_001000_101010_111100_000_0_110#32, .movi ⟨true, 8, 42, 60, false, 6⟩),
    (0b0_001111_001000_000000_011000_001_0_111#32, .movh ⟨false, 8, 0, 24, false, 7⟩),
    (0b1_001111_001000_000000_011000_010_0_001#32, .mov64 ⟨true, 8, 0, 24, false, 1⟩),
    (0b0_001111_000101_000000_011000_011_0_010#32, .idxset ⟨false, 5, 0, 24, false, 2⟩),
    (0b1_001111_000101_000110_011000_100_0_011#32, .idxadd ⟨true, 5, 6, 24, false, 3⟩),
    (0b0_001111_000001_010000_011000_101_0_100#32, .winset ⟨false, 1, 16, 24, false, 4⟩),
    (0b1_001111_001000_010000_000000_110_0_101#32, .unif ⟨true, 8, 16, 0, false, 5⟩)
  ] = true := by decide +kernel
theorem test_words_fadd_to_twosum : decodesTo [
    (0b0_010000_001000_010000_011000_000_0_110#32, .fadd ⟨false, 8, 16, 24, false, 6⟩),
    (0b1_010000_001000_010000_011000_001_0_111#32, .fsub ⟨true, 8, 16, 24, false, 7⟩),
    (0b0_010000_001000_010000_011000_010_0_001#32, .fmul ⟨false, 8, 16, 24, false, 1⟩),
    (0b1_010000_001000_010000_011000_011_0_010#32, .fmin ⟨true, 8, 16, 24, false, 2⟩),
    (0b0_010000_001000_010000_011000_100_0_011#32, .fmax ⟨false, 8, 16, 24, false, 3⟩),
    (0b1_010000_001000_010000_000000_101_0_100#32, .fabs ⟨true, 8, 16, 0, false, 4⟩),
    (0b0_010000_001000_010000_000000_110_0_101#32, .fneg ⟨false, 8, 16, 0, false, 5⟩),
    (0b1_010000_001000_010000_011000_111_0_110#32, .fcpys ⟨true, 8, 16, 24, false, 6⟩),
    (0b0_010001_001000_010000_011000_000_0_111#32, .ffma ⟨false, 8, 16, 24, false, 7⟩),
    (0b1_010001_001000_010000_011000_001_0_001#32, .ffms ⟨true, 8, 16, 24, false, 1⟩),
    (0b0_010001_001000_010000_011000_010_0_010#32, .fnma ⟨false, 8, 16, 24, false, 2⟩),
    (0b1_010001_001000_010000_011000_011_0_011#32, .twosum ⟨true, 8, 16, 24, false, 3⟩)
  ] = true := by decide +kernel
theorem test_words_ftsum_to_fsqrt : decodesTo [
    (0b0_010001_001000_010000_011000_100_0_100#32, .ftsum ⟨false, 8, 16, 24, false, 4⟩),
    (0b1_010001_001000_010000_011000_101_0_101#32, .twoprod ⟨true, 8, 16, 24, false, 5⟩),
    (0b0_010010_000101_010000_011000_000_0_110#32, .fsetEq ⟨false, 5, 16, 24, false, 6⟩),
    (0b1_010010_000101_010000_011000_001_0_111#32, .fsetNe ⟨true, 5, 16, 24, false, 7⟩),
    (0b0_010010_000101_010000_011000_010_0_001#32, .fsetLt ⟨false, 5, 16, 24, false, 1⟩),
    (0b1_010010_000101_010000_011000_011_0_010#32, .fsetLe ⟨true, 5, 16, 24, false, 2⟩),
    (0b0_010010_000101_010000_011000_100_0_011#32, .fsetUnord ⟨false, 5, 16, 24, false, 3⟩),
    (0b1_010010_000101_010000_011000_101_0_100#32, .fsetOrd ⟨true, 5, 16, 24, false, 4⟩),
    (0b0_010010_000101_010000_011000_110_0_101#32, .fsetClass ⟨false, 5, 16, 24, false, 5⟩),
    (0b1_010011_001000_010000_000000_000_0_110#32, .frcp ⟨true, 8, 16, 0, false, 6⟩),
    (0b0_010011_001000_010000_000000_001_0_111#32, .frsq ⟨false, 8, 16, 0, false, 7⟩),
    (0b1_010011_001000_010000_000000_010_0_001#32, .fsqrt ⟨true, 8, 16, 0, false, 1⟩)
  ] = true := by decide +kernel
theorem test_words_fexp2_to_hmax2Bf16 : decodesTo [
    (0b0_010011_001000_010000_000000_011_0_010#32, .fexp2 ⟨false, 8, 16, 0, false, 2⟩),
    (0b1_010011_001000_010000_000000_100_0_011#32, .flog2 ⟨true, 8, 16, 0, false, 3⟩),
    (0b0_010011_001000_010000_000000_101_0_100#32, .fsin ⟨false, 8, 16, 0, false, 4⟩),
    (0b1_010011_001000_010000_000000_110_0_101#32, .fcos ⟨true, 8, 16, 0, false, 5⟩),
    (0b0_010011_001000_010000_000000_111_0_110#32, .ftanh ⟨false, 8, 16, 0, false, 6⟩),
    (0b1_010100_001000_010000_011000_000_0_111#32, .hadd2Bf16 ⟨true, 8, 16, 24, false, 7⟩),
    (0b0_010100_001000_010000_011000_001_0_001#32, .hmul2Bf16 ⟨false, 8, 16, 24, false, 1⟩),
    (0b1_010100_001000_010000_011000_010_0_010#32, .hfma2Bf16 ⟨true, 8, 16, 24, false, 2⟩),
    (0b0_010100_001000_010000_011000_011_0_011#32, .hadd2F16 ⟨false, 8, 16, 24, false, 3⟩),
    (0b1_010100_001000_010000_011000_100_0_100#32, .hmul2F16 ⟨true, 8, 16, 24, false, 4⟩),
    (0b0_010100_001000_010000_011000_101_0_101#32, .hfma2F16 ⟨false, 8, 16, 24, false, 5⟩),
    (0b1_010100_001000_010000_011000_110_0_110#32, .hmax2Bf16 ⟨true, 8, 16, 24, false, 6⟩)
  ] = true := by decide +kernel
theorem test_words_hmin2Bf16_to_cvtI32F32 : decodesTo [
    (0b0_010100_001000_010000_011000_111_0_111#32, .hmin2Bf16 ⟨false, 8, 16, 24, false, 7⟩),
    (0b1_010101_001000_010000_011000_000_0_001#32, .dadd ⟨true, 8, 16, 24, false, 1⟩),
    (0b0_010101_001000_010000_011000_001_0_010#32, .dsub ⟨false, 8, 16, 24, false, 2⟩),
    (0b1_010101_001000_010000_011000_010_0_011#32, .dmul ⟨true, 8, 16, 24, false, 3⟩),
    (0b0_010101_001000_010000_011000_011_0_100#32, .dfma ⟨false, 8, 16, 24, false, 4⟩),
    (0b1_010101_001000_010000_011000_100_0_101#32, .dmin ⟨true, 8, 16, 24, false, 5⟩),
    (0b0_010101_001000_010000_011000_101_0_110#32, .dmax ⟨false, 8, 16, 24, false, 6⟩),
    (0b1_010101_000101_010000_011000_110_0_111#32, .dsetLt ⟨true, 5, 16, 24, false, 7⟩),
    (0b0_010101_000101_010000_011000_111_0_001#32, .dsetEq ⟨false, 5, 16, 24, false, 1⟩),
    (0b1_010110_001000_010000_000001_000_0_010#32, .cvtF32I32 ⟨true, 8, 16, 1, false, 2⟩),
    (0b0_010110_001000_010000_000001_001_0_011#32, .cvtF32N32 ⟨false, 8, 16, 1, false, 3⟩),
    (0b1_010110_001000_010000_000001_010_0_100#32, .cvtI32F32 ⟨true, 8, 16, 1, false, 4⟩)
  ] = true := by decide +kernel
theorem test_words_cvtN32F32_to_unpkI8x4 : decodesTo [
    (0b0_010110_001000_010000_000001_011_0_101#32, .cvtN32F32 ⟨false, 8, 16, 1, false, 5⟩),
    (0b1_010110_001000_010000_000001_100_0_110#32, .cvtF32F64 ⟨true, 8, 16, 1, false, 6⟩),
    (0b0_010110_001000_010000_000000_101_0_111#32, .cvtF64F32 ⟨false, 8, 16, 0, false, 7⟩),
    (0b1_010110_001000_010000_011000_110_0_001#32, .cvtBf16x2F32 ⟨true, 8, 16, 24, false, 1⟩),
    (0b0_010110_001000_010000_011000_111_0_010#32, .cvtF16x2F32 ⟨false, 8, 16, 24, false, 2⟩),
    (0b1_010111_001000_010000_000000_000_0_011#32, .unpkBf16x2 ⟨true, 8, 16, 0, false, 3⟩),
    (0b0_010111_001000_010000_000000_001_0_100#32, .unpkF16x2 ⟨false, 8, 16, 0, false, 4⟩),
    (0b1_010111_001000_010000_000000_010_0_101#32, .cvtF64I32 ⟨true, 8, 16, 0, false, 5⟩),
    (0b0_010111_001000_010000_000001_011_0_110#32, .cvtI32F64 ⟨false, 8, 16, 1, false, 6⟩),
    (0b1_010111_001000_010000_011000_100_0_111#32, .packI8x4 ⟨true, 8, 16, 24, false, 7⟩),
    (0b0_010111_001000_010000_011000_101_0_001#32, .packN8x4 ⟨false, 8, 16, 24, false, 1⟩),
    (0b1_010111_001000_010000_011000_110_0_010#32, .unpkI8x4 ⟨true, 8, 16, 24, false, 2⟩)
  ] = true := by decide +kernel
theorem test_words_unpkN8x4_to_ldfe : decodesTo [
    (0b0_010111_001000_010000_011000_111_0_011#32, .unpkN8x4 ⟨false, 8, 16, 24, false, 3⟩),
    (0b1_011000_001000_010000_011000_000_0_100#32, .qnt ⟨true, 8, 16, 24, false, 4⟩),
    (0b0_011000_001000_010000_011000_001_0_101#32, .dqnt ⟨false, 8, 16, 24, false, 5⟩),
    (0b1_011000_001000_010000_011000_010_0_110#32, .qpack ⟨true, 8, 16, 24, false, 6⟩),
    (0b0_011000_001000_010000_000000_011_0_111#32, .qunpk ⟨false, 8, 16, 0, false, 7⟩),
    (0b1_011000_001000_010000_011000_100_0_001#32, .segscl ⟨true, 8, 16, 24, false, 1⟩),
    (0b0_011000_001000_010000_000000_101_0_010#32, .fmtchk ⟨false, 8, 16, 0, false, 2⟩),
    (0b1_100000_001000_010000_001001_0101_011#32, .ld ⟨true, 8, 16, 9, 5, 3⟩),
    (0b0_100001_001000_010000_001001_0101_100#32, .st ⟨false, 8, 16, 9, 5, 4⟩),
    (0b1_100010_001000_010000_001000_0101_101#32, .ldNt ⟨true, 8, 16, 8, 5, 5⟩),
    (0b0_100011_001000_010000_001000_0101_110#32, .stNt ⟨false, 8, 16, 8, 5, 6⟩),
    (0b1_100100_001000_010000_010001_0101_111#32, .ldfe ⟨true, 8, 16, 17, 5, 7⟩)
  ] = true := by decide +kernel
theorem test_words_stfe_to_baraw : decodesTo [
    (0b0_100101_001000_010000_011010_0101_001#32, .stfe ⟨false, 8, 16, 26, 5, 1⟩),
    (0b1_100110_000001_010000_000000_0101_010#32, .pf ⟨true, 1, 16, 0, 5, 2⟩),
    (0b0_100111_000000_010000_000000_0101_011#32, .cmoClean ⟨false, 0, 16, 0, 5, 3⟩),
    (0b1_100111_000000_010000_001000_0101_100#32, .cmoInv ⟨true, 0, 16, 8, 5, 4⟩),
    (0b0_100111_000000_010000_010000_0101_101#32, .cmoCleaninv ⟨false, 0, 16, 16, 5, 5⟩),
    (0b1_101000_001000_010000_000101_0101_110#32, .atomG ⟨true, 8, 16, 5, 5, 6⟩),
    (0b0_101001_001000_010000_000101_0101_111#32, .atomS ⟨false, 8, 16, 5, 5, 7⟩),
    (0b1_101010_001000_010000_000101_0101_001#32, .atomC ⟨true, 8, 16, 5, 5, 1⟩),
    (0b0_101011_001000_010000_000101_0101_010#32, .redG ⟨false, 8, 16, 5, 5, 2⟩),
    (0b1_101100_001000_000000_000001_000_0_011#32, .bara ⟨true, 8, 0, 1, false, 3⟩),
    (0b0_101100_000000_010000_000001_001_0_100#32, .barw ⟨false, 0, 16, 1, false, 4⟩),
    (0b1_101100_000000_000000_000001_010_0_101#32, .baraw ⟨true, 0, 0, 1, false, 5⟩)
  ] = true := by decide +kernel
theorem test_words_barinit_to_fenceSp : decodesTo [
    (0b0_101100_000000_010000_000001_011_0_110#32, .barinit ⟨false, 0, 16, 1, false, 6⟩),
    (0b1_101100_000000_010000_000000_100_0_111#32, .gbar ⟨true, 0, 16, 0, false, 7⟩),
    (0b0_101100_001000_000000_000001_101_0_001#32, .barq ⟨false, 8, 0, 1, false, 1⟩),
    (0b1_101101_000000_010000_011000_000_0_010#32, .arrvInit ⟨true, 0, 16, 24, false, 2⟩),
    (0b0_101101_000000_010000_011000_001_0_011#32, .arrvAdd ⟨false, 0, 16, 24, false, 3⟩),
    (0b1_101101_000000_010000_011000_010_0_100#32, .await ⟨true, 0, 16, 24, false, 4⟩),
    (0b0_101101_001000_010000_011000_011_0_101#32, .awaitT ⟨false, 8, 16, 24, false, 5⟩),
    (0b1_101101_001000_010000_000000_100_0_110#32, .arrvRd ⟨true, 8, 16, 0, false, 6⟩),
    (0b0_101110_000000_000000_000001_000_0_000#32, .fenceAcq ⟨false, 0, 0, 1, false, 0⟩),
    (0b1_101110_000000_000000_000001_001_0_000#32, .fenceRel ⟨true, 0, 0, 1, false, 0⟩),
    (0b0_101110_000000_000000_000001_010_0_000#32, .fenceAr ⟨false, 0, 0, 1, false, 0⟩),
    (0b1_101110_000000_000000_000011_011_0_000#32, .fenceSp ⟨true, 0, 0, 3, false, 0⟩)
  ] = true := by decide +kernel
theorem test_words_ifence_to_mtld : decodesTo [
    (0b0_101110_000000_000000_000001_100_0_000#32, .ifence ⟨false, 0, 0, 1, false, 0⟩),
    (0b1_101110_000000_000000_000100_101_0_000#32, .pbar ⟨true, 0, 0, 4, false, 0⟩),
    (0b0_101110_000000_000000_000101_110_0_000#32, .psync ⟨false, 0, 0, 5, false, 0⟩),
    (0b1_110000_011101_010000_011000_0101_111#32, .mma ⟨true, 29, 16, 24, 5, 7⟩),
    (0b0_110001_000001_000000_000000_0101_001#32, .mzero ⟨false, 1, 0, 0, 5, 1⟩),
    (0b1_110010_001000_000101_000001_0101_010#32, .mrd ⟨true, 8, 5, 1, 5, 2⟩),
    (0b0_110011_000001_010000_000001_0101_011#32, .mwr ⟨false, 1, 16, 1, 5, 3⟩),
    (0b1_110100_000101_010000_000000_0101_100#32, .mdrain ⟨true, 5, 16, 0, 5, 4⟩),
    (0b0_110101_000000_000000_000000_000_0_000#32, .mfence ⟨false, 0, 0, 0, false, 0⟩),
    (0b1_110101_000000_000000_000101_001_0_110#32, .mwait ⟨true, 0, 0, 5, false, 6⟩),
    (0b0_110101_000000_010000_000001_010_0_111#32, .mwm ⟨false, 0, 16, 1, false, 7⟩),
    (0b1_110101_001000_010000_011000_011_0_001#32, .mtld ⟨true, 8, 16, 24, false, 1⟩)
  ] = true := by decide +kernel
theorem test_words_mstat_to_rred : decodesTo [
    (0b0_110101_001000_000000_000001_100_0_010#32, .mstat ⟨false, 8, 0, 1, false, 2⟩),
    (0b1_110110_001000_010000_000001_0101_011#32, .cpy ⟨true, 8, 16, 1, 5, 3⟩),
    (0b0_110111_001000_010000_000001_0101_100#32, .cpym ⟨false, 8, 16, 1, 5, 4⟩),
    (0b1_111000_000000_010000_000000_000_0_101#32, .cpystg ⟨true, 0, 16, 0, false, 5⟩),
    (0b0_111000_000001_010000_000000_000_0_110#32, .cpystgRet ⟨false, 1, 16, 0, false, 6⟩),
    (0b1_111000_001000_010000_000000_001_0_111#32, .cpytst ⟨true, 8, 16, 0, false, 7⟩),
    (0b0_111000_000000_010000_000000_010_0_001#32, .cpywt ⟨false, 0, 16, 0, false, 1⟩),
    (0b1_111000_001000_000000_000001_011_0_010#32, .cpyq ⟨true, 8, 0, 1, false, 2⟩),
    (0b0_111000_001000_010000_000000_100_0_011#32, .cpycnl ⟨false, 8, 16, 0, false, 3⟩),
    (0b1_111010_000000_010000_011000_0101_100#32, .rput ⟨true, 0, 16, 24, 5, 4⟩),
    (0b0_111011_000000_010000_011000_0101_101#32, .rget ⟨false, 0, 16, 24, 5, 5⟩),
    (0b1_111100_000000_010000_011000_0101_110#32, .rred ⟨true, 0, 16, 24, 5, 6⟩)
  ] = true := by decide +kernel
theorem test_words_rstv_to_rstat : decodesTo [
    (0b0_111101_001000_010000_011000_000_0_111#32, .rstv ⟨false, 8, 16, 24, false, 7⟩),
    (0b1_111101_001000_000000_000001_001_0_001#32, .rrcv ⟨true, 8, 0, 1, false, 1⟩),
    (0b0_111101_001000_000000_000000_010_0_010#32, .name ⟨false, 8, 0, 0, false, 2⟩),
    (0b1_111101_001000_000000_000000_011_0_011#32, .rstat ⟨true, 8, 0, 0, false, 3⟩)
  ] = true := by decide +kernel
/-- EXT, and words that are refused: EXT with bit 31 set, a reserved opcode and function code (R34, R41), a nonzero unused field, a pair at an odd register, a width the entry excludes (R42, R43); bytes that are too few. -/
theorem test_refused :
    decode 0b0_000111_1111111111111111111111111#32 = .ok (.ext 0x1FFFFFF) ∧ decode 0b1_000111_0000000000000000000000101#32 = .error .extChained
    ∧ decode 0b0_111111_000000_000000_000000_000_0_000#32 = .error .reserved ∧ decode 0b0_000100_000000_000000_000000_111_0_000#32 = .error .reserved
    ∧ decode 0b0_000000_000001_000000_000000_000_0_000#32 = .error (.illFormed .fixedBits) ∧ decode 0b0_001001_001001_010000_011000_100_0_000#32 = .error (.illFormed .registerField)
    ∧ decode 0b0_100000_001000_010000_111000_0000_000#32 = .error (.illFormed .excludedValue) ∧ decodeBytes [0, 0, 0] = .error .short := ⟨rfl, rfl, rfl, rfl, rfl, rfl, rfl, rfl⟩
/-- Terms that no word of the spec can hold, one for each check of WellFormed, and one that a word holds. -/
theorem test_illFormed : illFormed (.nop ⟨false, 1, 0, 0, false, 0⟩) = some .fixedBits ∧ illFormed (.iadd64 ⟨false, 9, 16, 24, false, 0⟩) = some .registerField
    ∧ illFormed (.ld ⟨false, 8, 16, 56, 0, 0⟩) = some .excludedValue ∧ WellFormed (.nop ⟨false, 1, 0, 0, false, 0⟩) = false ∧ WellFormed (.nop ⟨true, 0, 0, 0, false, 0⟩) = true ∧ encode (.nop ⟨true, 0, 0, 0, false, 0⟩) = some 0x80000000#32 := by decide +kernel

/-! ### Witnesses: the machine -/

/-- withFetchWord's state with IADD v10, v3, v4 in lanes that predicate 2 selects, as the next step finds it. -/
def tFetch : State := State.reset.withFetchWord 32 0b0_001000_001010_000011_000100_000_0_010
theorem wit_canonStep : tFetch.canon = true ∧ ∃ t, step tFetch = .next t := ⟨by decide +kernel, _, rfl⟩
theorem wit_runs : let t := tFetch.tickAc; let x := t.slice 128
    ∃ ps w, t.candidates = [.issue 0] ∧ t.plan 0 ≠ .wait ∧ (t.byGslot (t.split 0).slices).head? = some 128 ∧ x.word = 0 ∧ t.fetchLines 128 (packetLines x.pc) = .ok (some ps)
      ∧ t.cachedPacket 128 x.pc = [] ∧ (packetWords (t.fetchMem 128 x.pc ps))[0]? = some w ∧ decode w = .ok (.iadd ⟨false, 10, 3, 4, false, 2⟩)
      ∧ view (.iadd ⟨false, 10, 3, 4, false, 2⟩) = .word (tV (.iadd ⟨false, 10, 3, 4, false, 2⟩)) ∧ (tV (.iadd ⟨false, 10, 3, 4, false, 2⟩)).c = false ∧ (tV (.iadd ⟨false, 10, 3, 4, false, 2⟩)).extOk none = true
      ∧ (∀ y ∈ (t.split 0).slices, t.breakTrap y x.pc 0 0 = none ∧ (t.slice y).stepping = false ∧ (t.slice y).stepped = false ∧ (t.slice y).owed = none ∧ (t.slice y).only = none)
      ∧ t.windowOf ((t.split 0).slices.headD 0) = none :=
  ⟨_, 0b0_001000_001010_000011_000100_000_0_010#32, by decide +kernel, by decide +kernel, by decide +kernel, by decide +kernel, rfl, by decide +kernel, by decide +kernel, rfl, rfl, rfl, by decide +kernel, by decide +kernel, by decide +kernel⟩
theorem wit_classBits : Acts (.fsetClass (tR 3 4 5)) tW tC (tV (.fsetClass (tR 3 4 5))) ∧ ∀ x ∈ tC.slices, Passes tW tC (tV (.fsetClass (tR 3 4 5))) x (tW.activeLanes x 0) := by unfold Acts Passes; decide +kernel
/-! ### Witnesses: words that write registers -/

theorem wit_lanewise : laneFn (.iadd (tR 10 3 4)) = some fnIadd ∧ Acts (.iadd (tR 10 3 4)) tW tC (tV (.iadd (tR 10 3 4)))
    ∧ ∀ x ∈ tC.slices, Passes tW tC (tV (.iadd (tR 10 3 4))) x (tW.activeLanes x 0) ∧ ∀ l ∈ tW.activeLanes x 0, (fnIadd (tW.laneIn (tV (.iadd (tR 10 3 4))) x l)).bad = none := by
  unfold Acts Passes; exact ⟨rfl, by decide +kernel, by decide +kernel⟩

/-- tW with register 3 of one lane poisoned. -/
def tSel (l : Nat) : State := { tW.actAll [.reg (laneKey 128 l) 3 7 true] with log := [] }
theorem wit_sel : Acts (.sel ⟨false, 10, 3, 4, false, 2⟩) (tSel 0) tC (tV (.sel ⟨false, 10, 3, 4, false, 2⟩)) ∧ (∀ x ∈ tC.slices, ((((tSel 0).boundsTrap x (tV (.sel ⟨false, 10, 3, 4, false, 2⟩)).form.d 10 ((tSel 0).liveLanes x))
    <|> ((tSel 0).boundsTrap x (tV (.sel ⟨false, 10, 3, 4, false, 2⟩)).form.a 3 ((tSel 0).liveLanes x)) <|> ((tSel 0).boundsTrap x (tV (.sel ⟨false, 10, 3, 4, false, 2⟩)).form.b 4 ((tSel 0).liveLanes x))) = none)
      ∧ ∀ l ∈ (tSel 0).liveLanes x, ¬ (if (tSel 0).predOf (laneKey x l) 2 then (tSel 0).psnLanes true x (tV (.sel ⟨false, 10, 3, 4, false, 2⟩)).form.a 3 [l] ≠ [] else (tSel 0).psnLanes true x (tV (.sel ⟨false, 10, 3, 4, false, 2⟩)).form.b 4 [l] ≠ []))
    ∧ (tSel 0).psnLanes true 128 (tV (.sel ⟨false, 10, 3, 4, false, 2⟩)).form.a 3 [0] = [0] := by
  unfold Acts; decide +kernel
theorem wit_selTraps : (Acts (.sel ⟨false, 10, 3, 4, false, 2⟩) (tSel 1) tC (tV (.sel ⟨false, 10, 3, 4, false, 2⟩)) ∧ 1 ∈ (tSel 1).liveLanes 128 ∧ (tSel 1).predOf (laneKey 128 1) 2 = true ∧ (tSel 1).psnLanes true 128 (tV (.sel ⟨false, 10, 3, 4, false, 2⟩)).form.a 3 [1] ≠ [])
    ∧ (Acts (.sel ⟨false, 10, 3, 57, false, 2⟩) tW tC (tV (.sel ⟨false, 10, 3, 57, false, 2⟩)) ∧ (tW.boundsTrap 128 (tV (.sel ⟨false, 10, 3, 57, false, 2⟩)).form.b 57 (tW.liveLanes 128)).isSome = true)
    ∧ hmOf ((tSel 1).slice 128).trapcause = false ∧ ((tSel 1).packOf 128).handler ≠ 0 ∧ Unwatched (tSel 1) 128 ∧ ((tSel 1).slice 128).trans = [] := by
  unfold Acts; exact ⟨by decide +kernel, by decide +kernel, by decide +kernel, by decide +kernel, unwatched _ _ (by decide +kernel), by decide +kernel⟩

theorem wit_idxadd : Acts (.idxadd (tR 1 1 4)) tW tC (tV (.idxadd (tR 1 1 4))) ∧ ∀ x ∈ tC.slices, Passes tW tC (tV (.idxadd (tR 1 1 4))) x (tW.activeLanes x 0) := by
  unfold Acts Passes; decide +kernel

/-- tS with a window of the last eight registers in v1 and v2. -/
def tWin : State := tWith [.reg (laneKey 128 0) 1 56 false, .reg (laneKey 128 0) 2 8 false]
theorem wit_winset : Acts (.winset (tR 3 1 2)) tWin tC (tV (.winset (tR 3 1 2)))
    ∧ ∀ x ∈ tC.slices, Passes tWin tC (tV (.winset (tR 3 1 2))) x (tWin.activeLanes x 0) ∧ ∀ l, (tWin.activeLanes x 0).head? = some l →
      56 ≤ (tWin.valA (tV (.winset (tR 3 1 2))) x l).toNat % 256 ∧ 1 ≤ (tWin.valB (tV (.winset (tR 3 1 2))) none x l).toNat % 256 ∧ (tWin.valB (tV (.winset (tR 3 1 2))) none x l).toNat % 256 ≤ 200
        ∧ (tWin.valA (tV (.winset (tR 3 1 2))) x l).toNat % 256 + (tWin.valB (tV (.winset (tR 3 1 2))) none x l).toNat % 256 ≤ (tWin.packOf x).regs := by
  unfold Acts Passes
  refine ⟨by decide +kernel, fun x hx => ⟨?_, fun l hl => ?_⟩⟩
  · obtain rfl := List.mem_singleton.mp hx; decide +kernel
  · obtain rfl := List.mem_singleton.mp hx; obtain rfl := Option.some.inj hl; decide +kernel
theorem wit_unif : Acts (.unif (tR 9 1 0)) tW tC (tV (.unif (tR 9 1 0))) ∧ ∀ x ∈ tC.slices, Passes tW tC (tV (.unif (tR 9 1 0))) x (tW.activeLanes x 0) := by
  unfold Acts Passes; decide +kernel

theorem wit_predicates : predFn (.pxor (tR 3 2 1)) = some (fun a b => a != b) ∧ Acts (.pxor (tR 3 2 1)) tW tC (tV (.pxor (tR 3 2 1)))
    ∧ Acts (.voteAny (tR 3 2 0)) tW tC (tV (.voteAny (tR 3 2 0))) ∧ Acts (.voteAll (tR 3 2 0)) tW tC (tV (.voteAll (tR 3 2 0)))
    ∧ Acts (.ballot (tR 9 2 0)) tW tC (tV (.ballot (tR 9 2 0))) ∧ Placed tW tC ∧ ∀ x ∈ tC.slices, Passes tW tC (tV (.ballot (tR 9 2 0))) x (tW.activeLanes x 0) := by
  unfold Acts Passes Placed; exact ⟨rfl, by decide +kernel⟩

theorem wit_crossLane : shuffleFn (.shflUp (tR 9 3 4)) = some (fun n _ b => Int.ofNat n - Int.ofNat b.toNat) ∧ Acts (.shflUp (tR 9 3 4)) tW tC (tV (.shflUp (tR 9 3 4)))
    ∧ (∀ x ∈ tC.slices, tW.crossTrap tC (tV (.shflUp (tR 9 3 4))) (shuffleSrc tW (fun n _ b => Int.ofNat n - Int.ofNat b.toNat)) x = none)
    ∧ Acts (.gredIadd (tR 9 3 0)) tW tC (tV (.gredIadd (tR 9 3 0))) ∧ (∀ x ∈ tC.slices, tW.crossTrap tC (tV (.gredIadd (tR 9 3 0))) (reduceSrc tW) x = none)
    ∧ Acts (.gscanIadd (tR 9 3 0)) tW tC (tV (.gscanIadd (tR 9 3 0))) ∧ (∀ x ∈ tC.slices, tW.crossTrap tC (tV (.gscanIadd (tR 9 3 0))) (scanSrc tW) x = none)
    ∧ Acts (.gredFmax (tR 9 3 0)) tW tC (tV (.gredFmax (tR 9 3 0))) ∧ ∀ x ∈ tC.slices, tW.crossTrap tC (tV (.gredFmax (tR 9 3 0))) (reduceSrc tW) x = none := by
  unfold Acts; exact ⟨rfl, by decide +kernel⟩

theorem wit_formatTrap : laneFn (.qnt (tR 10 2 6)) = some fnQnt ∧ Acts (.qnt (tR 10 2 6)) tW tC (tV (.qnt (tR 10 2 6))) ∧ 128 ∈ tC.slices
    ∧ Passes tW tC (tV (.qnt (tR 10 2 6))) 128 (tW.activeLanes 128 0) ∧ (tW.activeLanes 128 0).find? (fun l => (fnQnt (tW.laneIn (tV (.qnt (tR 10 2 6))) 128 l)).bad.isSome) = some 0
    ∧ (fnQnt (tW.laneIn (tV (.qnt (tR 10 2 6))) 128 0)).bad = some 42 ∧ hmOf (tW.slice 128).trapcause = false ∧ (tW.packOf 128).handler ≠ 0 ∧ Unwatched tW 128 ∧ (tW.slice 128).trans = [] := by
  unfold Acts Passes
  exact ⟨rfl, by decide +kernel, by decide +kernel, by decide +kernel, by decide +kernel, by decide +kernel, by decide +kernel, by decide +kernel, unwatched _ _ (by decide +kernel), by decide +kernel⟩

theorem wit_registerFrame : registerOnly (.iadd (tR 10 3 4)) = true ∧ Acts (.iadd (tR 10 3 4)) tW tC (tV (.iadd (tR 10 3 4)))
    ∧ exec (.iadd (tR 10 3 4)) tW = .next (tNext (.iadd (tR 10 3 4)) tW) ∧ ∀ e ∈ (tNext (.iadd (tR 10 3 4)) tW).log, ∀ x tr, e.2 ≠ .trap x tr := by
  unfold Acts; exact ⟨rfl, by decide +kernel, rfl, no_trap _ (by decide +kernel)⟩
/-! ### Witnesses: control -/

theorem wit_trapEntry : tS.canon = true ∧ hmOf (tS.slice 128).trapcause = false ∧ (tS.packOf 128).handler ≠ 0 ∧ Unwatched tS 128 :=
  ⟨by decide +kernel, by decide +kernel, by decide +kernel, unwatched _ _ (by decide +kernel)⟩
theorem wit_fatalTrap : (tH.canon = true ∧ hmOf (tH.slice 128).trapcause = true ∧ Unwatched tH 128)
    ∧ (State.reset.withFetchWord 32 0).canon = true ∧ ((State.reset.withFetchWord 32 0).packOf 128).handler = 0 ∧ Unwatched (State.reset.withFetchWord 32 0) 128 :=
  ⟨⟨by decide +kernel, by decide +kernel, unwatched _ _ (by decide +kernel)⟩, by decide +kernel, by decide +kernel, unwatched _ _ (by decide +kernel)⟩

theorem wit_nop : Acts (.nop (tR 0 0 0)) tS tC (tV (.nop (tR 0 0 0))) ∧ Acts (.yield (tR 0 0 0)) tS tC (tV (.yield (tR 0 0 0))) ∧ Running tS tC ∧ tS.run.cur = some tC := by
  unfold Acts Running; decide +kernel

/-- tS with a debugger attached that stops the whole pack, and without a handler. -/
def tAttached : State := { tS with ctl := { tS.ctl with packs := tS.ctl.packs.map (fun e => (e.1, { e.2 with handler := 0, debug := some { attach := true, scope := 2 } })) } }
theorem wit_softTraps : Acts (.bkpt (tR 0 0 7)) tS tC (tV (.bkpt (tR 0 0 7))) ∧ Acts (.trap ⟨false, 0, 0, 63, false, 2⟩) tS2 tC2 (tV (.trap ⟨false, 0, 0, 63, false, 2⟩))
    ∧ hmOf (tS2.slice 129).trapcause = false ∧ (tS2.packOf 129).handler ≠ 0 ∧ Unwatched tS2 129 ∧ tS2.activeLanes 128 2 = [] ∧ tS2.activeLanes 129 2 ≠ [] := by
  unfold Acts; exact ⟨by decide +kernel, by decide +kernel, by decide +kernel, by decide +kernel, unwatched _ _ (by decide +kernel), by decide +kernel, by decide +kernel⟩
theorem wit_debugTraps : Acts (.bkpt (tR 0 0 7)) tAttached tC (tV (.bkpt (tR 0 0 7))) ∧ Acts (.trap (tR 0 0 7)) tAttached tC (tV (.trap (tR 0 0 7))) ∧ hmOf (tAttached.slice 128).trapcause = false
    ∧ ¬ Unwatched tAttached 128 ∧ tAttached.activeLanes 128 0 ≠ [] := by
  unfold Acts; exact ⟨by decide +kernel, by decide +kernel, by decide +kernel, fun h => absurd (h _ rfl) (by decide +kernel), by decide +kernel⟩

theorem wit_rtt : (Acts (.rtt (tR 0 0 0)) tH tC (tV (.rtt (tR 0 0 0))) ∧ hmOf (tH.slice 128).trapcause = true ∧ (tH.slice 128).trapcause.toNat / 2 ^ 17 % 4 ≠ 3)
    ∧ Acts (.rtt (tR 0 0 0)) tS tC (tV (.rtt (tR 0 0 0))) ∧ hmOf (tS.slice 128).trapcause = false ∧ (tS.packOf 128).handler ≠ 0 ∧ Unwatched tS 128 ∧ (tS.slice 128).trans = [] := by
  unfold Acts
  exact ⟨by decide +kernel, by decide +kernel, by decide +kernel, by decide +kernel, unwatched _ _ (by decide +kernel), by decide +kernel⟩

/-- tS with a clock and a cycle count that have high halves. -/
def tClk : State := { tWith [.raiseCk 0 (5 * 2 ^ 32 + 9)] with run := { tS.run with ac := 7 * 2 ^ 32 + 3 } }
theorem wit_srd : ∀ a ∈ [0, 11, 12, 13, 14, 16, 27], Acts (.srd (tR 9 a 0)) tClk tC (tV (.srd (tR 9 a 0))) ∧ ∀ x ∈ tC.slices, Passes tClk tC (tV (.srd (tR 9 a 0))) x (tClk.activeLanes x 0) := by
  unfold Acts Passes; decide +kernel
/-- tH with the largest SPTOP in v2. -/
def tSwr : State := { tH.actAll [.reg (laneKey 128 0) 2 4103 false] with log := [] }
theorem wit_swr : ∀ a ∈ [16, 17, 18, 19, 23, 24, 30], let v := tV (.swr (tR 0 a 2)); let val := fun (x l : Nat) => ((tSwr.valB v none x l).setWidth 32 : Word)
    Acts (.swr (tR 0 a 2)) tSwr tC v ∧ ∀ x ∈ tC.slices, ∀ l, (tSwr.activeLanes x v.pg).head? = some l → HeadPasses tSwr tC v x l ∧
      (v.a = 16 ∨ v.a = 17 ∨ v.a = 30 ∨ ((v.a = 18 ∨ v.a = 19) ∧ hmOf (tSwr.slice x).trapcause = true)
        ∨ ((v.a = 23 ∨ v.a = 24) ∧ (val x l).toNat / 8 * 8 ≤ (tSwr.packOf x).lpsize
          ∧ (v.a = 23 → (tSwr.slice x).splim ≤ (val x l).toNat / 8 * 8 ∨ (tSwr.slice x).sptop ≤ (val x l).toNat / 8 * 8))) := by
  intro a ha
  refine ⟨by unfold Acts; revert a; decide +kernel, one_slice (first_lane _ 0 (by revert a; decide +kernel) ?_)⟩
  unfold HeadPasses; revert a; decide +kernel

theorem wit_branch : ((∃ f, Instr.brAny ⟨false, 5, 2⟩ = .brAny f) ∧ Acts (.brAny ⟨false, 5, 2⟩) tS2 tC2 (tV (.brAny ⟨false, 5, 2⟩)) ∧ Running tS2 tC2
      ∧ targetOk (branchTarget tC2.pkt 5) = true ∧ (branchTarget tC2.pkt 5, 0) ≠ (tC2.nextPkt, tC2.nextWord) ∧ tS2.freeEntries (tC2.entry / 64) ≠ []
      ∧ (∃ x ∈ tC2.slices, tS2.activeLanes x 2 ≠ []) ∧ ∃ x ∈ tC2.slices, tS2.activeLanes x 2 = [])
    ∧ Acts (.brAll ⟨false, 0x3FFFFF, 0⟩) tS tC (tV (.brAll ⟨false, 0x3FFFFF, 0⟩)) ∧ 2 ^ 57 ≤ branchTarget tC.pkt 0x3FFFFF ∧ hmOf (tS.slice 128).trapcause = false ∧ (tS.packOf 128).handler ≠ 0 ∧ Unwatched tS 128 ∧ (tS.slice 128).trans = [] := by
  unfold Acts Running
  exact ⟨⟨⟨_, rfl⟩, by decide +kernel⟩, by decide +kernel, by decide +kernel, by decide +kernel, by decide +kernel, unwatched _ _ (by decide +kernel), by decide +kernel⟩

/-- tS with the address 2^57 − 8, the last packet below 2^57, in v2 and v3 of lane 0, and a return address at the top of its window. -/
def tCall : State := { tWith [.reg (laneKey 128 0) 2 0xFFFFFFF8 false, .reg (laneKey 128 0) 3 0x1FFFFFF false, .slice 128 (.sptop 4088), .slice 128 (.splim 4080), .store 0x900FF8 (leBytes 8 60) 0] with log := [] }
theorem wit_call : let v := tV (.call ⟨false, 5, 0⟩)
    Acts (.call ⟨false, 5, 0⟩) tCall tC v ∧ ∀ x ∈ tC.slices, ∀ l, (tCall.activeLanes x v.pg).head? = some l → targetOk (branchTarget tC.pkt v.off) = true
      ∧ (tCall.slice x).splim + 8 ≤ (tCall.slice x).sptop ∧ StackThere tCall x 0 ((tCall.slice x).sptop - 8) 8 0 true ∧ Unseen tCall x 2 8 [(0, (tCall.slice x).sptop - 8)] := by
  unfold Acts Unseen
  exact ⟨by decide +kernel, one_slice (first_lane _ 0 (by decide +kernel) ⟨by decide +kernel, by decide +kernel, stack_there (by decide +kernel) (by decide +kernel), by decide +kernel⟩)⟩
theorem wit_callr : let v := tV (.callr (tR 0 2 0))
    Acts (.callr (tR 0 2 0)) tCall tC v ∧ ∀ x ∈ tC.slices, ∀ l, (tCall.activeLanes x v.pg).head? = some l → HeadPasses tCall tC v x l ∧ targetOk (tCall.valA v x l).toNat = true
      ∧ (tCall.slice x).splim + 8 ≤ (tCall.slice x).sptop ∧ StackThere tCall x 0 ((tCall.slice x).sptop - 8) 8 0 true ∧ Unseen tCall x 2 8 [(0, (tCall.slice x).sptop - 8)] := by
  unfold Acts HeadPasses Unseen
  exact ⟨by decide +kernel, one_slice (first_lane _ 0 (by decide +kernel) ⟨by decide +kernel, by decide +kernel, by decide +kernel, stack_there (by decide +kernel) (by decide +kernel), by decide +kernel⟩)⟩
theorem wit_jmpr : Acts (.jmpr (tR 0 2 0)) tCall tC (tV (.jmpr (tR 0 2 0))) ∧ ∀ x ∈ tC.slices, ∀ l, (tCall.activeLanes x 0).head? = some l →
    HeadPasses tCall tC (tV (.jmpr (tR 0 2 0))) x l ∧ targetOk (tCall.valA (tV (.jmpr (tR 0 2 0))) x l).toNat = true := by
  unfold Acts HeadPasses
  exact ⟨by decide +kernel, one_slice (first_lane _ 0 (by decide +kernel) (by decide +kernel))⟩
theorem wit_ret : Acts (.ret (tR 0 0 0)) tCall tC (tV (.ret (tR 0 0 0))) ∧ ∃ page : Nat → Page × Nat, ∀ x ∈ tC.slices, tCall.activeLanes x 0 ≠ [] → (tCall.slice x).sptop + 8 ≤ (tCall.packOf x).lpsize
      ∧ stackPage tCall x 0 (tCall.slice x).sptop 8 false = some (page x) ∧ targetOk (leNat (tCall.bytesAs ((page x).1.key (page x).2) 8 (page x).1.keyid)) = true ∧ Unseen tCall x 1 8 [(0, (tCall.slice x).sptop)] := by
  unfold Acts Unseen
  refine ⟨by decide +kernel, fun x => (stackPage tCall x 0 (tCall.slice x).sptop 8 false).getD (⟨0, 0, 0⟩, 0), one_slice (fun _ => ⟨by decide +kernel, ?_, by decide +kernel, by decide +kernel⟩)⟩
  decide +kernel

theorem wit_spill : Acts (.spill (tR 3 0 4)) tW tC (tV (.spill (tR 3 0 4))) ∧ ∀ x ∈ tC.slices, tW.activeLanes x 0 ≠ [] → SpillPasses tW (tV (.spill (tR 3 0 4))) false x := by
  unfold Acts SpillPasses Unseen
  refine ⟨by decide +kernel, one_slice (fun _ => ⟨by decide +kernel, by decide +kernel, by decide +kernel, fun l hl i hi => stack_there ?_ (fun _ => ?_), by decide +kernel⟩)⟩ <;>
    (revert l i; decide +kernel)
/-- tS with a block of three words at the top of the window of lane 1. -/
def tFill : State := { tWith [.slice 128 (.sptop 4080), .store 0x901FF0 (leBytes 8 0x1122334455667788) 0] with log := [] }
theorem wit_fill : Acts (.fill (tR 3 0 2)) tFill tC (tV (.fill (tR 3 0 2))) ∧ ∀ x ∈ tC.slices, tFill.activeLanes x 0 ≠ [] → SpillPasses tFill (tV (.fill (tR 3 0 2))) true x := by
  unfold Acts SpillPasses Unseen
  refine ⟨by decide +kernel, one_slice (fun _ => ⟨by decide +kernel, by decide +kernel, by decide +kernel, fun l hl i hi => stack_there ?_ (fun h => absurd h (by decide)), by decide +kernel⟩)⟩
  revert l i; decide +kernel

theorem wit_exit : Acts (.exit (tR 0 0 0)) tS tC (tV (.exit (tR 0 0 0))) := by unfold Acts; decide +kernel

/-- Two slices in two splits, of which one issues. -/
def tHalf : State := { tS2 with run := { tS2.run with cur := some tC }, ctl := { tS2.ctl with splits := [(0, { slices := [128], gang := 128 }), (1, { slices := [129], gang := 128 })] } }
theorem wit_regang : (Acts (.regang (tR 0 0 3)) tHalf tC (tV (.regang (tR 0 0 3))) ∧ (∀ x ∈ tC.slices, packKey x = 1 ∧ (tHalf.slice x).gang = 0)
      ∧ ∃ y ∈ tHalf.counted 1 0, y ∉ tC.slices ∧ (tHalf.slice y).meet? = none)
    ∧ let s := { tHalf with ctl := { tHalf.ctl with packs := tHalf.ctl.packs.map (fun e => (e.1, { e.2 with tiles := 0 })) } }
      Acts (.regang (tR 0 1 3)) s tC (tV (.regang (tR 0 1 3))) ∧ (∀ x ∈ tC.slices, packKey x = 1 ∧ (s.slice x).gang = 0) ∧ (s.pack 1).tiles = 0 ∧ (s.at1 1 (3, tC.pkt)).length + tC.slices.length < 8 := by
  unfold Acts; decide +kernel

/-- tW of a graph launch whose node 0 takes records of three words, with n records waiting in its bin. -/
def tSpawn (n : Nat) : State :=
  { tW with sun := { tW.sun with
      launches := [(1, { here := true, graph := some { asid := 1, va := 0x1000, version := 1, nodes := [{ entry := 0, words := 3, timer := 1000, succ := 1 }], kernel := {} } })]
      bins := [(256, { recs := List.replicate n (0, [1, 2, 3]) })] } }
theorem wit_spawn : (∀ n ∈ [1, 252, 253], Acts (.spawn (tR 3 0 0)) (tSpawn n) tC (tV (.spawn (tR 3 0 0))) ∧ ∀ x ∈ tC.slices, (tSpawn n).spawnTrap (tV (.spawn (tR 3 0 0))) x = none)
    ∧ Acts (.spawn (tR 3 1 0)) (tSpawn 252) tC (tV (.spawn (tR 3 1 0))) ∧ (∀ x ∈ tC.slices, (tSpawn 252).spawnTrap (tV (.spawn (tR 3 1 0))) x = none)
    ∧ (tC.slices.flatMap (fun sl => ((tSpawn 252).activeLanes sl 0))).length = 4 ∧ ((tSpawn 252).bin ((tSpawn 252).spawnBin 128 0)).recs.length = 252 := by
  unfold Acts; decide +kernel
/-! ### Witnesses: memory -/

theorem wit_load : ∀ e ∈ [(2, 16), (12, 17), (13, 19)], Acts (.ld (tX 8 e.1 e.2 0)) tM tC (tV (.ld (tX 8 e.1 e.2 0)))
    ∧ ∀ x ∈ tC.slices, Passes tM tC (tV (.ld (tX 8 e.1 e.2 0))) x (tM.activeLanes x 0) ∧ ∃ ts, accessTests tM (tV (.ld (tX 8 e.1 e.2 0))) 1 false x = .ok ts := by
  simp only [List.forall_mem_cons]
  refine ⟨?_, ?_, ?_, fun e he => absurd he List.not_mem_nil⟩ <;>
    exact ⟨by unfold Acts; decide +kernel, one_slice ⟨by unfold Passes; decide +kernel, ok_ex (by decide +kernel)⟩⟩
theorem wit_store : ∀ e ∈ [(12, 17), (13, 19)], Acts (.st (tX 4 e.1 e.2 0)) tM tC (tV (.st (tX 4 e.1 e.2 0)))
    ∧ ∀ x ∈ tC.slices, Passes tM tC (tV (.st (tX 4 e.1 e.2 0))) x (tM.activeLanes x 0) ∧ ∃ ts, accessTests tM (tV (.st (tX 4 e.1 e.2 0))) 2 true x = .ok ts := by
  simp only [List.forall_mem_cons]
  refine ⟨?_, ?_, fun e he => absurd he List.not_mem_nil⟩ <;>
    exact ⟨by unfold Acts; decide +kernel, one_slice ⟨by unfold Passes; decide +kernel, ok_ex (by decide +kernel)⟩⟩
theorem wit_storeNt : Acts (.stNt (tX 4 2 16 0)) tM tC (tV (.stNt (tX 4 2 16 0)))
    ∧ ∀ x ∈ tC.slices, Passes tM tC (tV (.stNt (tX 4 2 16 0))) x (tM.activeLanes x 0) ∧ ∃ ts, accessTests tM (tV (.stNt (tX 4 2 16 0))) 2 true x = .ok ts := by
  unfold Acts Passes; exact ⟨by decide +kernel, one_slice ⟨by decide +kernel, ok_ex (by decide +kernel)⟩⟩
/-- The trap for the words at offset 65533 of a 64 KiB scratchpad. -/
def tBounds : Trap := { code := 0x16, info := 1, addr := 65533, lanes := 15 }
theorem wit_accessTrap : Acts (.ld (tX 8 14 17 0)) tM tC (tV (.ld (tX 8 14 17 0))) ∧ 128 ∈ tC.slices ∧ Passes tM tC (tV (.ld (tX 8 14 17 0))) 128 (tM.activeLanes 128 0)
    ∧ accessTests tM (tV (.ld (tX 8 14 17 0))) 1 false 128 = .error tBounds ∧ hmOf (tM.slice 128).trapcause = false ∧ (tM.packOf 128).handler ≠ 0 ∧ Unwatched tM 128 ∧ (tM.slice 128).trans = [] := by
  unfold Acts Passes
  exact ⟨by decide +kernel, by decide +kernel, by decide +kernel, err_is (by decide +kernel), by decide +kernel, by decide +kernel, unwatched _ _ (by decide +kernel), by decide +kernel⟩

theorem wit_pf : Acts (.pf (tX 0 2 0 0)) tM tC (tV (.pf (tX 0 2 0 0))) ∧ ∀ x ∈ tC.slices, Passes tM tC (tV (.pf (tX 0 2 0 0))) x (tM.activeLanes x 0) := by
  unfold Acts Passes; decide +kernel
/-- tM with a dirty line of SCM that v4, v5 name, and a copy of it in the L1. -/
def tDirty : State :=
  { tM.actAll ([.store (scmBase + 0x200000) (leBytes 8 0x77) 0, .dirty ((scmBase + 0x200000) / 64) true, .copy (copyKey 0 ((scmBase + 0x200000) / 64)) (some { data := List.replicate 64 0, wts := 0, rts := 5, fill := 0, snt := 0, psn := false })]
    ++ [0, 1, 2, 3].flatMap (fun l => [.reg (laneKey 128 l) 4 (3 * 2 ^ 21) false, .reg (laneKey 128 l) 5 0 false])) with log := [] }
theorem wit_cmo : ∀ i ∈ [Instr.cmoClean (tX 0 4 0 0), .cmoInv (tX 0 4 8 0), .cmoCleaninv (tX 0 4 16 0)], Acts i tDirty tC (tV i) ∧ ∀ x ∈ tC.slices, Passes tDirty tC (tV i) x (tDirty.activeLanes x 0)
    ∧ ∃ ts, tDirty.testAccess x 0 0 0 0 0 false (tDirty.addrs (tV i) x 0 (tDirty.activeLanes x 0)) = .ok ts ∧ ∀ e ∈ ts, adOf tDirty x false e.2.2 = [] := by
  intro i hi
  refine ⟨by unfold Acts; revert i; decide +kernel, one_slice ⟨by unfold Passes; revert i; decide +kernel, ?_⟩⟩
  have h : okWith (tDirty.testAccess 128 0 0 0 0 0 false (tDirty.addrs (tV i) 128 0 (tDirty.activeLanes 128 0))) (fun ts => ts.all (fun e => decide (adOf tDirty 128 false e.2.2 = []))) = true := by
    revert i; decide +kernel
  obtain ⟨ts, hts, ha⟩ := ok_of h
  exact ⟨ts, hts, fun e he => of_decide_eq_true (List.all_eq_true.mp ha e he)⟩

theorem wit_atomG : Acts (.atomG (tX 4 2 0 0)) tM tC (tV (.atomG (tX 4 2 0 0))) ∧ ∀ x ∈ tC.slices, Passes tM tC (tV (.atomG (tX 4 2 0 0))) x (tM.activeLanes x 0)
      ∧ ∃ ts, tM.testAccess x 0 4 2 4 3 true (tM.addrs (tV (.atomG (tX 4 2 0 0))) x 0 (tM.activeLanes x 0)) = .ok ts := by
  unfold Acts Passes; exact ⟨by decide +kernel, one_slice ⟨by decide +kernel, ok_ex (by decide +kernel)⟩⟩
theorem wit_atomS : Acts (.atomS (tX 4 12 36 0)) tM tC (tV (.atomS (tX 4 12 36 0))) ∧ ∀ x ∈ tC.slices, Passes tM tC (tV (.atomS (tX 4 12 36 0))) x (tM.activeLanes x 0)
      ∧ ∃ ts, tM.testAccess x 1 4 2 4 3 true (tM.addrs (tV (.atomS (tX 4 12 36 0))) x 1 (tM.activeLanes x 0)) = .ok ts := by
  unfold Acts Passes; exact ⟨by decide +kernel, one_slice ⟨by decide +kernel, ok_ex (by decide +kernel)⟩⟩
/-- tM in a cluster set of one core. -/
def tClu : State := { tM with ctl := { tM.ctl with packs := tM.ctl.packs.map (fun e => (e.1, { e.2 with cluster := some 0 })) } }
theorem wit_atomC : Acts (.atomC (tX 4 12 0 0)) tClu tC (tV (.atomC (tX 4 12 0 0))) ∧ ∀ x ∈ tC.slices, Passes tClu tC (tV (.atomC (tX 4 12 0 0))) x (tClu.activeLanes x 0)
      ∧ ∃ ts, tClu.testAccess x 2 4 2 4 3 true (tClu.addrs (tV (.atomC (tX 4 12 0 0))) x 2 (tClu.activeLanes x 0)) = .ok ts := by
  unfold Acts Passes; exact ⟨by decide +kernel, one_slice ⟨by decide +kernel, ok_ex (by decide +kernel)⟩⟩
theorem wit_redG : Acts (.redG (tX 4 2 0 0)) tM tC (tV (.redG (tX 4 2 0 0))) ∧ ∀ x ∈ tC.slices, Passes tM tC (tV (.redG (tX 4 2 0 0))) x (tM.activeLanes x 0)
      ∧ ∃ ts, tM.testAccess x 0 4 2 4 3 true (tM.addrs (tV (.redG (tX 4 2 0 0))) x 0 (tM.activeLanes x 0)) = .ok ts := by
  unfold Acts Passes; exact ⟨by decide +kernel, one_slice ⟨by decide +kernel, ok_ex (by decide +kernel)⟩⟩

theorem wit_ldfe : Acts (.ldfe (tX 8 12 17 0)) tM tC (tV (.ldfe (tX 8 12 17 0))) ∧ ∀ x ∈ tC.slices, Passes tM tC (tV (.ldfe (tX 8 12 17 0))) x (tM.activeLanes x 0)
      ∧ ∃ ts, accessTests tM (tV (.ldfe (tX 8 12 17 0))) 1 false x = .ok ts := by
  unfold Acts Passes; exact ⟨by decide +kernel, one_slice ⟨by decide +kernel, ok_ex (by decide +kernel)⟩⟩
theorem wit_stfe : Acts (.stfe (tX 4 12 17 0)) tM tC (tV (.stfe (tX 4 12 17 0))) ∧ (tV (.stfe (tX 4 12 17 0))).b % 8 = 1 ∧ ∀ x ∈ tC.slices, Passes tM tC (tV (.stfe (tX 4 12 17 0))) x (tM.activeLanes x 0)
      ∧ ∃ ts, accessTests tM (tV (.stfe (tX 4 12 17 0))) 2 true x = .ok ts := by
  unfold Acts Passes; exact ⟨by decide +kernel, by decide +kernel, one_slice ⟨by decide +kernel, ok_ex (by decide +kernel)⟩⟩

/-- tW with 1, 4095, 0 and the group number 0 in v1, v2, v4 and v5. -/
def tB : State := { tW.actAll ([0, 1, 2, 3].flatMap (fun l => [.reg (laneKey 128 l) 1 1 false, .reg (laneKey 128 l) 2 4095 false, .reg (laneKey 128 l) 4 0 false, .reg (laneKey 128 l) 5 0 false])) with log := [] }
theorem wit_bara : Acts (.bara (tR 9 0 15)) tB tC (tV (.bara (tR 9 0 15))) ∧ HasBar tB tC (tV (.bara (tR 9 0 15))) 1 ∧ ∀ x ∈ tC.slices, Passes tB tC (tV (.bara (tR 9 0 15))) x (tB.activeLanes x 0) := by
  unfold Acts HasBar Passes; decide +kernel
theorem wit_baraw : Acts (.baraw (tR 0 0 3)) tB tC (tV (.baraw (tR 0 0 3))) ∧ HasBar tB tC (tV (.baraw (tR 0 0 3))) 1 ∧ ∀ x ∈ tC.slices, Passes tB tC (tV (.baraw (tR 0 0 3))) x (tB.activeLanes x 0) := by
  unfold Acts HasBar Passes; decide +kernel
theorem wit_barw : ∀ a ∈ [4, 1], Acts (.barw (tR 0 a 3)) tB tC (tV (.barw (tR 0 a 3))) ∧ HasBar tB tC (tV (.barw (tR 0 a 3))) 1 ∧ ∀ x ∈ tC.slices, ∀ l, (tB.activeLanes x 0).head? = some l → HeadPasses tB tC (tV (.barw (tR 0 a 3))) x l := by
  intro a ha
  refine ⟨by unfold Acts; revert a; decide +kernel, by unfold HasBar; revert a; decide +kernel, one_slice (first_lane _ 0 (by decide +kernel) ?_)⟩
  unfold HeadPasses; revert a; decide +kernel
theorem wit_barinit : ∀ a ∈ [1, 2], Acts (.barinit (tR 0 a 3)) tB tC (tV (.barinit (tR 0 a 3))) ∧ HasBar tB tC (tV (.barinit (tR 0 a 3))) 1 ∧ ∀ x ∈ tC.slices, ∀ l, (tB.activeLanes x 0).head? = some l →
    HeadPasses tB tC (tV (.barinit (tR 0 a 3))) x l ∧ 1 ≤ (tB.valA (tV (.barinit (tR 0 a 3))) x l).toNat % 2 ^ 32 ∧ (tB.valA (tV (.barinit (tR 0 a 3))) x l).toNat % 2 ^ 32 < 2 ^ 12 := by
  intro a ha
  refine ⟨by unfold Acts; revert a; decide +kernel, by unfold HasBar; revert a; decide +kernel, one_slice (first_lane _ 0 (by decide +kernel) ?_)⟩
  unfold HeadPasses; revert a; decide +kernel
theorem wit_barq : Acts (.barq (tR 9 0 3)) tB tC (tV (.barq (tR 9 0 3))) ∧ HasBar tB tC (tV (.barq (tR 9 0 3))) 1 ∧ ∀ x ∈ tC.slices, Passes tB tC (tV (.barq (tR 9 0 3))) x (tB.activeLanes x 0) := by
  unfold Acts HasBar Passes; decide +kernel
theorem wit_gbar : Acts (.gbar (tR 0 5 0)) tB tC (tV (.gbar (tR 0 5 0))) ∧ ∀ x ∈ tC.slices, ∀ l, (tB.activeLanes x 0).head? = some l →
    HeadPasses tB tC (tV (.gbar (tR 0 5 0))) x l ∧ (tB.valA (tV (.gbar (tR 0 5 0))) x l).toNat % 2 ^ 32 < (tB.packOf x).groupEntries ∧ (tB.packOf x).groups.contains ((tB.valA (tV (.gbar (tR 0 5 0))) x l).toNat % 2 ^ 32) = true := by
  unfold Acts HeadPasses; exact ⟨by decide +kernel, one_slice (first_lane _ 0 (by decide +kernel) (by decide +kernel))⟩

/-- tW with an arrival word of TARGET 4 and COUNT 2 at index 8191, the last of the allocation, that v8 names, and another at index 0 that v4 names; v9 is the largest TARGET or COUNT. -/
def tA : State := { tW.actAll ([.store (scratchKey 1 65528) (leBytes 8 (4 * 2 ^ 40 + 2 * 2 ^ 16 + 0xFFFF)) 0] ++ [0, 1, 2, 3].flatMap (fun l => [.reg (laneKey 128 l) 8 8191 false, .reg (laneKey 128 l) 4 0 false, .reg (laneKey 128 l) 9 0xFFFFFF false, .reg (laneKey 128 l) 10 0xFFFF false])) with log := [] }
theorem wit_arrival : (∀ i ∈ [Instr.arrvInit (tR 0 8 9), .arrvAdd (tR 0 8 9), .arrvAdd (tR 0 4 9), .arrvRd (tR 12 8 0), .await (tR 0 8 10), .await (tR 0 8 4), .awaitT (tR 12 8 10), .awaitT (tR 12 8 4)], Acts i tA tC (tV i) ∧ ArrivalOk tA tC (tV i))
    ∧ (∀ i ∈ [Instr.arrvInit (tR 0 8 9), .arrvAdd (tR 0 8 9), .arrvAdd (tR 0 4 9)], ∀ x ∈ tC.slices, ∀ l ∈ tA.activeLanes x 0, (tA.valB (tV i) none x l).toNat % 2 ^ 32 < 2 ^ 24) ∧ ∀ x ∈ tC.slices, packKey x = 1 := by
  unfold Acts ArrivalOk Passes; decide +kernel

/-- tW with clocks apart, writes to release, and a cached packet. -/
def tF : State := { tW.actAll [.raiseCk 0 5, .raiseObsv 0 9, .slice 128 (.maxws 7), .icache (icacheKey 0 1 0) [1, 2, 3]] with log := [] }
theorem wit_fences : ∀ i ∈ [Instr.fenceAcq (tR 0 0 2), .fenceRel (tR 0 0 2), .fenceAr (tR 0 0 5), .fenceAr (tR 0 0 1), .ifence (tR 0 0 2), .pbar (tR 0 0 3), .psync (tR 0 0 5), .fenceSp (tR 0 0 2)], Acts i tF tC (tV i) ∧ tC.slices ≠ [] ∧ ∀ x ∈ tC.slices, tF.coreOf x = 0 := by
  unfold Acts; decide +kernel

/-- An IADD that the next step may issue. -/
def tI : State := (State.reset.withFetchWord 32 0b0_001000_001010_000011_000100_000_0_010).tickAc
/-- A group that runs. -/
def runs : Plan → Bool
  | .run _ _ _ => true
  | _ => false
theorem runs_of {p : Plan} (h : runs p = true) : ∃ ms bytes pages, p = .run ms bytes pages := by
  cases p with
  | run ms bytes pages => exact ⟨ms, bytes, pages, rfl⟩
  | wait => cases h
  | trap ts => cases h
theorem wit_issueWaits : ∃ ms bytes pages, tI.plan 0 = .run ms bytes pages := runs_of (by decide +kernel)
/-! ### Witnesses: matrix -/

/-- Two BF16 operands in the scratchpad: A at 0 in v8, with 1.0 in element 0 of rows 0 and 32, B at 4096 in v16, with 2.0 in element 0 of row 0, and in v24 the descriptor of a drain to 8192 in FP32. -/
def tMat : State := { tS.actAll (tBlock 8 [0, 0, 64, 0, 0, 0] ++ tBlock 16 [4096, 0, 128, 0, 0, 0] ++ tBlock 24 [8192, 0, 256, 2, 0, 0, 0, 0]
  ++ [.store (scratchKey 1 0) [0x80, 0x3F] 0, .store (scratchKey 1 2048) [0x80, 0x3F] 0, .store (scratchKey 1 4096) [0x00, 0x40] 0, .el (elKey (tileKey 128 1) 0 0) (0x40490FDB, 0x3F800000) false]) with log := [] }
/-- The operation of an MMA on tile 1 of tMat. -/
def tMma : Mma :=
  { gang := 128, tile := tileKey 128 1, quad := 0, core := 0, slices := [(128, 1)], arows := [0, 1, 2, 3].map (fun n => ⟨n, 0, 64, 0⟩), fa := 0, fb := 0, bbase := 4096, ldb := 128, bscale := 0,
    sa := 1, sb := 1, m := 1, row0 := 0, neg := false, tb := false, acc := true, row := 0, ck := 0, prio := 0, since := 0 }
theorem wit_mma : Acts (.mma (tX 5 8 16 0)) (tExt tMat 40) (tCe 40) (tV (.mma (tX 5 8 16 0))) ∧ WholePasses (tExt tMat 40) (tCe 40) (tV (.mma (tX 5 8 16 0)))
    ∧ (tExt tMat 40).tileHere (gangOf (tExt tMat 40) (tCe 40)) ((tV (.mma (tX 5 8 16 0))).d % 4) = true
    ∧ (tExt tMat 40).mmaOf (tCe 40) (tV (.mma (tX 5 8 16 0))) ((tExt tMat 40).mlanes (tCe 40).slices 0) = .ok tMma := by
  unfold Acts WholePasses Passes; exact ⟨by decide +kernel, by decide +kernel, by decide +kernel, ok_is (by decide +kernel)⟩
theorem wit_tileWords : ∀ e ∈ [(Instr.mzero (tX 1 0 0 0), 1), (.mwr (tX 1 8 15 0), 1), (.mrd (tX 24 1 0 0), 1), (.mstat (tR 9 0 1), 1)], Acts e.1 tMat tC (tV e.1) ∧ WholePasses tMat tC (tV e.1) ∧ Placed tMat tC ∧ tMat.tileHere (gangOf tMat tC) e.2 = true := by
  unfold Acts WholePasses Passes Placed; decide +kernel

theorem wit_drain : let s := tExt tMat 1; let c := tCe 1; let v := tV (.mdrain (tX 5 24 0 0))
    Acts (.mdrain (tX 5 24 0 0)) s c v ∧ WholePasses s c v ∧ s.tileHere (gangOf s c) (v.d % 4) = true ∧ s.drainChecks v (s.mlanes c.slices v.pg) 1 0 = .ok false
    ∧ s.gangKey ((s.mlanes c.slices v.pg).headD ⟨0, 0, 0⟩).sl = gangOf s c ∧ ∃ ts, s.drainTest (drainAt s c v false) = .ok ts ∧ missingPages ts = [] := by
  unfold Acts WholePasses Passes
  refine ⟨by decide +kernel, by decide +kernel, by decide +kernel, ok_is (by decide +kernel), by decide +kernel, ?_⟩
  obtain ⟨ts, ht, hp⟩ := ok_of (p := fun ts => decide (missingPages ts = [])) (by decide +kernel : okWith ((tExt tMat 1).drainTest (drainAt (tExt tMat 1) (tCe 1) (tV (.mdrain (tX 5 24 0 0))) false)) (fun ts => decide (missingPages ts = [])) = true)
  exact ⟨ts, ht, of_decide_eq_true hp⟩

/-- tMat with a control word of MTLD, the scratchpad and row distance 4, in v2, base 2048 in v4, v5. -/
def tMtld : State := { tMat.actAll (tBlock 2 [2 ^ 31 + 4] ++ tBlock 4 [2048, 0]) with log := [] }
theorem wit_mtld : Acts (.mtld (tR 32 4 2)) tMtld tC (tV (.mtld (tR 32 4 2))) ∧ WholePasses tMtld tC (tV (.mtld (tR 32 4 2))) ∧ tMtld.mat.stale = []
    ∧ (∀ a ∈ tMtld.mlanes tC.slices 0, (tMtld.valB (tV (.mtld (tR 32 4 2))) tC.ext a.sl a.l).setWidth 32 = (0x80000004 : Word) ∧ (tMtld.valA (tV (.mtld (tR 32 4 2))) a.sl a.l).toNat % 2 ^ 32 = 2048
      ∧ ∃ l, tMtld.mtldTest 1 2048 4 a = .ok l)
    ∧ ∀ x ∈ tC.slices, Unseen tMtld x 1 4 (((tMtld.mlanes tC.slices 0).filter (fun a => decide (a.sl = x))).flatMap (fun a => (List.range 8).map (fun q => (a.l, mtldAddr 1 2048 4 a.n q)))) := by
  unfold Acts WholePasses Passes Unseen
  refine ⟨by decide +kernel, by decide +kernel, by decide +kernel, fun a ha => ⟨?_, ?_, ok_ex ?_⟩, by decide +kernel⟩ <;> (revert a; decide +kernel)
/-- An MWAIT for every tile, or an MWM for row 0 of tile 1 with the count in v8, that the next step may issue. -/
def tMatrixWait (w : Nat) : State := (State.reset.withFetchWord 32 w).tickAc
/-- A group that runs and holds a word of MWAIT or MWM with an active lane. -/
def runsWait (s : State) (fn : Nat) : Bool := match s.plan 0 with
  | .run ms _ _ => ms.any (fun m => decide (m.v.op = 0x35 ∧ m.v.fn = fn ∧ s.mlanes (s.byGslot (s.split 0).slices) m.v.pg ≠ []))
  | _ => false
theorem wit_matrixPlans : runsWait (tMatrixWait 0b0_110101_000000_000000_000101_001_0_000) 1 = true ∧ runsWait (tMatrixWait 0b0_110101_000000_001000_000001_010_0_000) 2 = true := by decide +kernel
theorem wit_matrixWaits : Acts (.mfence (tR 0 0 0)) tMat tC (tV (.mfence (tR 0 0 0))) ∧ (∀ i ∈ [Instr.mwait (tR 0 0 1), .mwm (tR 0 8 1)], Acts i tMat tC (tV i) ∧ (∀ x ∈ tC.slices, Passes tMat tC (tV i) x (tMat.activeLanes x 0))
      ∧ tMat.tileHere (gangOf tMat tC) ((tV i).b % 4) = true) := by
  unfold Acts Passes; decide +kernel
/-! ### Witnesses: copies -/

/-- A descriptor in v8 of a copy of 64 bytes from offset 0 to the last 64 bytes of the scratchpad, with n copies in queue 15 of core 0 and free slots. -/
def tCpy (n : Nat) : State :=
  let j : CopyJob := { pack := 1, slice := 128, d := mkDesc [0, 0, 0, 0, 64, 1, 0, 0] 1 1, ss := 1, sd := 1, ck := 0, epoch := 0 }
  { tS.actAll (tBlock 8 [0, 0, 65472, 0, 64, 1, 0, 0] ++ tBlock 2 [15 * 2 ^ 28] ++ tBlock 3 [0xFFF00003] ++ tBlock 4 [300] ++ (List.replicate n (.accept 15 j)) ++ [.slots 0 3 0]) with log := [] }
/-- The same in a cluster set of one core. -/
def tCpym : State := { tExt (tCpy 2) 0x101 with ctl := { (tCpy 2).ctl with packs := (tCpy 2).ctl.packs.map (fun e => (e.1, { e.2 with cluster := some 0 })) } }
theorem wit_cpy : ∀ n ∈ [0, 31, 32], let s := tExt (tCpy n) 5; let c := tCe 5; let v := tV (.cpy (tX 5 8 15 0))
    Acts (.cpy (tX 5 8 15 0)) s c v ∧ (s.mlanes c.split v.pg).head? = some ⟨0, 128, 0⟩ ∧ s.copyOperandTrap v (s.mlanes c.split v.pg) 128 = none ∧ s.partialGang c = false
    ∧ (s.packOf (c.slices.headD 0)).maint = (s.packOf 128).maint ∧ (if (s.packOf 128).maint then v.b % 32 ≠ 0 else v.b < 16) ∧ s.copyChecks 128 v.op (mkDesc (s.descWords v 128) 1 1) 1 1 0 = none := by
  unfold Acts; decide +kernel
/-- tCpy 0 in a maintenance launch: its B is a consumer mask, and its queue is queue 0 (R311). -/
def tMaint : State := let s := tExt (tCpy 0) 5; { s with ctl := { s.ctl with packs := s.ctl.packs.map (fun e => (e.1, { e.2 with maint := true })) } }
theorem wit_cpyMaint : let s := tMaint; let c := tCe 5; let v := tV (.cpy (tX 5 8 15 0))
    Acts (.cpy (tX 5 8 15 0)) s c v ∧ (s.mlanes c.split v.pg).head? = some ⟨0, 128, 0⟩ ∧ s.copyOperandTrap v (s.mlanes c.split v.pg) 128 = none ∧ s.partialGang c = false
    ∧ (s.packOf (c.slices.headD 0)).maint = true ∧ (s.packOf 128).maint = true ∧ v.b % 32 ≠ 0 ∧ s.copyChecks 128 v.op (mkDesc (s.descWords v 128) 1 1) 1 1 0 = none ∧ (s.cqueue 0).jobs = [] := by
  unfold Acts; decide +kernel
theorem wit_cpym : let s := tCpym; let c := tCe 0x101; let v := tV (.cpym (tX 5 8 15 0))
    Acts (.cpym (tX 5 8 15 0)) s c v ∧ (s.mlanes c.split v.pg).head? = some ⟨0, 128, 0⟩ ∧ s.copyOperandTrap v (s.mlanes c.split v.pg) 128 = none ∧ s.partialGang c = false
    ∧ (s.packOf (c.slices.headD 0)).maint = (s.packOf 128).maint ∧ (if (s.packOf 128).maint then v.b % 32 ≠ 0 else v.b < 16) ∧ s.copyChecks 128 v.op (mkDesc (s.descWords v 128) 1 2) 1 2 1 = none
    ∧ ∀ x ∈ maskCores 1, 0 < Sparse.get 0 s.cpy.slots (slotKey (s.packOf 128).core x) := by
  unfold Acts; decide +kernel

/-- Two copies in queue 15, of which one is complete. -/
def tTok : State :=
  { tCpy 2 with cpy := { (tCpy 2).cpy with queues := (tCpy 2).cpy.queues.map (fun e => (e.1, { e.2 with jobs := e.2.jobs.drop 1, flt := true, past := [{ seq := 0, state := 1, psn := true, tc := 44, code := 0, info := 0, va := 0, kept := false }] })) } }
theorem wit_copyWords : (∀ i ∈ [Instr.cpytst (tR 9 2 0), .cpywt (tR 0 2 0), .cpyq (tR 10 0 15), .cpycnl (tR 9 2 0)], Acts i tTok tC (tV i) ∧ ∀ x ∈ tC.slices, Passes tTok tC (tV i) x (tTok.activeLanes x 0))
    ∧ (∀ x ∈ tC.slices, ∀ l ∈ tTok.activeLanes x 0, (tTok.tokenOf (tTok.coreOf x) ((tTok.valA (tV (.cpywt (tR 0 2 0))) x l).toNat % 2 ^ 32)).state ≠ 2)
    ∧ (tTok.tokenOf 0 (tTok.tokenIn (tV (.cpytst (tR 9 2 0))) 128 0)).state = 1
    ∧ (∀ x ∈ tC.slices, ∀ l ∈ tTok.activeLanes x 0, tTok.jobOf 0 1 (tTok.tokenIn (tV (.cpycnl (tR 9 2 0))) x l) = none) := by
  unfold Acts Passes; decide +kernel
/-- A token of a copy that has not completed is named by v5. -/
def tTok2 : State := { tTok.actAll (tBlock 5 [15 * 2 ^ 28 + 1]) with log := [] }
theorem wit_cpycnl : Acts (.cpycnl (tR 9 5 0)) tTok2 tC (tV (.cpycnl (tR 9 5 0))) ∧ (∀ x ∈ tC.slices, Passes tTok2 tC (tV (.cpycnl (tR 9 5 0))) x (tTok2.activeLanes x 0))
    ∧ (tTok2.jobOf 0 1 (tTok2.tokenIn (tV (.cpycnl (tR 9 5 0))) 128 0)).isSome = true := by
  unfold Acts Passes; decide +kernel

theorem wit_cpystg : Acts (.cpystg (tR 0 4 0)) (tCpy 0) tC (tV (.cpystg (tR 0 4 0))) ∧ ∀ x ∈ tC.slices, packKey x = 1 ∧ ∀ l, ((tCpy 0).activeLanes x 0).head? = some l → HeadPasses (tCpy 0) tC (tV (.cpystg (tR 0 4 0))) x l := by
  unfold Acts HeadPasses; exact ⟨by decide +kernel, one_slice ⟨by decide +kernel, first_lane _ 0 (by decide +kernel) (by decide +kernel)⟩⟩
/-- tCpym, in which v3 names 15 slots of position 0. -/
def tRet : State := { (State.actAll { tCpym with run := { tCpym.run with cur := some tC } } (tBlock 3 [0xF0])) with log := [] }
theorem wit_cpystgRet : Acts (.cpystgRet (tR 1 3 0)) tRet tC (tV (.cpystgRet (tR 1 3 0))) ∧ ∀ x ∈ tC.slices, ∀ l, (tRet.activeLanes x 0).head? = some l → HeadPasses tRet tC (tV (.cpystgRet (tR 1 3 0))) x l ∧ (tRet.packOf x).cluster ≠ none := by
  unfold Acts HeadPasses; exact ⟨by decide +kernel, one_slice (first_lane _ 0 (by decide +kernel) (by decide +kernel))⟩
/-! ### Witnesses: remote -/

/-- A far page of device 5 of pod 0 at 2 MiB, a local descriptor in v8 of 128 bytes from there to VA 64, capability entries 0 for ranges and 1 for cores with every right, no length in v16, the name of the slice's own gang in v2 and the value 7 in v1. -/
def tRem : State :=
  let s := tS.actAll (tBlock 1 [7] ++ tBlock 8 [2 ^ 21, 0, 64, 0, 128, 0, 0, 0] ++ tBlock 16 [2 ^ 21, 0, 64, 0, 0, 0, 0, 0] ++ tBlock 2 [0, 0] ++ [.store 0x401008 (leBytes 8 (0xCCF + 5 * 2 ^ 16 + 2 ^ 60)) 0])
  { s with log := [], fab := { s.fab with caps := Sparse.set {} (Sparse.set {} [] 65 { ctl := 0xFD + 0xFFF * 2 ^ 44, base := 0, len := 0, allow := 128 }) 64 { ctl := 0xF9 + 0xFFF * 2 ^ 44, base := 0, len := 2 ^ 48, allow := 128 } } }
theorem wit_bulk : ∀ e ∈ [(Instr.rput (tX 0 8 0 0), 0), (.rget (tX 0 8 0 0), 1), (.rred (tX 0 8 0 0), 2), (.rput (tX 0 16 0 0), 0)], Acts e.1 tRem tC (tV e.1) ∧ (tRem.mlanes tC.split 0).head? = some ⟨0, 128, 0⟩
    ∧ tRem.copyOperandTrap (tV e.1) (tRem.mlanes tC.split 0) 128 = none ∧ tRem.partialGang tC = false ∧ ∃ as, tRem.bulkChecks (tV e.1) 128 e.2 = .ok (.go as none) := by
  intro e he
  refine ⟨by unfold Acts; revert e; decide +kernel, by decide +kernel, by revert e; decide +kernel, by decide +kernel, ?_⟩
  have h : okWith (tRem.bulkChecks (tV e.1) 128 e.2) (fun r => match r with
    | .go _ none => true
    | _ => false) = true := by revert e; decide +kernel
  obtain ⟨r, hr, hp⟩ := ok_of h
  match r, hr, hp with
  | .go as none, hr, _ => exact ⟨as, hr⟩
theorem wit_messages : (∀ i ∈ [Instr.name (tR 32 0 0), .rstat (tR 32 0 0)], Acts i tRem tC (tV i) ∧ ∀ x ∈ tC.slices, Passes tRem tC (tV i) x (tRem.activeLanes x 0))
    ∧ Acts (.rrcv (tR 48 0 7)) tRem tC (tV (.rrcv (tR 48 0 7))) := by
  unfold Acts Passes; decide +kernel
theorem wit_rrcv : ∀ x ∈ tC.slices, tRem.activeLanes x 0 ≠ [] → (tRem.slice x).holds.length + (((List.range 8).map (fun k => 48 + k)).filter (fun r => !(tRem.slice x).holds.any (fun h => decide (h.reg = r)))).length ≤ 8 := by decide +kernel
theorem wit_rstv : Acts (.rstv (tR 55 1 2)) (tExt tRem 1) (tCe 1) (tV (.rstv (tR 55 1 2))) ∧ (∀ x ∈ (tCe 1).slices, (tExt tRem 1).operandTrap { tV (.rstv (tR 55 1 2)) with form := { (tV (.rstv (tR 55 1 2))).form with b := .non } } none x ((tExt tRem 1).activeLanes x 0) = none)
    ∧ ((tExt tRem 1).mlanes (tCe 1).slices 0).head? = some ⟨0, 128, 0⟩ ∧ (tExt tRem 1).boundsTrap 128 (tV (.rstv (tR 55 1 2))).form.b 2 [0] = none ∧ (tExt tRem 1).psnLanes (tV (.rstv (tR 55 1 2))).bypass 128 (tV (.rstv (tR 55 1 2))).form.b 2 [0] = []
    ∧ ((tExt tRem 1).fieldVal (tV (.rstv (tR 55 1 2))).bypass 128 0 (tV (.rstv (tR 55 1 2))).form.b 2).toNat = 0 ∧ ((tExt tRem 1).cap 1 1).refuses [2] 6 0 0 0 none (some 0) 128 = false := by
  unfold Acts; decide +kernel
/-! ### Witnesses: the scheduler and the waits -/

/-- tS2 at a time, after some changes. -/
def tAt (ac : Nat) (as : List Act) : State := { tS2.actAll as with log := [], run := { tS2.run with ac := ac } }
/-- Both slices of tS2 wait at a mode 0 meet, out of the split tables. -/
def tMeet : State := tAt 9 [.slice 128 (.status (.meet 0 3 36 5)), .slice 129 (.status (.meet 0 3 36 7)), .split 0 {}]
theorem wit_meet : tMeet.canon = true ∧ tMeet.slicesOf 1 ≠ [] ∧ ∀ x ∈ tMeet.slicesOf 1, (tMeet.slice x).gang = 0 ∧ (tMeet.slice x).stop = false ∧ (tMeet.slice x).only = none ∧ (tMeet.slice x).gslot < 8 ∧ tMeet.freeEntries (tMeet.quadOf x) ≠ []
    ∧ ∃ since, (tMeet.slice x).status = .meet 0 3 36 since := by
  refine ⟨by decide +kernel, by decide +kernel, fun x hx => ?_⟩
  have h : x = 128 ∨ x = 129 := by revert x; decide +kernel
  rcases h with rfl | rfl
  · exact ⟨by decide +kernel, by decide +kernel, by decide +kernel, by decide +kernel, by decide +kernel, 5, by decide +kernel⟩
  · exact ⟨by decide +kernel, by decide +kernel, by decide +kernel, by decide +kernel, by decide +kernel, 7, by decide +kernel⟩
/-- Two slices have waited 256 ac at a mode 1 meet. -/
def tMeet1 : State := tAt 261 [.slice 128 (.status (.meet 1 3 36 5)), .slice 129 (.status (.meet 1 3 36 5)), .split 0 {}]
theorem wit_meet1 : tMeet1.canon = true ∧ (∀ x ∈ tMeet1.slicesOf 1, ∃ since, (tMeet1.slice x).status = .meet 1 3 36 since) ∧ (∃ x ∈ tMeet1.slicesOf 1, ∃ since, (tMeet1.slice x).status = .meet 1 3 36 since ∧ since + 256 ≤ tMeet1.run.ac)
    ∧ ∃ i, i < 4 ∧ tMeet1.fitOn 1 ((tMeet1.pack 1).core * 4 + i) ((tMeet1.slicesOf 1).take 8) ≠ [] := by
  refine ⟨by decide +kernel, fun x hx => ⟨5, ?_⟩, ⟨128, by decide +kernel, 5, by decide +kernel⟩, 0, by decide +kernel, by decide +kernel⟩
  revert x; decide +kernel
/-- A split with a held set, at some time. -/
def tHeld (ac : Nat) : State := tAt ac [.split 0 { slices := [128], gang := 128, held := [{ slices := [129], since := 0 }] }]
theorem wit_held : ∀ ac ∈ [4095, 4096], (tHeld ac).canon = true ∧ ((tHeld ac).split 0).slices ≠ [] ∧ ((tHeld ac).split 0).held = [{ slices := [129], since := 0 }] ∧ (∀ x ∈ [129], (tHeld ac).inSplit x = true) ∧ ((tHeld ac).places [129]).length ≤ 1
    ∧ (∀ e', 129 ∉ ((tHeld ac).split e').slices) ∧ (tHeld ac).run.ac = ac ∧ (tHeld ac).freeEntries (0 / 64) ≠ [] := by
  intro ac hac
  have h : (tHeld ac).ctl.splits = [(0, { slices := [128], gang := 128, held := [{ slices := [129], since := 0 }] })] := by revert ac; decide +kernel
  refine ⟨by revert ac; decide +kernel, by revert ac; decide +kernel, by revert ac; decide +kernel, by revert ac; decide +kernel, by revert ac; decide +kernel, fun e' => ?_, by revert ac; decide +kernel, by revert ac; decide +kernel⟩
  unfold State.split; rw [h]
  by_cases he : e' = 0
  · subst he; decide
  · simp [Sparse.get, he]
theorem wit_promotion : (tHeld 4096).canon = true ∧ ((tHeld 4096).split 0).last + 4096 ≤ (tHeld 4096).run.ac ∧ ((tHeld 4096).split 0).promoted = false ∧ ((tHeld 4096).split 0).slices ≠ [] := by decide +kernel
theorem wit_spawnRoom : let s := { tSpawn 254 with ctl := (tAt 0 [.slice 128 (.status (.spawnRoom 256 2))]).ctl }
    s.canon = true ∧ (s.slice 128).here = true ∧ (s.slice 128).status = .spawnRoom 256 2 ∧ (s.bin 256).recs.length + 2 ≤ 256 := by decide +kernel
theorem wit_copySpace : let s := { tCpy 31 with ctl := (tAt 0 [.slice 128 (.status (.copySpace 15 1))]).ctl }
    s.canon = true ∧ (s.slice 128).here = true ∧ (s.slice 128).status = .copySpace 15 1 ∧ (s.cqueue 15).jobs.length < 32 ∧ ∀ x ∈ maskCores 1, 0 < Sparse.get 0 s.cpy.slots (slotKey (s.coreOf 128) x) := by decide +kernel
/-- Slice 128 waits at a barrier whose phase has moved on at time 6, slice 129 at a group. -/
def tBar : State := tAt 9 [.slice 128 (.status (.barrier 3 0)), .bar 19 { phase := 1, exp := 1 }, .tc 19 6, .raiseObsv 0 4, .slice 129 (.status (.group 0 0))]
theorem wit_barrierWake : tBar.canon = true ∧ (tBar.slice 128).status = .barrier 3 0 ∧ (tBar.bar (packKey 128 * 16 + 3)).phase ≠ 0 := by decide +kernel
theorem wit_groupPhase : let s := tAt 9 [.slice 128 (.status (.group 0 0)), .slice 129 (.status (.group 0 0)), .raiseObsv 0 4]
    s.canon = true ∧ s.members 1 0 ≠ [] ∧ ∀ p ∈ s.members 1 0, ∀ x ∈ s.slicesOf p, (s.slice x).gone = false → (s.slice x).status = .group 0 (s.groupPhase 1 0) := by decide +kernel
/-- Slice 128 awaits the arrival word at 0, with a timeout at 9 ac and a destination. -/
def tAwait (gen : Nat) (u : Option Nat) : State := tAt 9 [.store (scratchKey 1 0) (leBytes 8 (2 ^ 40 + gen)) 0, .tc (2 ^ 60 + scratchKey 1 0) 6, .slice 128 (.status (.await [(2, scratchKey 1 0, 0)] u [(2, 9), (3, 9)]))]
theorem wit_awaitWake : (tAwait 1 none).canon = true ∧ ((tAwait 1 none).slice 128).status = .await [(2, scratchKey 1 0, 0)] none [(2, 9), (3, 9)]
    ∧ (∀ x ∈ [(2, scratchKey 1 0, 0)], (tAwait 1 none).dword x.2.1 % 2 ^ 16 ≠ x.2.2) ∧ ∀ d ∈ [(2, 9), (3, 9)], d.1 < 4 ∧ d.2 < 256 := by decide +kernel
theorem wit_awaitTimeout : (tAwait 0 (some 9)).canon = true ∧ ((tAwait 0 (some 9)).slice 128).status = .await [(2, scratchKey 1 0, 0)] (some 9) [(2, 9), (3, 9)] ∧ 9 ≤ (tAwait 0 (some 9)).run.ac
    ∧ (∃ x ∈ [(2, scratchKey 1 0, 0)], (tAwait 0 (some 9)).dword x.2.1 % 2 ^ 16 = x.2.2) ∧ ∀ d ∈ [(2, 9), (3, 9)], d.1 < 4 ∧ d.2 < 256 := by decide +kernel
/-! ### Witnesses: memory agents -/

/-- tS at time 640 with one request, of slice 128's lane 1, instruction 5. -/
def tReq (kind : ReqKind) (st : ReqState) (key size : Nat) (more : List Act) : State :=
  { tS.actAll (.addReq { slice := 128, lane := 1, iid := 5, core := 0, kind := kind, state := st, va := 64, key := key, size := size, data := [1, 2, 3, 4], ck := 3, asid := 1 } :: more) with log := [], run := { tS.run with ac := 640 } }
/-- A request of a state. -/
def tThe (s : State) (id : Nat) : Req := (s.req id).getD { slice := 0, lane := 0, iid := 0, core := 0, kind := .store, state := .parked, va := 0, key := 0, size := 0 }
/-- A load that has been served. -/
def tServed : State := tReq (.load 3 [8, 255]) (.served [1, 2, 3, 4, 5, 6, 7, 8] 77 true) 0x800040 8 []
theorem wit_loadReturn : tServed.canon = true ∧ tServed.req 0 = some (tThe tServed 0) ∧ (tThe tServed 0).state = .served [1, 2, 3, 4, 5, 6, 7, 8] 77 true ∧ (tThe tServed 0).kind = .load 3 [8, 255] ∧ (tThe tServed 0).pipe = false
    ∧ (tThe tServed 0).lane < 4 ∧ [8, 255].Nodup ∧ ∀ d ∈ [8, 255], d < 256 := by decide +kernel
/-- A load at its home, of a line written at time 20. -/
def tLoad : State := tReq (.load 2 [8]) .queued 0x800040 4 [.store 0x800040 [9, 8, 7, 6] 0, .times (0x800040 / 64) 20 20]
theorem wit_homeRead : tLoad.canon = true ∧ tLoad.req 0 = some (tThe tLoad 0) ∧ (tThe tLoad 0).kind = .load 2 [8] ∧ (tThe tLoad 0).pipe = false ∧ tLoad.turn 0 (tThe tLoad 0) = true := by decide +kernel
def tLdfe : State := tReq (.ldfe [8]) .queued (scratchKey 1 64) 4 [.full (scratchKey 1 64 / 4) true, .store (scratchKey 1 64) [9, 8, 7, 6] 0]
theorem wit_ldfeRead : tLdfe.canon = true ∧ tLdfe.req 0 = some (tThe tLdfe 0) ∧ (tThe tLdfe 0).kind = .ldfe [8] ∧ tLdfe.turn 0 (tThe tLdfe 0) = true ∧ tLdfe.allFull (tThe tLdfe 0).key (tThe tLdfe 0).size = true := by decide +kernel
def tStore : State := tReq .store .queued 0x800040 4 [.times (0x800040 / 64) 20 52]
def tAtom : State := tReq (.atom 0 0 [8]) .queued 0x800040 4 [.store 0x800040 [255, 8, 7, 6] 0]
theorem wit_homeWrite : ∀ s ∈ [tStore, tAtom], s.canon = true ∧ s.req 0 = some (tThe s 0) ∧ s.turn 0 (tThe s 0) = true ∧ s.runOf 0 (tThe s 0) = [(0, tThe s 0)] ∧ ((tThe s 0).kind = .store ∨ (tThe s 0).kind = .atom 0 0 [8])
    ∧ s.snapKey (tThe s 0).key = false ∧ (dspKey ≤ (tThe s 0).key ∨ s.wsFits (lineOf (tThe s 0).key) (max (tThe s 0).ck (s.rtsOf (lineOf (tThe s 0).key)) + 1) = true) := by decide +kernel
def tAck : State := tReq (.atom 0 0 [8]) (.done 99 [1, 2, 3, 4] false) 0x800040 4 []
theorem wit_ack : tAck.canon = true ∧ tAck.req 0 = some (tThe tAck 0) ∧ (tThe tAck 0).state = .done 99 [1, 2, 3, 4] false ∧ tAck.ackHeld 0 = false ∧ (tThe tAck 0).lane < 4 ∧ (tThe tAck 0).dsts.Nodup ∧ ∀ d ∈ (tThe tAck 0).dsts, d < 256 := by decide +kernel
/-- A request parked on a page that is there now, and a CALL that parked on its window's page. -/
def tParked : State := tReq (.load 2 [8]) .parked 0 4 []
theorem wit_parked : tParked.canon = true ∧ tParked.req 0 = some (tThe tParked 0) ∧ (tThe tParked 0).state = .parked ∧ tParked.parkedWith (tThe tParked 0) = [(0, tThe tParked 0)]
    ∧ (tThe tParked 0).kind = .load 2 [8] ∧ tParked.translate (tThe tParked 0).lane (tThe tParked 0).slice (tThe tParked 0).va = .ok (.page ⟨0xCC3 + demoPage + 2 ^ 60, 2, 0x401000⟩ 64)
    ∧ (tThe tParked 0).va < tParked.lpVa (tThe tParked 0).slice (tThe tParked 0).lane 0 ∧ tParked.watchTrapAs (tThe tParked 0).quiet (tThe tParked 0).slice 1 (max (tThe tParked 0).size 1) [((tThe tParked 0).lane, (tThe tParked 0).va)] = none :=
  ⟨by decide +kernel, by decide +kernel, by decide +kernel, by decide +kernel, by decide +kernel, ok_is (by decide +kernel), by decide +kernel, by decide +kernel⟩
def tAgain : State := { tS.actAll [.addReq { slice := 128, lane := 0, iid := 5, core := 0, kind := .again (.push 4096 36), state := .parked, va := tS.lpVa 128 0 4088, key := 0, size := 8 }] with log := [] }
theorem wit_again : tAgain.canon = true ∧ tAgain.req 0 = some (tThe tAgain 0) ∧ (tThe tAgain 0).state = .parked ∧ (tThe tAgain 0).kind = .again (.push 4096 36)
    ∧ ∀ x ∈ tAgain.wholeWith (tThe tAgain 0), tAgain.wholeTest (x.2.map (fun e => e.2)) ≠ .ok none := by
  refine ⟨by decide +kernel, by decide +kernel, by decide +kernel, by decide +kernel, fun x hx h => ?_⟩
  have hs : okWith (tAgain.wholeTest (x.2.map (fun e => e.2))) (fun o => o.isSome) = true := by clear h; revert x; decide +kernel
  rw [h] at hs; cases hs
theorem wit_buffers : tStore.canon = true ∧ 0 < tStore.ticksDue 0 := by decide +kernel
/-- A dirty line of SCM, a copy that ended early, a sweep under way, and a clock about to reach its limit. -/
def tOld : State := { tReq .store .queued 0x800040 4 [.store (scmBase + 64) [5, 6] 0, .dirty ((scmBase + 64) / 64) true, .copy 4 (some { data := [], wts := 0, rts := 9, fill := 0, snt := 0, psn := false }), .die 0 { base := 10, sweep := some 5 }, .raiseCk 40 (2 ^ 19 - 10), .raiseObsv 40 7] with log := [] }
theorem wit_agents : tOld.canon = true ∧ Sparse.get false tOld.mem.dirty ((scmBase + 64) / 64) = true ∧ (tOld.die 0).sweep = some 5 ∧ 0 < tOld.ticksDue 40 ∧ (tOld.die (dieOfCore 40)).sweep = none ∧ (tOld.die (dieOfCore 40)).base + 2 ^ 19 ≤ (tOld.core 40).ck + tOld.ticksDue 40 := by decide +kernel
/-- The page at 2 MiB of tM, which is not resident. -/
def tGone : Page := ⟨0xC1 + 0xA00000 + 2 ^ 60, 2, 0x401008⟩
theorem wit_migration : tM.canon = true ∧ tM.walk 1 0x200000 = .ok tGone ∧ tGone.res = false ∧ tGone.tier ≤ 1 ∧ tGone.level ≤ 2 ∧ Sparse.get none tM.maps.handles tGone.frame = some (0, 0xA0)
    ∧ tM.takeFrame tGone.tier tGone.level (stackOrder tGone.tier (tM.faultDie 1 0x200000 0x200000)) = some (0, 0xC0) ∧ keyExists (frameKey 0 (0xA0 + 31)) = true :=
  ⟨by decide +kernel, ok_is (by decide +kernel), by decide +kernel, by decide +kernel, by decide +kernel, by decide +kernel, by decide +kernel, by decide +kernel⟩
/-- The resident page at 4 MiB of tM, and tM with its write-protect window open for a move. -/
def tHere : Page := ⟨0xC3 + 0x1000000 + 2 ^ 60, 2, 0x401010⟩
def tMove : State := { tM with maps := { tM.maps with moves := [(1, 0x400000, 0, 0)] } }
theorem wit_pageMove : (tM.canon = true ∧ tM.walk 1 0x400000 = .ok tHere ∧ tHere.mayMove 0 = true ∧ tM.snapBusy 1 0x400000 0x200000 = false ∧ tM.maps.moves.contains (1, 0x400000, 0, 0) = false ∧ tHere.wpw = false)
    ∧ tMove.canon = true ∧ tMove.walk 1 0x400000 = .ok tHere ∧ tMove.snapBusy 1 0x400000 0x200000 = false ∧ tMove.maps.moves.contains (1, 0x400000, 0, 0) = true
    ∧ tMove.pageQuiet (frameKey tHere.tier tHere.frame) 0x200000 = true ∧ tMove.takeFrame 0 tHere.level [0] = some (0, 0xC0) :=
  ⟨⟨by decide +kernel, ok_is (by decide +kernel), by decide +kernel, by decide +kernel, by decide +kernel, by decide +kernel⟩, by decide +kernel, ok_is (by decide +kernel), by decide +kernel, by decide +kernel, by decide +kernel, by decide +kernel⟩
/-! ### Witnesses: engines -/

/-- tMat at time 4 with one MMA, whose engine is in some state. -/
def tEng (m : Mma) (e : Engine) : State := { tMat.actAll [.setMma 0 (some m), .engine 0 e] with log := [], run := { tMat.run with ac := 4 } }
/-- An engine that runs MMA 0, and one that holds a token and has it next. -/
def tBusy : Engine := { running := some 0, token := true }
theorem wit_token : let s := tEng tMma { queue := [0] }
    s.canon = true ∧ s.idleToken 0 = none ∧ s.tokenFor 0 = some 0 ∧ (s.die 0).held < (s.die 0).pool := by decide +kernel
theorem wit_engineStart : let s := tEng tMma { queue := [0], token := true }
    s.canon = true ∧ (s.engine 0).running = none ∧ (s.engine 0).token = true ∧ (s.engine 0).queue = [0] ∧ s.mma? 0 = some tMma ∧ (∀ e ∈ s.mmas, e.2.gang = tMma.gang → e.2.parked = none) ∧ (s.pack (tMma.gang / 128)).freeze = false := by decide +kernel
/-- tMma with A at a VA. -/
def tMmaAt (va : Nat) : Mma := { tMma with sa := 0, arows := [0, 1, 2, 3].map (fun n => ⟨n, va, 64, 0⟩) }
/-- tEng with the pages of tM. -/
def tEngM (m : Mma) : State := { tEng m tBusy with mem := tM.mem, maps := tM.maps }
theorem wit_blockEnd : ((tEng tMma tBusy).canon = true ∧ ((tEng tMma tBusy).engine 0).running = some 0 ∧ (tEng tMma tBusy).mma? 0 = some tMma ∧ ((tEng tMma tBusy).engine 0).blockAt + 4 * tMma.m ≤ (tEng tMma tBusy).run.ac ∧ (tEng tMma tBusy).drainsBefore 0 tMma = false
      ∧ (∃ acts, (tEng tMma tBusy).blockActs tMma = .ok acts) ∧ (tEng tMma tBusy).mat.drains = [] ∧ 0 ∈ tMma.blockRows
      ∧ ∃ as bs, allOk ((List.range tMma.k).map (fun k => (tEng tMma tBusy).elemA tMma 0 k)) = .ok as ∧ allOk ((List.range tMma.k).map (fun k => (tEng tMma tBusy).elemB tMma k 0)) = .ok bs ∧ (as ++ bs).any (fun x => x.changed) = false)
    ∧ (tEngM (tMmaAt 0x200000)).canon = true ∧ (tEngM (tMmaAt 0x200000)).mma? 0 = some (tMmaAt 0x200000) ∧ (tEngM (tMmaAt 0x200000)).blockActs (tMmaAt 0x200000) = .error (.park 0x200000)
      ∧ ((tEngM (tMmaAt 0x200000)).engine 0).running = some 0 ∧ ((tEngM (tMmaAt 0x200000)).engine 0).blockAt + 4 * (tMmaAt 0x200000).m ≤ (tEngM (tMmaAt 0x200000)).run.ac ∧ (tEngM (tMmaAt 0x200000)).drainsBefore 0 (tMmaAt 0x200000) = false := by
  obtain ⟨as, ha, pa⟩ := ok_of (p := fun l : List OpVal => !l.any (fun x => x.changed)) (by decide +kernel : okWith (allOk ((List.range tMma.k).map (fun k => (tEng tMma tBusy).elemA tMma 0 k))) (fun l => !l.any (fun x => x.changed)) = true)
  obtain ⟨bs, hb, pb⟩ := ok_of (p := fun l : List OpVal => !l.any (fun x => x.changed)) (by decide +kernel : okWith (allOk ((List.range tMma.k).map (fun k => (tEng tMma tBusy).elemB tMma k 0))) (fun l => !l.any (fun x => x.changed)) = true)
  refine ⟨⟨by decide +kernel, by decide +kernel, by decide +kernel, by decide +kernel, by decide +kernel, ok_ex (by decide +kernel), by decide +kernel, by decide +kernel, as, bs, ha, hb, ?_⟩, by decide +kernel, by decide +kernel, err_is (by decide +kernel), by decide +kernel, by decide +kernel, by decide +kernel⟩
  simp only [Bool.not_eq_true'] at pa pb
  rw [List.any_append, pa, pb]; rfl
theorem wit_mmaResume : let m := { tMma with parked := some 64 }; let s := tEng m {}
    s.canon = true ∧ s.mma? 0 = some m ∧ m.parked = some 64 ∧ (s.pack (m.gang / 128)).here = true ∧ ∀ a, s.opTarget m 0 64 ≠ .error (.park a) := by
  refine ⟨by decide +kernel, by decide +kernel, by decide +kernel, by decide +kernel, fun a h => ?_⟩
  have h2 : okWith ((tEng { tMma with parked := some 64 } {}).opTarget { tMma with parked := some 64 } 0 64) (fun _ => true) = true := by decide +kernel
  rw [h] at h2; cases h2
/-- The slice of a suspended MMA stands at a group boundary, or waits. -/
def tSusp (st : Status) : State := let s := tEngM (tMmaAt 0x4000000000); { (s.actAll [.slice 128 (.status st)]) with log := [] }
theorem wit_mmaSuspend : ∀ st ∈ [Status.run, .barrier 3 0], let m := tMmaAt 0x4000000000; let s := tSusp st
    s.canon = true ∧ s.mma? 0 = some m ∧ (s.engine m.quad).running = some 0 ∧ s.blockActs m = .error (.fault ⟨0x0D, 0, 0x4000000000⟩) ∧ (m.slices.map (fun e => e.1)).Nodup ∧ s.suspended m = [128] ∧ s.atBoundary 128 = decide (st = .run)
      ∧ ∀ sl ∈ s.suspended m, hmOf (s.slice sl).trapcause = false ∧ (s.packOf sl).handler ≠ 0 ∧ Unwatched s sl := by
  intro st hst
  refine ⟨by revert st; decide +kernel, by revert st; decide +kernel, by revert st; decide +kernel, err_is (by revert st; decide +kernel), by decide +kernel, by revert st; decide +kernel, by revert st; decide +kernel, fun sl h => ?_⟩
  have hs : sl = 128 := by revert st sl; decide +kernel
  subst hs
  exact ⟨by revert st; decide +kernel, by revert st; decide +kernel, unwatched _ _ (by revert st; decide +kernel)⟩

/-- A copy of 64 bytes from the scratchpad to VA 0x800, at time 9. -/
def tJob : CopyJob := { pack := 1, slice := 128, d := mkDesc [0, 0, 0x800, 0, 64, 1, 0, 0] 1 0, ss := 1, sd := 0, ck := 9, epoch := 0 }
/-- tM with one copy in queue 15 of core 0. -/
def tQ (j : CopyJob) (park : Bool) : State := { tM with cpy := { queues := [(15, { jobs := [j], count := 1, park := park })], uid := 1 } }
theorem wit_chunkStart : ∀ j ∈ [tJob, { tJob with d := mkDesc [0, 0, 0x200000, 0, 64, 1, 0, 0] 1 0 }, { tJob with d := mkDesc [0, 0, 0, 1, 64, 1, 0, 0] 1 0 }],
    (tQ j false).canon = true ∧ (tQ j false).nextQueue 0 = some 15 ∧ ((tQ j false).cqueue (queueKey 0 15)).jobs = [j] := by decide +kernel
theorem wit_queueResume : (tQ tJob true).canon = true ∧ ((tQ tJob true).cqueue (queueKey 0 15)).jobs = [tJob] ∧ ((tQ tJob true).cqueue (queueKey 0 15)).park = true ∧ (tQ tJob true).chunkOf tJob ≠ .park := by decide +kernel
/-- The one part of tJob, to be read, and read. -/
def tPart : Part := { pos := 0, len := 64, va := 0x800, src := some { key := scratchKey 1 0, len := 64, keyid := 0, ty := 0, psn := false }, dst := [(0x800800, 0)], keyid := 0, persist := false, hb := false, lapped := [] }
def tPart2 : Part := { tPart with data := some (List.replicate 64 7, true) }
def tFly (p : Part) : CopyJob := { tJob with next := 1, flight := [(0, [p])] }
theorem wit_chunkRead : let s := tQ (tFly tPart) false
    s.canon = true ∧ (s.cqueue (queueKey 0 15)).jobs = [tFly tPart] ∧ (tFly tPart).flight = [(0, [tPart])] ∧ tPart.data = none ∧ tPart.src.isSome = true ∧ s.dev.ide = false ∧ s.leaseCopy 0 (lineOf (scratchKey 1 0)) = none := by decide +kernel
theorem wit_chunkWrite : let s := tQ (tFly tPart2) false
    s.canon = true ∧ (s.cqueue (queueKey 0 15)).jobs = [tFly tPart2] ∧ (tFly tPart2).flight = [(0, [tPart2])] ∧ tPart2.data = some (List.replicate 64 7, true) ∧ tPart2.dst = [(0x800800, 0)] ∧ (tFly tPart2).mask = 0 ∧ s.dev.ide = false
      ∧ s.snapKey 0x800800 = false ∧ s.wsFits (lineOf 0x800800) (max (tFly tPart2).ck (s.rtsOf (lineOf 0x800800) + 1)) = true := by decide +kernel
/-- A copy whose writes are done and that arrives at barrier register 3, or raises arrival word 2. -/
def tDone (kind : Nat) : CopyJob := { tJob with d := { tJob.d with kind := kind, tgt := if kind = 1 then 3 else 2 }, next := 1, tc := 33, psn := true }
theorem wit_copyComplete : ∀ k ∈ [0, 1, 2], let s := tQ (tDone k) false
    s.canon = true ∧ (s.cqueue (queueKey 0 15)).jobs = [tDone k] ∧ (tDone k).flight = [] ∧ (tDone k).lines = [] ∧ (tDone k).d.chunks ≤ (tDone k).next ∧ (tDone k).d.pord = false ∧ (tDone k).consumers / 4 % 2 = 0 ∧ (tDone k).mask = 0
      ∧ (s.pack (tDone k).pack).here = true ∧ ∃ x ∈ s.slicesOf (tDone k).pack, (s.slice x).gone = false := by decide +kernel
/-- A schedule entry that has its turn. -/
def tEntry : SchedEntry := { desc := [0, 0, 0x800, 0, 64, 1, 0, 0], sstep := 0, dstep := 64, stage := 0, queue := 3, ss := 1, sd := 0, refill := false, cons := 0 }
def tSched : State := { tM with ctl := { tM.ctl with packs := tM.ctl.packs.map (fun e => (e.1, { e.2 with sched := [tEntry], index := 2, stage := 1, fired := [0] })) } }
theorem wit_refill : tSched.canon = true ∧ (tSched.pack 1).sched[0]? = some tEntry ∧ tSched.refillReady 1 0 = true := by decide +kernel
/-! ### Witnesses: the fabric, the persist queues and the windows -/

/-- A place with a persist flag that is clear. -/
def placed : Place → Bool
  | .at_ _ _ _ _ pe _ _ => !pe
  | _ => false
theorem placed_at {p : Place} (h : placed p = true) : ∃ key id ty psn hb acts, p = .at_ key id ty psn false hb acts := by
  cases p with
  | at_ key id ty psn pe hb acts => cases pe with
    | false => exact ⟨key, id, ty, psn, hb, acts, rfl⟩
    | true => cases h
  | park => cases h
  | fault c => cases h
/-- A remote access of 8 bytes of tenant 1, and tM with it waiting. -/
def tRA (kind va : Nat) : RemoteAccess := { pod := 0, device := 7, tag := 3, asid := 1, va := va, kind := kind, size := 8, aop := 0, aw := 0, data := [1, 2, 3], op2 := [] }
def tAcc (a : RemoteAccess) : State := { tM with fab := { tM.fab with access := [(a, none)] } }
theorem wit_remoteAccess : (tM.canon = true ∧ ∀ e ∈ tM.fab.access, e.1 ≠ tRA 0 64)
    ∧ (∀ k ∈ [0, 1], (tAcc (tRA k 64)).canon = true ∧ (tAcc (tRA k 64)).fab.access = [(tRA k 64, none)] ∧ (tAcc (tRA k 64)).dev.ide = false ∧ (tAcc (tRA k 64)).wsFits (lineOf 0x800040) (max (tAcc (tRA k 64)).coh.fck ((tAcc (tRA k 64)).rtsOf (lineOf 0x800040) + 1)) = true
      ∧ ∃ key id ty psn hb acts, (tAcc (tRA k 64)).tenantPlace 1 64 (decide (k ≠ 0)) = .at_ key id ty psn false hb acts)
    ∧ (tAcc (tRA 0 (2 ^ 57))).tenantPlace 1 (2 ^ 57) false = .fault ⟨0x0D, 2, 2 ^ 57⟩ := by
  refine ⟨by decide +kernel, fun k hk => ⟨?_, ?_, ?_, ?_, placed_at ?_⟩, by decide +kernel⟩ <;> (revert k; decide +kernel)

/-- A request of another device's memory, at time 9, due at 9. -/
def tFar (k : ReqKind) : State := { tM.actAll [.addReq { slice := 128, lane := 3, iid := 5, core := 0, kind := k, state := .queued, va := 64, key := farBase, size := 4, tier := 3, due := some 9, asid := 1 }, .gang 128 { tM.gang 128 with rstatus := 0x101 }] with log := [], run := { tM.run with time := 9 } }
theorem wit_remoteResponse : ∀ k ∈ [ReqKind.load 2 [255], .store], (tFar k).canon = true ∧ (tFar k).req 0 = some (tThe (tFar k) 0) ∧ (tThe (tFar k) 0).tier = 3 ∧ (tThe (tFar k) 0).state = .queued ∧ (tFar k).mayLeave (tThe (tFar k) 0) = true ∧ (tThe (tFar k) 0).lane < 4
    ∧ (∀ d ∈ (tThe (tFar k) 0).dsts, d < 256) ∧ (tThe (tFar k) 0).kind = k ∧ (tThe (tFar k) 0).due = some 9 ∧ 9 ≤ (tFar k).run.time := by decide +kernel
/-- tM with a bulk operation whose packet 0 is on its way. -/
def tOp (op : Nat) : BulkOp := { id := 4, pack := 1, slice := 128, chan := 0, op := op, red := 0, coef := 0, remote := 2 ^ 21, loc := 64, len := 128, rword := none, lword := none, low := false, pod := 0, dev := 5, group := none, ck := 0, next := 1, pkts := [{ no := 0, va := 2 ^ 21, loc := 64, len := 128, stage := .sent }] }
def tBulk (op : Nat) : State := { (tFar (.bulk 4 0)) with fab := { tM.fab with bulk := [tOp op], nextBulk := 5 } }
theorem wit_bulkAck : ∀ op ∈ [0, 1], (tBulk op).canon = true ∧ (tBulk op).reqs.find? (fun e => decide (e.2.kind = .bulk 4 0)) = some (0, tThe (tBulk op) 0) ∧ (tBulk op).bulk? 4 = some (tOp op) ∧ (tOp op).pkts.find? (fun p => decide (p.no = 0)) = some { no := 0, va := 2 ^ 21, loc := 64, len := 128, stage := .sent }
    ∧ (tOp op).fw = none ∧ (tOp op).lword = none := by decide +kernel
/-- A message for register 48 of this slice's home gang, with its sender's request; the slice holds the register, or not. -/
def tMsg : Message := { tag := 0, sender := 128, name := 0, reg := 48, mask := 15, vals := [4, 5, 6, 7], psn := 2, tm := some 5, rel := false }
def tMail (hs : List Hold) : State := { (tFar .message).actAll [.slice 128 (.holds hs)] with log := [], fab := { tM.fab with msgs := [tMsg] } }
theorem wit_message : (∀ hs ∈ [[({ reg := 48, mask := 15 } : Hold)], []], (tMail hs).canon = true ∧ (tMail hs).fab.msgs.contains tMsg = true ∧ (tMail hs).messageTurn tMsg = true ∧ (tMail hs).named tMsg.name = some 1 ∧ ((tMail hs).pack 1).here = true ∧ (tMail hs).req tMsg.tag = some (tThe (tMail hs) 0) ∧ tMsg.reg < 256
      ∧ (∃ x ∈ (tMail hs).slicesOf 1, ((tMail hs).slice x).gone = false ∧ ((tMail hs).slice x).home = tMsg.name.toNat / 2 ^ 36 % 16) ∧ (tMail hs).partsFor tMsg 1 ≠ [] ∧ ((tMail hs).inbox 0).length + ((tMail hs).partsFor tMsg 1).length ≤ 64)
    ∧ (∀ x ∈ (tMail [{ reg := 48, mask := 15 }]).partsFor tMsg 1, ∃ h ∈ ((tMail [{ reg := 48, mask := 15 }]).slice x.slice).holds, h.reg = tMsg.reg)
    ∧ ∀ x ∈ (tMail []).partsFor tMsg 1, ∀ h ∈ ((tMail []).slice x.slice).holds, h.reg ≠ tMsg.reg := by decide +kernel
/-- An inbound put packet, and tM with it here, its one line unwritten. -/
def tPkt : BulkPacket := { pod := 0, device := 7, tag := 3, asid := 1, op := 0, red := 0, va := 64, len := 8, count := 1, raise := none, data := [1, 2, 3, 4, 5, 6, 7, 8] }
def tPktPart : Part := { pos := 0, len := 8, va := 64, src := some { key := 0x800040, len := 8, keyid := 0, ty := 0, psn := false }, dst := [], keyid := 0, persist := false, hb := false, lapped := [] }
def tHere2 : State := { tM with fab := { tM.fab with inbound := [{ p := tPkt, started := true, parts := [tPktPart] }] } }
theorem wit_bulkPacket : (tM.canon = true ∧ ∀ x ∈ tM.fab.inbound, x.p ≠ tPkt) ∧ tHere2.canon = true ∧ tHere2.fab.inbound = [{ p := tPkt, started := true, parts := [tPktPart] }] ∧ tHere2.dev.ide = false ∧ tHere2.lineFits tPkt tPktPart = true := by decide +kernel
/-- A speculative window of slice 128 that read a line at its wts, or at an older one. -/
def tSp (w : Nat) : SpWin := { scope := 2, pkt := 0, word := 0, nextPkt := 0, nextWord := 1, iid := 3, slices := [128], wins := [(128, ⟨56, 8⟩, ⟨56, 8⟩, ⟨56, 8⟩, ⟨56, 8⟩)], lines := [(0x800040 / 64, some w)] }
def tWnd (w : Nat) : State := { tM.actAll [.window 128 (some (tSp w)), .times (0x800040 / 64) 6 9, .slice 128 (.maxws 8)] with log := [] }
theorem wit_window : ∀ w ∈ [6, 5], (tWnd w).canon = true ∧ Sparse.get none (tWnd w).ctl.windows 128 = some (tSp w) ∧ (tWnd w).windowReady (tSp w) = true ∧ (tSp w).lines.all ((tWnd w).lineValid 0 ((tWnd w).windowTime (tSp w))) = decide (w = 6) := by decide +kernel
/-- A persist-write on its way to OPQ 0, and one in it. -/
def tPW : PWrite := { slices := [(128, 1)], line := scmBase / 64 + 5, cells := [(0, 7), (63, 8)] }
def tOpq (as : List Act) : State := { tM.actAll as with log := [], opq := { transit := if as = [] then [(9, some tPW)] else [], entries := [(0, [{ tPW with mark := true }])], next := 10 } }
theorem wit_opq : ((tOpq []).canon = true ∧ Sparse.get none (tOpq []).opq.transit 9 = some tPW ∧ (tOpq []).acceptReady 9 = true ∧ (tOpq []).opqEntries 0 = [{ tPW with mark := true }] ∧ (tPW.cells.map (fun c => c.1)).Nodup)
    ∧ (tOpq [.slice 128 (.pbar 4)]).noticeReady 128 0 0 = true := by decide +kernel
/-! ### Witnesses: queues -/

/-- A packet of each row, well formed and ready to start (fields by offset). -/
def tPackets : List (Nat × List (Nat × Nat) × Row) :=
  [(2, [(8, 0x3000)], .nop), (2, [(0, 3), (0x10, 0x3008), (0x18, 5), (0x20, 2 ^ 64 - 1), (0x2C, 9)], .wait), (2, [(0, 3), (0x10, 0x3008), (0x20, 2 ^ 64 - 1)], .wait), (2, [(0, 3), (0x10, 2 ^ 57)], .wait),
   (1, [(0, 3), (0x10, 0x200000)], .wait), (2, [(0, 5), (0x10, 0x20000 + 0x400)], .barrier), (2, [(0, 5), (0x10, 0x400)], .barrier), (2, [(0, 4), (8, 0x3000), (0x20, 2)], .signalWrite), (2, [(0, 4), (8, 0x3000)], .signalWrite),
   (2, [(0, 4), (8, 0x3000), (0x10, 0x3008), (0x18, 7)], .signalWrite), (2, [(0, 4), (8, 0x3000), (0x10, 0x3008), (0x18, 7), (0x20, 1)], .signalAdd),
   (2, [(0, 6), (0x10, 0), (0x18, 2 ^ 40)], .mapRoot), (1, [(0, 6), (0x10, 1), (0x18, 0x200000), (0x20, 0x10000)], .mapSync), (2, [(0, 6), (8, 0x3000), (0x10, 2), (0x18, 0x1000), (0x20, 3 + 511 * 16)], .dspalloc),
   (2, [(0, 6), (8, 0x3000), (0x10, 2), (0x18, 0x1000), (0x20, 0x10000)], .dspalloc), (1, [(0, 6), (0x10, 3), (0x18, 0x1000), (0x20, 0x10000)], .dspfree), (2, [(0, 6), (8, 0x3000), (0x10, 4), (0x18, 2 ^ 36 - 1), (0x20, 0xA0000)], .migreg),
   (2, [(0, 6), (8, 0x3000), (0x10, 5), (0x18, 0x3000), (0x20, 0xFFE)], .mcgroup), (2, [(0, 6), (8, 0x3000), (0x10, 6), (0x20, 0xFFE)], .mcfree), (1, [(0, 7), (0x10, 0x400000), (0x18, 0x200000)], .unmap), (1, [(0, 8), (0x10, 0), (0x18, 1), (0x20, 1)], .bias),
   (2, [(0, 9), (8, 0x3000), (0x10, 0x1000), (0x18, 63 + 2 ^ 32), (0x20, 0x3000)], .cap), (2, [(0, 10), (8, 0x3000), (0x10, 2 ^ 62), (0x18, 77)], .step), (2, [(0, 10), (8, 0x3000), (0x10, 0), (0x18, 77)], .step),
   (2, [(0, 13), (8, 0x3000)], .persist), (2, [(0, 14), (8, 0x3000), (0x10, 77), (0x18, 0x4000)], .attest)]
theorem wit_starts : ∀ e ∈ tPackets, Starts (tRing e.1 e.2.1) (tPkt2 e.1 e.2.1) (tAs (tRing e.1 e.2.1)) e.2.2 := by unfold Starts; decide +kernel
/-- What PacketsStart names beside: HOE after an error, a malformed packet, a packet whose checks fail. -/
def tErr (fs : List (Nat × Nat)) : State := { tRing 2 fs with sun := { (tRing 2 fs).sun with queues := [(0, { tQueue 2 1 with err := some 5 })] } }
theorem wit_packetsStart : ((tErr [(0, 512)]).canon = true ∧ (tErr [(0, 512)]).startable 0 0 = some (tPkt2 2 [(0, 512)], tAs (tErr [(0, 512)])) ∧ (tPkt2 2 [(0, 512)]).row = .nop ∧ (tPkt2 2 [(0, 512)]).hoe = true ∧ ((tErr [(0, 512)]).queue 0).err = some 5)
    ∧ ((tRing 2 [(0x3F, 1)]).startable 0 0 = some (tPkt2 2 [(0x3F, 1)], tAs (tRing 2 [(0x3F, 1)])) ∧ (tPkt2 2 [(0x3F, 1)]).bad = some 0x3F)
    ∧ stepBody (tPkt2 2 [(0, 10), (8, 0x3000), (0x10, 0), (0x18, 77)]) (tRing 2 [(0, 10), (8, 0x3000), (0x10, 0), (0x18, 77)]) = .error (.code 0x03 0x10) :=
  ⟨by decide +kernel, by decide +kernel, err_is (by decide +kernel)⟩
/-- The reads of the three WAITs that do not hold at once: the word is not 5, cannot be read, or lies on a page that is not there. -/
theorem wit_wait : (begun (tRing 2 [(0, 3), (0x10, 0x3008), (0x18, 5), (0x20, 2 ^ 64 - 1), (0x2C, 9)]) (tPkt2 2 [(0, 3), (0x10, 0x3008), (0x18, 5), (0x20, 2 ^ 64 - 1), (0x2C, 9)]) []).sunRead (some 2) 0x3008 8 = .ok (List.replicate 8 0) []
    ∧ (begun (tRing 2 [(0, 3), (0x10, 2 ^ 57)]) (tPkt2 2 [(0, 3), (0x10, 2 ^ 57)]) []).sunRead (some 2) (2 ^ 57) 8 = .bad []
    ∧ (begun (tRing 1 [(0, 3), (0x10, 0x200000)]) (tPkt2 1 [(0, 3), (0x10, 0x200000)]) (tAs (tRing 1 [(0, 3), (0x10, 0x200000)]))).sunRead (some 1) 0x200000 8 = .wait 0x200000 := by decide +kernel
/-- A packet that waits, at 9 ac. -/
def tActive (w : Work) : Active := { queue := 0, index := 0, tag := 0, cst := 0x3000, asid := 2, gen := 0, work := w }
def tWaits (w : Work) : State := { tRing 2 [(8, 0x3000)] with run := { State.reset.run with time := 9 }, sun := { State.reset.sun with queues := [(0, { tQueue 2 1 with rd := 1 })], active := [tActive w] } }
theorem wit_waitTimeout : let s := tWaits (.wait 0x3008 5 7 0 (some 9))
    s.canon = true ∧ s.sun.active.find? (fun a => decide (a.queue = 0) && s.waitLate a && s.cstReady a.asid a.cst) = some (tActive (.wait 0x3008 5 7 0 (some 9))) := by decide +kernel
theorem wit_signal : let s := tRing 2 [(0, 4), (8, 0x3000), (0x10, 0x3008), (0x18, 7)]; let p := tPkt2 2 [(0, 4), (8, 0x3000), (0x10, 0x3008), (0x18, 7)]
    s.sunRead (some 2) 0x3008 8 = .ok (List.replicate 8 0) [] ∧ (begun s p []).sunRead (some 2) 0x3008 8 = .ok (List.replicate 8 0) []
      ∧ (∃ w, s.sunWrite (some 2) 0x3008 (leBytes 8 7) = .ok [] w) ∧ ((begun s p []).sunWrite (some 2) 0x3008 (leBytes 8 7)).waits = false ∧ (∀ ns, (begun s p []).sunWrite (some 2) 0x3008 (leBytes 8 7) ≠ .bad ns)
      ∧ HostArea s 2 0 0x3008 8 ∧ (0x3000 + 8 ≤ 0x3008) ∧ HostArea s 2 0 0x3000 8 := by
  unfold HostArea
  refine ⟨by decide +kernel, by decide +kernel, ⟨_, rfl⟩, by decide +kernel, fun ns h => ?_, by decide +kernel⟩
  have hw : gotWith ((begun (tRing 2 [(0, 4), (8, 0x3000), (0x10, 0x3008), (0x18, 7)]) (tPkt2 2 [(0, 4), (8, 0x3000), (0x10, 0x3008), (0x18, 7)]) []).sunWrite (some 2) 0x3008 (leBytes 8 7)) (fun _ => true) = true := by decide +kernel
  rw [h] at hw; cases hw
theorem wit_doorbell : let s := tRing 2 []
    s.canon = true ∧ s.dev.ready = true ∧ (s.queue 0).here = true := by decide +kernel
theorem wit_rotation : let s := { tRing 2 [] with sun := { State.reset.sun with queues := [(0, { tQueue 2 1 with mapped := false })] } }
    s.canon = true ∧ s.rotations.contains (0, 0) = true := by decide +kernel

/-- A queue to register: its descriptor at 0x1000 names tenant 2, a ring of 16 packets and priority 3, or is bad. -/
def tReg (bad : Nat) : State := { tRing 2 [] with mem := ({} : Mem).write (hostBase + 0x1000) 0 (tRaw 64 [(0, 0x2000), (8, 3 + 2 * 2 ^ 12 + bad)]), sun := { State.reset.sun with queues := [(0, { tQueue 2 1 with err := some 5, halted := some 5 })] } }
theorem wit_qreg : (∀ bad ∈ [0, 128], (tReg bad).canon = true ∧ (tReg bad).sunRead ((tReg bad).descSpace 0x1000) 0x1000 64 = .ok (tRaw 64 [(0, 0x2000), (8, 3 + 2 * 2 ^ 12 + bad)]) [] ∧ ((tReg bad).queue 1023).here = false ∧ descOk (tRaw 64 [(0, 0x2000), (8, 3 + 2 * 2 ^ 12 + bad)]) = decide (bad = 0))
    ∧ ((tReg 0).queue 0).here = true := by decide +kernel
/-- Slice 128 is stopped for its queue's debugger, and the queue's launch has a debug block at 0x6000 whose watchpoints, all off, have length 4 (R103). -/
def tDbg (ws : Nat) : State :=
  { tS with
    mem := (({} : Mem).write (hostBase + 0x7000 + 0x1048) 0 (leBytes 8 ws)).write (hostBase + 0x6040) 0 [2, 2, 2, 2]
    ctl := { tS.ctl with
      packs := tS.ctl.packs.map (fun e => (e.1, { e.2 with debug := some { attach := true } }))
      slices := tS.ctl.slices.map (fun e => (e.1, { e.2 with stop := true })) }
    sun := { State.reset.sun with queues := [(0, tQueue 2 1)], launches := [(1, { here := true, queue := 0, asid := 2, debugAt := 0x6000 })] } }
/-- Four windows of the last eight registers. -/
def tWins : Nat := 0x0838083808380838
theorem wit_debug : (tDbg tWins).canon = true ∧ (tDbg tWins).stoppedAt 0 0 = some 128 ∧ (tDbg tWins).stoppedAt 0 1 = none ∧ ((tDbg tWins).packOf 128).regs ≤ 256
    ∧ (∃ as, (tDbg tWins).sunWrite (some 2) 0x7000 ((tDbg tWins).dbgBytes 128) = .ok [] as) ∧ (tDbg tWins).sunWrite (some 2) (2 ^ 57) ((tDbg tWins).dbgBytes 128) = .bad ∧ (tDbg tWins).sunRead (some 2) (2 ^ 57) dbgLen = .bad
    ∧ (∃ bs as, (tDbg tWins).sunRead (some 2) 0x7000 dbgLen = .ok bs as ∧ (tDbg tWins).dbgLegal 128 bs = true) ∧ (∃ bs as, (tDbg 0).sunRead (some 2) 0x7000 dbgLen = .ok bs as ∧ (!(tDbg 0).dbgLegal 128 bs) = true)
    ∧ (tDbg 0).stoppedOf 0 = [128] ∧ ∃ bs as, (tDbg 0).sunRead (some 2) 0x6000 80 = .ok bs as ∧ (debugOf bs 0x6000).isSome = true :=
  ⟨by decide +kernel, by decide +kernel, by decide +kernel, by decide +kernel, got_nil (by decide +kernel), by decide +kernel, by decide +kernel, got_of (by decide +kernel), got_of (by decide +kernel), by decide +kernel, got_of (by decide +kernel)⟩
/-! ### Witnesses: launches and graphs -/

/-- Host memory of tenant 2: a launch record at 0x4000 of a grid of two packs, its kernel object at 0x5000 with one node, and a graph object at 0x5800; the record's NEXTPACK is `next`. -/
def tRec (next : Nat) : List Byte := tRaw 192 [(0, 0x5000), (0x10, 4096), (0x14, 8), (0x18, 0x8000), (0x20, 2), (0x24, 1), (0x28, 1), (0x68, 2 ^ 30), (0x70, next), (0x80, 0x6000)]
def tLa (fs : List (Nat × Nat)) (next : Nat) : State :=
  { tRing 2 fs with
    mem := ((((tRing 2 fs).mem.write (hostBase + 0x4000) 0 (tRec next)).write (hostBase + 0x5000) 0 (tRaw 64 [(0, 0x9C900), (0x13, 1), (0x18, 0x10000), (0x20, 0x40), (0x28, 0x5100)])).write (hostBase + 0x5100) 0 (tRaw 16 [(0, 0x80), (8, 2), (12, 5)])).write (hostBase + 0x5800) 0 (tRaw 40 [(0, 1), (8, 0x5000)])
    run := { State.reset.run with choices := List.replicate 40 0, ac := 9 } }
def tGraph : Graph := { asid := 2, va := 0x5800, version := 1, nodes := [{ entry := 0x10080, words := 2, timer := 5, succ := 0, depth := 0 }], kernel := {} }
/-- The four packets: a LAUNCH with and without packs to dispatch, a SEAL, and a GRAPH LAUNCH. -/
def tLaFs : List (List (Nat × Nat)) := [[(0, 1), (8, 0x3000), (0x10, 0x4000)], [(0, 2), (8, 0x3000), (0x10, 0), (0x18, 0x5800)], [(0, 2), (8, 0x3000), (0x10, 1), (0x18, 0x5800), (0x20, 1), (0x28, 0x4000)]]
def tLaG (fs : List (Nat × Nat)) : State := { tLa fs 0 with sun := { (tLa fs 0).sun with graphs := [tGraph] } }
theorem wit_launch : ∀ next ∈ [0, 2], let fs := tLaFs.getD 0 []; let s := tLa fs next; let p := tPkt2 2 fs
    Starts s p (tAs s) .launch ∧ okWith (launchBody p s) (fun _ => true) = true ∧ okWith ((s.actAll (tAs s)).sdLaunch p (p.num 0x10 8) 0x10 none []) (fun x => decide (x.1.total = 2 ∧ x.1.next = next)) = true := by unfold Starts; decide +kernel
theorem wit_seal : let fs := tLaFs.getD 1 []; let s := tLa fs 0; let p := tPkt2 2 fs
    Starts s p (tAs s) .graphSeal ∧ (∃ acts, sealBody p s = .ok acts) ∧ ∃ acts, sealBody p (begun s p (tAs s)) = .ok acts :=
  ⟨by unfold Starts; decide +kernel, ok_ex (by decide +kernel), ok_ex (by decide +kernel)⟩
theorem wit_graph : let fs := tLaFs.getD 2 []; let s := tLaG fs; let p := tPkt2 2 fs
    Starts s p (tAs s) .graphLaunch ∧ s.sun.graphs.find? (fun g => decide (g.asid = p.asid) && decide (g.va = p.num 0x18 8) && decide (g.version = p.num 0x20 8)) = some tGraph
      ∧ (∃ acts, graphBody p s = .ok acts) ∧ okWith ((s.actAll (tAs s)).sdLaunch p (p.num 0x28 8) 0x28 (some tGraph) []) (fun x => decide (x.1.total = 2)) = true ∧ (List.range 4).mapM (s.binBlocks tGraph) = some [[1], [512], [1024], [1536]]
      ∧ Starts (tLa fs 0) p (tAs (tLa fs 0)) .graphLaunch ∧ (tLa fs 0).sun.graphs = [] :=
  ⟨by unfold Starts; decide +kernel, by decide +kernel, ok_ex (by decide +kernel), by decide +kernel, by decide +kernel, by unfold Starts; decide +kernel, rfl⟩
/-- Launch 5 of queue 0: two packs of one gang of one slice, with the graph; its bin of node 0 on die 0 holds three records since 2 ac. -/
def tL5 : Launch := { here := true, queue := 0, index := 0, asid := 2, record := 0x4000, text := 0x10000, entry := 0x10040, slices := 1, argsAt := 0x6000, arglen := 8, lparea := 0x8000, gx := 2, csalen := 2 ^ 20, graph := some tGraph }
def tRun (l : Launch) (bins : Sparse Bin) : State :=
  { tLa [] 0 with sun := { State.reset.sun with queues := [(0, tQueue 2 1)], nextLaunch := 6, launches := [(5, l)], bins := bins, active := [{ tActive (.launch 5) with cst := 0x3000 }] } }
def tBin : Sparse Bin := [(binKey 5 0 0, { recs := [(2, [3, 4]), (4, [5, 6]), (6, [7, 8])], count := 4 })]
theorem wit_bin : let s := tRun tL5 tBin; let k := binKey 5 0 0; let n := tGraph.nodes.headD { entry := 0, words := 0, timer := 0, succ := 0 }
    s.canon = true ∧ s.binLate k = true ∧ s.binFirst k = true ∧ s.binNode k = some (tGraph, n) ∧ ((List.range 160).filter (s.binFits k))[s.pick 0 ((List.range 160).filter (s.binFits k)).length]? = some 0
      ∧ (s.dueBins 5).find? (fun k => s.binFits k 3) = some k := by decide +kernel
theorem wit_dispatch : let s := tRun tL5 []
    s.canon = true ∧ (∀ k ∈ s.dueBins 5, s.binFits k 7 = false) ∧ s.dispatchPlan 5 7 = some [(0, 7)] ∧ (s.queue 0).rd = tL5.index := by decide +kernel
/-- Launch 5 ends: normally, with a fatal trap, and after a bad digest. -/
def tEnd (fatal : List (Nat × Nat)) (broken : Option Nat) : State := let s := tRun { tL5 with next := 2, broken := broken } []; { s with ctl := { s.ctl with fatal := fatal } }
theorem wit_over : ∀ x ∈ [([], none), ([(5, 128)], none), ([], some 1)], let s := tEnd x.1 x.2; let a := { tActive (.launch 5) with cst := 0x3000 }
    s.canon = true ∧ s.launchOver 5 = true ∧ s.sun.active.find? (fun a => decide (a.work = .launch 5)) = some a ∧ s.cstReady a.asid a.cst = true := by decide +kernel
theorem wit_overBare : let s := { tEnd [] none with sun := { (tEnd [] none).sun with active := [] } }
    s.canon = true ∧ s.launchOver 5 = true ∧ ∀ a ∈ s.sun.active, a.work ≠ .launch 5 := by decide +kernel

/-! ### Witnesses: pre-emption -/

/-- withFetchWord's pack as pack 0 of launch 5 of tenant 1, whose save area is VA 0 of its one page. -/
def tPre (l : Launch) (f : Pack → Pack) : State :=
  { tS with
    run := { tS.run with cur := none, choices := List.replicate 300 0 }
    ctl := { tS.ctl with packs := tS.ctl.packs.map (fun e => (e.1, f { e.2 with launch := 5 })) }
    dev := { State.reset.dev with ready := true }
    sun := { State.reset.sun with queues := [(0, tQueue 1 0)], nextLaunch := 6, launches := [(5, { l with here := true, asid := 1, gx := 2, next := 1 })] } }
theorem wit_drainPreempt : (∀ l ∈ [({ want := some false } : Launch), { want := some false, stop := some ⟨true, true⟩ }], (tPre l id).canon = true ∧ (tPre l id).drainDue 5 = true)
    ∧ (tPre { want := some true } id).canon = true ∧ (tPre { want := some true } id).hardDue 5 = true := by decide +kernel
/-- A running pack, stopped and still, to be saved. -/
def tSave : State := tPre { stop := some ⟨true, true⟩, csalen := 65536, csa := 65536 } (fun k => { k with freeze := true })
theorem wit_save : tSave.canon = true ∧ tSave.hardDue 5 = false ∧ tSave.saveDue 5 = true := by decide +kernel
/-- A saved pack of tenant 2, whose section lies at a host physical address. -/
def tRest (va : Nat) (m : Mem) : State :=
  let s := tPre { stop := some ⟨true, false⟩ } (fun k => { k with here := false, saved := true, asid := 2 })
  { s with mem := m, sun := { s.sun with saves := [(1, { va := va, len := 64 })] }, fab := { s.fab with redirect := [1] } }
theorem wit_restore : ∀ va ∈ [0x4000, 2 ^ 57], (tRest va {}).canon = true ∧ (tRest va {}).restoreNow 1 9 2 = some [(1, 9)] := by decide +kernel
/-- The section of a pack whose body is empty: its digest is of no byte. -/
def tSection : List Byte := List.replicate 16 0 ++ leBytes 48 (Config.sha384 []).toNat
theorem length_tSection : tSection.length = 64 := rfl
/-- Memory that holds the section. -/
def tGood : Mem := { bytes := (({} : Mem).write (hostBase + 0x4000) 0 tSection).bytes }
theorem numAt_tSection : numAt tSection 0x10 48 = (Config.sha384 []).toNat := by
  show leNat (leBytes 48 (Config.sha384 []).toNat) = _
  rw [leNat_leBytes]
  exact Nat.mod_eq_of_lt (Nat.lt_of_lt_of_le (Config.sha384 []).isLt (Nat.le_of_eq (by decide +kernel)))
theorem read_tRest (b : List Host.Cell) : (tRest 0x4000 { bytes := b }).sunRead (some 2) 0x4000 64 = .ok ((List.range 64).map (fun i => Sparse.get 0 b (hostBase + 0x4000 + i))) [] := rfl
theorem wit_restoreGood : let s := tRest 0x4000 tGood; s.canon = true ∧ s.restoreNow 1 9 2 = some [(1, 9)] ∧ s.sectionGood 1 = some true := by
  have hw : Memory.wf (({} : Mem).write (hostBase + 0x4000) 0 tSection) = true := Memory.wf_write _ _ _ _ (by decide)
  have hb : (List.range 64).map (fun i => Sparse.get 0 tGood.bytes (hostBase + 0x4000 + i)) = tSection := bytes_write {} (hostBase + 0x4000) 0 tSection (by decide)
  refine ⟨State.canon_mem (tRest 0x4000 {}) tGood (wit_restore _ (by decide)).1 ?_, ?_, ?_⟩
  · simp only [Memory.wf, Bool.and_eq_true] at hw ⊢
    simp only [tGood, hw.1.1.1.1.1.1.1.1.1, true_and]; decide +kernel
  · decide +kernel
  · show (match Got.ok ((List.range 64).map (fun i => Sparse.get 0 tGood.bytes (hostBase + 0x4000 + i))) [] with
      | .ok bs _ => some (decide (numAt bs 0x10 48 = (Config.sha384 (bs.drop 64)).toNat))
      | .wait _ => none
      | .bad _ => some false) = some true
    rw [hb]
    show some (decide (numAt tSection 0x10 48 = (Config.sha384 []).toNat)) = some true
    rw [numAt_tSection, decide_eq_true rfl]
theorem wit_restoreBad : let s := tRest (2 ^ 57) {}; (∀ e ∈ [(1, 9)], s.sectionGood e.1 ≠ none) ∧ [(1, 9)].find? (fun e => s.sectionGood e.1 = some false) = some (1, 9) := by decide +kernel
/-- Packets whose wait is over: the words of a WAIT hold, dependencies are done, no access is under way, no persist-write is to come, a STEP has frozen some dies. -/
theorem wit_wake : ∀ w ∈ [Work.wait 0x3008 0 (2 ^ 64 - 1) 0 none, .barrier [], .drain 0x100000 0x10000, .persist 3, .step 7 77 (some 2), .step 7 77 (some 4)], let s := tWaits w
    s.canon = true ∧ s.sun.active.filter (fun a => decide (a.queue = 0)) = [tActive w] ∧ s.cstReady 2 0x3000 = true := by decide +kernel
theorem wit_wakeWhat : (tWaits (.wait 0x3008 0 (2 ^ 64 - 1) 0 none)).sunRead (some 2) 0x3008 8 = .ok (List.replicate 8 0) [] ∧ waitHolds (leNat (List.replicate 8 0)) 0 (2 ^ 64 - 1) 0 = true
    ∧ (tWaits (.barrier [])).depsDone [] = true ∧ (tWaits (.drain 0x100000 0x10000)).rangeQuiet 2 0x100000 0x10000 = true ∧ (tWaits (.persist 3)).persistDone 0 3 = true := by decide +kernel
/-! ### Witnesses: mapping packets -/

/-- What the statements of the mapping packets ask beside Starts. -/
def tMig : List (Nat × Nat) := [(0, 6), (8, 0x3000), (0x10, 4), (0x18, 2 ^ 36 - 1), (0x20, 0xA0000)]
def tMcg : List (Nat × Nat) := [(0, 6), (8, 0x3000), (0x10, 5), (0x18, 0x3000), (0x20, 0xFFE)]
def tMcf : List (Nat × Nat) := [(0, 6), (8, 0x3000), (0x10, 6), (0x20, 0xFFE)]
def tCap : List (Nat × Nat) := [(0, 9), (8, 0x3000), (0x10, 0x1000), (0x18, 63 + 2 ^ 32), (0x20, 0x3000)]
def tAll : List (Nat × List (Nat × Nat)) := [(2, [(0, 6), (8, 0x3000), (0x10, 2), (0x18, 0x1000), (0x20, 3 + 511 * 16)]), (2, [(0, 6), (8, 0x3000), (0x10, 2), (0x18, 0x1000), (0x20, 0x10000)]), (1, [(0, 6), (0x10, 3), (0x18, 0x1000), (0x20, 0x10000)])]
/-- A running launch of the record at 0x1000. -/
def tCapRun : State := { tRing 2 tCap with sun := { (tRing 2 tCap).sun with launches := [(7, { here := true, asid := 2, record := 0x1000 })] } }
theorem wit_mapping : (∀ e ∈ tAll, (tPkt2 e.1 e.2).overrun = false)
    ∧ (tPkt2 2 tMig).num 0x20 8 % 4 ≠ 3
    ∧ ((tPkt2 2 tMcg).group ≠ 0xFFF ∧ (tRing 2 tMcg).groupTaken (tPkt2 2 tMcg) = false ∧ (tRing 2 tMcg).fab.groups.length < 1024
      ∧ (tRing 2 tMcg).sunRead (some 2) 0x3000 2 = .ok (List.replicate 2 0) [] ∧ (begun (tRing 2 tMcg) (tPkt2 2 tMcg) []).sunRead (some 2) 0x3000 2 = .ok (List.replicate 2 0) [])
    ∧ (tPkt2 2 tMcf).group ≠ 0xFFF := by decide +kernel
theorem wit_unmap : let fs := [(0, 7), (0x10, 0x400000), (0x18, 0x200000)]; let s := tRing 1 fs; let b := begun s (tPkt2 1 fs) (tAs s)
    s.cutsLeaf 1 0x400000 0x200000 = none ∧ b.cutsLeaf 1 0x400000 0x200000 = none ∧ (b.leavesIn 1 0x400000 0x200000).map (fun x => x.1) = [0x400000] := by decide +kernel
theorem wit_bias : let fs := [(0, 8), (0x10, 0), (0x18, 1), (0x20, 1)]; let s := tRing 1 fs
    s.biasPages 1 0 (1 * 2 ^ 21) ≠ none ∧ ∃ xs, (begun s (tPkt2 1 fs) (tAs s)).biasPages 1 0 (1 * 2 ^ 21) = some xs :=
  ⟨by decide +kernel, Option.isSome_iff_exists.mp (by decide +kernel)⟩
/-- A BIAS of tenant 1 under way at some VA, with some regions flipping. -/
def tBias (va : Nat) (flips : List Nat) : State :=
  let s := tRing 1 []
  { s with maps := { s.maps with flips := flips }, sun := { s.sun with queues := [(0, { tQueue 1 1 with rd := 1 })], active := [{ tActive (.bias va (2 ^ 21) true) with cst := 0, asid := 1 }] } }
theorem wit_biasWake : ∀ x ∈ [(2 ^ 21, []), (0, []), (0, [4])], let s := tBias x.1 x.2; let a := { tActive (.bias x.1 (2 ^ 21) true) with cst := 0, asid := 1 }; let u := s.biasUnit 1 x.1
    s.canon = true ∧ s.sun.active.filter (fun a => decide (a.queue = 0)) = [a] ∧ s.cstReady 1 0 = true
      ∧ (x.1 < 2 ^ 21 → u.2.length = 1 ∧ (∀ y ∈ u.2, y.2.res = true ∧ y.2.tier = 0) ∧ regionsOf u.2 = [4] ∧ ∀ y ∈ u.2, s.pageQuiet y.2.span.1 y.2.span.2 = true) := by decide +kernel
theorem wit_cap : Starts tCapRun (tPkt2 2 tCap) [] .cap ∧ (tRing 2 tCap).runningLaunch 2 0x1000 = none ∧ tCapRun.runningLaunch 2 0x1000 = some 7 ∧ tCapRun.sunRead (some 2) 0x3000 32 = .ok (List.replicate 32 0) []
    ∧ (begun tCapRun (tPkt2 2 tCap) []).sunRead (some 2) 0x3000 32 = .ok (List.replicate 32 0) [] ∧ ∀ e ∈ (entriesOf 32 (List.replicate 32 0)).map capOf, e.legal = true := by unfold Starts; decide +kernel
/-- A CAP of launch 7 that replaces entry 63, the last, under way. -/
def tCapWake : State := { tCapRun with sun := { tCapRun.sun with queues := [(0, { tQueue 2 1 with rd := 1 })], active := [tActive (.caps 7 63 [{}])] } }
theorem wit_capWake : tCapWake.canon = true ∧ tCapWake.sun.active.filter (fun a => decide (a.queue = 0)) = [tActive (.caps 7 63 [{}])] ∧ tCapWake.cstReady 2 0x3000 = true ∧ 63 + [({} : CapEntry)].length ≤ 64 := by decide +kernel
/-- A PERSIST of VA 0 to 0x1000. -/
def tPer : List (Nat × Nat) := [(0, 13), (0x10, 64), (0x18, 0x1000)]
theorem wit_persist : let s := tRing 1 tPer
    Starts s (tPkt2 1 tPer) (tAs s) .persist ∧ (∀ t ∈ [s, begun s (tPkt2 1 tPer) (tAs s)], 0x1000 ≤ coveredBytes 64 0x1000 (t.leavesIn 1 64 0x1000) ∧ ∀ x ∈ t.leavesIn 1 64 0x1000, leafOk x.2.e x.2.level = true) := by unfold Starts; decide +kernel
/-! ### Witnesses: firmware, attestation, SPDM -/

/-- A ready device, and an image of 128 bytes of zeros but its length, at host physical address 0x4000. -/
def tImg : List Byte := tRaw 128 [(8, 128)]
def tFw (d : Dev) : State := { tRing 2 [] with mem := ({} : Mem).write (hostBase + 0x4000) 0 tImg, dev := { d with ready := true }, run := { State.reset.run with time := 9, choices := [0, 0] } }
theorem wit_fwstage : (∀ d ∈ [({ act := some 0 } : Dev), {}], (tFw d).canon = true) ∧ (tFw { act := some 0 }).dev.activating = true ∧ (tFw {}).dev.activating = false ∧ (0 ≠ 1 - (tFw {}).dev.fw ∧ 1 = 1 - (tFw {}).dev.fw)
    ∧ (tFw {}).sunRead none 0x4000 32 = .ok (tImg.take 32) [] ∧ numAt (tImg.take 32) 8 8 = 128 ∧ (tFw {}).sunRead none 0x4000 128 = .ok tImg [] := by decide +kernel
/-- A staged image; a launch that is to be saved. -/
def tStaged (busy : Bool) : State := { tFw { staged := true } with sun := { State.reset.sun with launches := if busy then [(3, { here := true, want := some true })] else [] } }
theorem wit_fwact : (tFw {}).dev.staged = false ∧ (∀ b, (tStaged b).dev.act = none ∧ (tStaged b).dev.heart = none ∧ (tStaged b).dev.ready = true ∧ (tStaged b).dev.staged = true ∧ (tStaged b).saving = b)
    ∧ ∃ expected, ¬(expected = 0 ∨ expected = (Config.sha384 ((tStaged false).image (1 - (tStaged false).dev.fw))).toNat) :=
  ⟨rfl, by decide +kernel, (Config.sha384 ((tStaged false).image (1 - (tStaged false).dev.fw))).toNat + 1, by omega⟩
theorem wit_heart : let s := tFw { heart := some (1, 9) }; s.dev.heart = some (1, 9) ∧ 9 ≤ s.run.time ∧ s.dev.ready = true := by decide +kernel
/-- An ATTEST of job 77 with its record at 0x4000. -/
def tAtt (j : Job) : State := let s := tRing 2 [(0, 14), (0x10, 77), (0x18, 0x4000)]; { s with sun := { s.sun with jobs := if j = {} then [] else [(77, j)] } }
theorem wit_attest : ∀ j ∈ [({} : Job), { first := 3, asid := 1 }, { first := 3, asid := 2, full := true }, { first := 3, asid := 2, images := [7] }],
    Starts (tAtt j) (tPkt2 2 [(0, 14), (0x10, 77), (0x18, 0x4000)]) [] .attest ∧ Sparse.get {} (tAtt j).sun.jobs 77 = j := by unfold Starts; decide +kernel
theorem wit_attestRecord : let s := tAtt { first := 3, asid := 2, images := [7] }; let p := tPkt2 2 [(0, 14), (0x10, 77), (0x18, 0x4000)]; let b := begun s p []
    let record := fun (s : State) => let x := s.attestBytes p.asid (p.num 0x10 8) ((p.raw.drop 0x20).take 16) (Sparse.get {} s.sun.jobs (p.num 0x10 8)); x ++ leBytes 96 (Config.sign x).toNat
    (Sparse.get {} b.sun.jobs 77).full = false ∧ (∃ r0, s.sunWrite (some p.asid) (p.num 0x18 8) (record s) = .ok [] r0) ∧ (∃ r, b.sunWrite (some p.asid) (p.num 0x18 8) (record b) = .ok [] r)
      ∧ HostArea s p.asid p.queue (p.num 0x18 8) 640 ∧ p.cst = 0 :=
  ⟨by decide +kernel, got_nil (by decide +kernel), got_nil (by decide +kernel), by unfold HostArea; decide +kernel, by decide +kernel⟩
theorem wit_keys : ∀ d ∈ [({ session := true } : Dev), { session := true, revokes := [255] }], Sparse.get false (tFw d).dev.keys 255 = false ∧ (tFw d).keyFree 255 = true ∧ (tFw d).dev.session = true := by decide +kernel
/-- A registered queue of tenant 1, whose page at VA 0 is mapped with KEYID 9. -/
def tKey : State := let s := tRing 1 []; { s with mem := s.mem.write 0x401010 0 (leBytes 8 (0xC3 + 0x1000000 + 9 * 2 ^ 52 + 2 ^ 60)), dev := { s.dev with session := true } }
theorem wit_keyUsed : (tKey.keyidsOf 1).contains 9 = true ∧ tKey.keyFree 9 = false ∧ tKey.dev.session = true ∧ ¬ 9 ∈ tKey.dev.revokes := by decide +kernel
/-! ### Witnesses: the platform -/

/-- A ready device with withFetchWord's page and pack. -/
def tUp (f : Dev → Dev) : State := { tM with dev := f { tM.dev with ready := true, fail := false } }
theorem wit_hostRead : (tUp id).canon = true ∧ (tUp id).linkUp = true ∧ keyExists (0x800040 + 100 - 1) = true ∧ 0x800040 + 100 ≤ scmBase := by decide +kernel
theorem wit_hostWrite : (tUp id).dev.writes.contains (0x800030, List.replicate 40 7) = false ∧ keyExists (0x800030 + 40 - 1) = true
    ∧ (linePieces (hostBase + 0x3FFC) 8).all (fun x => (tUp id).hostFits x.2.1) = true ∧ (tUp id).dev.writes.contains (hostBase + 0x3FFC, List.replicate 8 9) = false := by decide +kernel
/-- A load, or a store, on its way to host memory. -/
def tCxl (k : ReqKind) : State := { tM.actAll [.addReq { slice := 128, lane := 3, iid := 5, core := 0, kind := k, state := .queued, va := 64, key := hostBase + 64, size := 4, tier := 2 }] with log := [] }
theorem wit_cxl : ∀ k ∈ [ReqKind.load 2 [8], .store], (tCxl k).canon = true ∧ ∃ r, (tCxl k).req 0 = some r ∧ r.tier = 2 ∧ r.waiting = true ∧ r.kind = k :=
  fun k hk => ⟨(by decide +kernel : ∀ k ∈ [ReqKind.load 2 [8], .store], (tCxl k).canon = true) k hk, tThe (tCxl k) 0,
    (by decide +kernel : ∀ k ∈ [ReqKind.load 2 [8], .store], (tCxl k).req 0 = some (tThe (tCxl k) 0) ∧ (tThe (tCxl k) 0).tier = 2 ∧ (tThe (tCxl k) 0).waiting = true ∧ (tThe (tCxl k) 0).kind = k) k hk⟩
theorem wit_link : Sparse.get false (tUp (fun d => { d with links := [(15, true)] })).dev.links 15 = true := by decide +kernel
theorem wit_power : (tUp id).dev.on = true ∧ (tUp (fun d => { d with on := false })).dev.on = false ∧ ∀ k ∈ [4, 5], (tUp (fun d => { d with ready := false, stage := k })).dev.on = true ∧ (tUp (fun d => { d with ready := false, stage := k })).dev.ready = false ∧ (tUp (fun d => { d with ready := false, stage := k })).dev.fail = false := by decide +kernel
/-- A line whose mark was met 10 µs ago, under a KEYID; it is still marked, or not. -/
def tSus (m : Bool) (keyid : Nat) : State := { tUp (fun d => { d with suspects := [(0x20001, keyid, 4)] }) with mem := { tM.mem with marks := if m then [(0x20001, true)] else [] }, run := { tM.run with time := 4 + 10 * usec } }
theorem wit_recheck : ∀ x ∈ [(true, 0), (true, 9), (false, 9)], (tSus x.1 x.2).canon = true ∧ (tSus x.1 x.2).dev.suspects.find? (fun y => decide (y.1 = 0x20001)) = some (0x20001, x.2, 4) ∧ 0x20001 ∈ (tSus x.1 x.2).recheckDue ∧ 0x20001 * 64 < dspKey := by decide +kernel
/-- A lasting error of two events stands open, and nothing uses its frame. -/
theorem wit_lasting : let s := tUp (fun d => { d with lasting := [(0x20001, 9, 2)] })
    s.dev.suspects.find? (fun y => decide (y.1 = 0x20001)) = none ∧ s.dev.lasting.find? (fun y => decide (y.1 = 0x20001)) = some (0x20001, 9, 2) ∧ s.lastingQuiet 0x20001 9 = true := by decide +kernel
/-! ### Witnesses: steps and snapshots -/

/-- Tenant 1 with HBM at VA 0 and persist-ordered SCM at 8 MiB; the ring of page 0 lies at 8 MiB, a parity ring at 9 MiB, the report block at 0x10000, a stripe descriptor at 0x20000: devices 3 and `par`, one data and one parity member of one page, shard at 0, staging at 0x30000. -/
def tSettMem (m : Mem) (par stripe : Nat) : Mem :=
  (((m.write 0x401020 0 (leBytes 8 (0xDC7 + 0x200000 + 2 ^ 60))).write (scmBase + 0x200000) 0 (tRaw 64 [(0, 0x9C9A5), (4, 1), (0xC, 0xFFF), (0x10, 0x10000), (0x18, stripe)])).write 0x820000 0 (tRaw 320 [(0, 1), (4, 1), (8, 0x10000), (0x18, 0x900000), (0x20, 0x30000), (0x40, 3), (0x48, par), (0x100, 1)])).write 0x810000 0 (leBytes 8 9)
def tReg1 (stripe : Nat) : Region := { asid := 1, va := 0, len := 0x10000, ring := 0x800000, ndev := 1, pos := 0, mcg := 0xFFF, repva := 0x10000, stripe := stripe }
def tSett (fs : List (Nat × Nat)) (par : Nat) (f : Sett → Sett) : State :=
  let s := tRing 1 fs
  { s with mem := tSettMem s.mem par 0x20000, sett := f {}, run := { s.run with choices := List.replicate 9 0 } }
theorem wit_step : ∀ fs ∈ [[(0, 10), (8, 0x3000), (0x10, 2 ^ 62), (0x18, 77)], [(0, 10), (8, 0x3000), (0x10, 0), (0x18, 77)]], ((tRing 2 fs).steps 2).step = 0 := by decide +kernel
/-- Steps that go on from step 7, or do not. -/
def tGoOn (n : Nat) : State := tSett [(0, 10), (0x10, n), (0x18, 77)] 4 (fun x => { x with asids := [(1, { step := 7, first := 5, frozen := 7, local_ := 7 })] })
theorem wit_stepOn : ∀ n ∈ [8, 7], Starts (tGoOn n) (tPkt2 1 [(0, 10), (0x10, n), (0x18, 77)]) (tAs (tGoOn n)) .step ∧ ((tGoOn n).steps 1).step = 7 := by unfold Starts; decide +kernel
/-- A region to add, and to remove with and without a copy in progress. -/
def tAddFs : List (Nat × Nat) := [(0, 11), (0x10, 0), (0x18, 0x10000), (0x20, 0x800000)]
theorem wit_snapAdd : let s := tSett tAddFs 4 id; let p := tPkt2 1 tAddFs
    Starts s p (tAs s) .snapregionAdd ∧ (∃ acts, snapAddBody p s = .ok acts) ∧ ∃ acts, snapAddBody p (begun s p (tAs s)) = .ok acts :=
  ⟨by unfold Starts; decide +kernel, ok_ex (by decide +kernel), ok_ex (by decide +kernel)⟩
def tRemFs : List (Nat × Nat) := [(0, 11), (0x10, 0), (0x18, 0x10000), (0x28, 1)]
def tUnsnap (f : Sett → Sett) : State := tSett tRemFs 4 f
theorem wit_snapRemove : Starts (tUnsnap id) (tPkt2 1 tRemFs) (tAs (tUnsnap id)) .snapregionRemove ∧ (tUnsnap id).sett.regions = []
    ∧ ∀ pend ∈ [[], [(pageKey 1 0, 6)]], let s := tUnsnap (fun x => { x with regions := [tReg1 0], pending := pend }); Starts s (tPkt2 1 tRemFs) (tAs s) .snapregionRemove ∧ (∃ r ∈ s.sett.regions, r.asid = 1 ∧ r.va = 0 ∧ r.len = 0x10000) ∧ s.copying 1 0 0x10000 = !pend.isEmpty :=
  ⟨by unfold Starts; decide +kernel, rfl, by unfold Starts; decide +kernel⟩
/-- Page 0 is pending for snapshot 6. -/
def tPend : State := tSett [] 4 (fun x => { x with regions := [tReg1 0x20000], pending := [(pageKey 1 0, 6)], asids := [(1, { step := 6, first := 5, frozen := 6, local_ := 5, g := 5 })] })
theorem wit_pageCopy : tPend.canon = true ∧ tPend.copyReady 1 0 = true := by decide +kernel
/-- This device, number 0, is data member, and the other one is lost; r is known. -/
def tHelp : Help := { asid := 1, desc := 0x20000, lost := 1, spare := 9, last := 3, r := some 5, pages := [0] }
def tSend : State := { tSett [] 4 (fun x => { x with helps := [tHelp] }) with maps := { (tSett [] 4 id).maps with devid := 3 } }
theorem wit_send : tSend.canon = true ∧ tSend.copyReady 1 0 = false ∧ ∃ h g m ring p, tSend.sendDue 1 0 = some (h, g, m, ring, p) :=
  ⟨by decide +kernel, by decide +kernel, by
    obtain ⟨x, hx⟩ := Option.isSome_iff_exists.mp (by decide +kernel : (tSend.sendDue 1 0).isSome = true)
    exact ⟨x.1, x.2.1, x.2.2.1, x.2.2.2.1, x.2.2.2.2, hx⟩⟩
theorem wit_snapDone : let s := tSett [] 4 (fun x => { x with regions := [tReg1 0], asids := [(1, { step := 6, first := 5, frozen := 6, local_ := 5, g := 5 })] }); s.canon = true ∧ s.snapDone 1 = true := by decide +kernel
/-- This device is the parity member. -/
def tFold : State := tSett [] 0 (fun x => { x with regions := [{ tReg1 0 with va := 0x40000 }], stripes := [{ asid := 1, desc := 0x20000, fold := 6 }], asids := [(1, { step := 9, first := 5, frozen := 9, local_ := 9, g := 5 })] })
theorem wit_fold : tFold.canon = true ∧ ∃ g, tFold.groupAt 1 0x20000 = some g ∧ tFold.foldDue (tFold.stripe 1 0x20000) g = true := by
  refine ⟨by decide +kernel, ?_⟩
  obtain ⟨g, hg⟩ := Option.isSome_iff_exists.mp (by decide +kernel : ((tFold.groupAt 1 0x20000).filter (fun g => tFold.foldDue (tFold.stripe 1 0x20000) g)).isSome = true)
  exact ⟨g, (Option.filter_eq_some_iff.mp hg).1, (Option.filter_eq_some_iff.mp hg).2⟩
/-- A REBUILD of the parity device 4 onto this device. -/
def tRebFs (dev : Nat) : List (Nat × Nat) := [(0, 12), (0x10, dev), (0x14, 0), (0x18, 0x20000)]
def tReb (dev : Nat) : State := tSett (tRebFs dev) 4 (fun x => { x with regions := [tReg1 0x20000] })
theorem wit_rebuild : ∀ dev ∈ [4], Starts (tReb dev) (tPkt2 1 (tRebFs dev)) (tAs (tReb dev)) .rebuild ∧ okWith (rebuildBody (tPkt2 1 (tRebFs dev)) (tReb dev)) (fun _ => true) = true
    ∧ okWith (rebuildBody (tPkt2 1 (tRebFs dev)) (begun (tReb dev) (tPkt2 1 (tRebFs dev)) (tAs (tReb dev)))) (fun _ => true) = true := by unfold Starts; decide +kernel
/-- A rebuild whose pages have all come, of a data member or the parity member. -/
def tCame (lost : Nat) : State :=
  { tSett [(8, 0x3000)] 4 (fun x => { x with regions := [tReg1 0x20000], rebuilds := [{ queue := 0, index := 0, asid := 1, desc := 0x20000, lost := lost, last := 3, r := some 5, got := [(0, 0x10000)] }] }) with
    sun := { State.reset.sun with queues := [(0, { tQueue 1 1 with rd := 1 })], active := [{ tActive .rebuild with asid := 1, cst := 0 }] } }
theorem wit_came : ∀ lost ∈ [0, 1], (tCame lost).canon = true ∧ (tCame lost).rebuilt 1 = ((tCame lost).groupAt 1 0x20000).map (fun g => ((tCame lost).sett.rebuilds.headD { queue := 0, index := 0, asid := 0, desc := 0, lost := 0, last := 0 }, g))
    ∧ ((tCame lost).groupAt 1 0x20000).isSome = true ∧ (tCame lost).sun.active.find? (fun a => decide (a.queue = 0) && decide (a.index = 0)) = some { tActive .rebuild with asid := 1, cst := 0 } := by decide +kernel

end Sys2Proof.Tests
end

section
/-! The canonical form along a step: each candidate of a step ends in a committed log of effects, and effects keep the form (Act.canon_apply). -/
namespace Sys2Proof.Machine

/-- The run record is no part of the canonical form. -/
theorem State.canon_setRun (s : State) (r : Run) (h : s.canon = true) : ({ s with run := r } : State).canon = true := h

theorem State.canon_tickAc (s : State) (h : s.canon = true) : s.tickAc.canon = true :=
  State.canon_setRun _ _ (State.canon_drift s h)

theorem State.canon_usePick (s : State) (h : s.canon = true) : s.usePick.canon = true := Act.canon_apply s _ h

theorem exec_canon (i : Instr) (s t : State) (hs : s.canon = true) (h : exec i s = .next t) : t.canon = true := by
  obtain ⟨es, rfl⟩ := exec_next i s t h
  exact canon_commit s es hs

theorem State.canon_arm (s : State) (e pkt : Nat) (ms : List Member) (bytes : List Byte) (pages : List (Page × Nat)) (h : s.canon = true) :
    (s.arm e pkt ms bytes pages).canon = true := canon_applyAll s _ h

/-- A group whose words do not all answer a next state answers none itself. -/
theorem runMembers_error_ne_next (s : State) (cur : Nat → Member → Cur) (pre : List Eff) (k : Nat) (fp : List Eff) (ms : List Member) (o : Host.Outcome State Fault Refusal)
    (h : runMembers s cur pre k fp ms = .error o) (t : State) : o ≠ .next t := by
  induction ms generalizing k fp with
  | nil => cases h
  | cons m ms ih =>
    simp only [runMembers] at h
    split at h
    · split at h
      · cases h
      · next heq => cases h; exact ih _ _ heq
    · cases h; nofun
    · cases h; nofun

theorem State.groupLog_error_ne_next (s : State) (e pkt first : Nat) (next : Nat × Nat) (n : Nat) (ms : List Member) (o : Host.Outcome State Fault Refusal)
    (h : s.groupLog e pkt first next n ms = .error o) (t : State) : o ≠ .next t := by
  unfold State.groupLog at h
  dsimp only at h
  split at h
  · next heq => cases h; exact runMembers_error_ne_next _ _ _ _ _ _ _ heq t
  · cases h

theorem State.issueSplit_canon (s t : State) (e : Nat) (hs : s.canon = true) (h : s.issueSplit e = .next t) : t.canon = true := by
  unfold State.issueSplit at h
  dsimp only at h
  split at h
  case h_1 => cases h; exact hs
  case h_2 => cases h; exact canon_commit _ _ hs
  case h_3 ms bytes pages _ =>
    have harm := State.canon_arm s e (s.slice ((s.byGslot (s.split e).slices).headD 0)).pc
    split at h
    · exact exec_canon _ _ _ (State.canon_setRun _ _ (harm _ _ _ hs)) h
    · split at h
      · next heq => exact absurd h (State.groupLog_error_ne_next _ _ _ _ _ _ _ _ heq t)
      · cases h
        exact canon_commit _ _ (State.canon_setRun _ _ (harm ms bytes pages hs))

theorem State.take_canon (s t : State) (c : Cand) (hs : s.canon = true) (h : s.take c = .next t) : t.canon = true := by
  cases c with
  | input i => exact exec_canon i _ _ (State.canon_setRun s _ hs) h
  | agent a =>
    obtain ⟨i, hi⟩ := runAgent_exec a s
    exact exec_canon i s t hs (hi ▸ h)
  | issue e => exact State.issueSplit_canon s t e hs h
  | pair e f =>
    simp only [State.take] at h
    split at h
    · next u hu => exact State.issueSplit_canon _ t f (State.canon_usePick u (State.issueSplit_canon s u e hs hu)) h
    · next hn => exact absurd h (hn t)

/-- Settles O4: one ac passes, and whichever candidate is taken ends in a canonical state. -/
theorem stepKeepsCanon : Obligations.StepKeepsCanon := by
  unfold Obligations.StepKeepsCanon
  intro s t hs h
  have ht := State.canon_tickAc s hs
  unfold step at h
  dsimp only at h
  split at h
  · cases h; exact ht
  · exact State.take_canon _ t _ ht h
  · exact State.take_canon _ t _ (State.canon_usePick _ ht) h

end Sys2Proof.Machine
end

section
/-! How an event's acts read back: the last act that writes a place decides it, and an act that writes another place leaves it. One rule for each place the engines keep. -/
namespace Sys2Proof.Machine

/-! ### Lists of acts -/

/-- An act of a list of two is one of them. -/
theorem Act.mem_two {a b c : Act} (h : a ∈ [b, c]) : a = b ∨ a = c := by
  simpa only [List.mem_cons, List.not_mem_nil, or_false] using h

/-- What one act brings about and no later act destroys holds at the end. -/
theorem State.actAll_last (Q : State → Prop) (s : State) (hs : s.canon = true) (pre post : List Act) (w : Act)
    (hw : ∀ u : State, u.canon = true → Q (w.apply u)) (hk : ∀ a ∈ post, ∀ u : State, u.canon = true → Q u → Q (a.apply u)) : Q (s.actAll (pre ++ w :: post)) := by
  rw [State.actAll_append, State.actAll_cons]
  have hc := State.canon_actAll s pre hs
  generalize s.actAll pre = u at hc
  have keep : ∀ (l : List Act) (u : State), (∀ a ∈ l, ∀ u : State, u.canon = true → Q u → Q (a.apply u)) → u.canon = true → Q u → Q (u.actAll l) := by
    intro l
    induction l with
    | nil => exact fun _ _ _ h => h
    | cons a l ih =>
      intro u hl hu h
      exact ih _ (fun b hb => hl b (List.mem_cons_of_mem _ hb)) (Act.canon_apply u a hu) (hl a List.mem_cons_self u hu h)
  exact keep post _ hk (Act.canon_apply u w hc) (hw u hc)

/-- What every act of a list keeps is kept. -/
theorem State.actAll_keeps {B : Type} (p : State → B) (s : State) (as : List Act) (h : ∀ a ∈ as, ∀ u : State, p (a.apply u) = p u) : p (s.actAll as) = p s := by
  induction as generalizing s with
  | nil => rfl
  | cons a as ih => exact (ih _ (fun b hb => h b (List.mem_cons_of_mem _ hb))).trans (h a List.mem_cons_self s)

/-- An act of a chain is an act of one of its parts, in some state on the way. -/
theorem State.mem_chain (s : State) (fs : List (State → List Act)) (a : Act) (h : a ∈ s.chain fs) : ∃ f ∈ fs, ∃ u, a ∈ f u := by
  induction fs generalizing s with
  | nil => cases h
  | cons f fs ih =>
    rcases List.mem_append.mp h with h | h
    · exact ⟨f, List.mem_cons_self, s, h⟩
    · obtain ⟨g, hg, u, hu⟩ := ih _ h
      exact ⟨g, List.mem_cons_of_mem _ hg, u, hu⟩

/-- An event happens as its acts lead, as far as the log is not looked at. -/
theorem happens_of_event {i : Instr} {s : State} {P : State → Prop} (as : List Act) (he : exec i s = event s as) (hl : ∀ (u : State) (l : List Eff), P u → P { u with log := l })
    (hp : P (s.actAll as)) : Happens i s P :=
  ⟨_, he, by rw [commit_plain]; exact hl _ _ hp⟩

/-! ### The maps of a canonical state -/

theorem State.canon_mat (s : State) (h : s.canon = true) :
    Sparse.wf (0, 0) s.mat.els = true ∧ Sparse.wf {} s.mat.tiles = true ∧ Sparse.wf none s.mat.mmas = true ∧ Sparse.wf {} s.mat.engines = true := by
  simp only [State.canon, Mat.wf, Bool.and_eq_true] at h
  obtain ⟨⟨_, ⟨⟨⟨⟨⟨els, _⟩, tiles⟩, mmas⟩, engines⟩, _⟩⟩, _⟩ := h
  exact ⟨els, tiles, mmas, engines⟩

theorem State.canon_queues (s : State) (h : s.canon = true) : Sparse.wf {} s.cpy.queues = true := by
  simp only [State.canon, Cpy.wf, Bool.and_eq_true] at h
  obtain ⟨_, ⟨⟨queues, _⟩, _⟩, _⟩ := h
  exact queues

theorem State.canon_cores (s : State) (h : s.canon = true) : Sparse.wf {} s.coh.cores = true ∧ Sparse.wf {} s.coh.dies = true := by
  have hc := canon_coh s h
  simp only [Coh.wf, Bool.and_eq_true] at hc
  obtain ⟨⟨⟨⟨⟨cores, dies⟩, _⟩, _⟩, _⟩, _⟩ := hc
  exact ⟨cores, dies⟩

theorem State.canon_ctl (s : State) (h : s.canon = true) :
    Sparse.wf {} s.ctl.slices = true ∧ Sparse.wf {} s.ctl.packs = true ∧ Sparse.wf {} s.ctl.bars = true ∧ Sparse.wf 0 s.ctl.tcs = true := by
  simp only [State.canon, Ctl.wf, Bool.and_eq_true] at h
  obtain ⟨⟨⟨_, ⟨⟨⟨⟨⟨⟨⟨⟨⟨slices, _⟩, _⟩, packs⟩, bars⟩, _⟩, tcs⟩, _⟩, _⟩, _⟩⟩, _⟩, _⟩ := h
  exact ⟨slices, packs, bars, tcs⟩

theorem State.canon_wts (s : State) (h : s.canon = true) : Sparse.wf 0 s.mem.wts = true := by
  have hm := canon_bytes s h
  simp only [Memory.wf, Bool.and_eq_true] at hm
  obtain ⟨⟨⟨_, wts⟩, _⟩, _⟩ := hm
  exact wts

/-! ### What an act writes reads back -/

theorem Act.engine_same (s : State) (h : s.canon = true) (q : Nat) (e : Engine) : ((Act.engine q e).apply s).engine q = e := by
  obtain ⟨_, _, _, hw⟩ := State.canon_mat s h
  exact Sparse.get_set_same _ _ _ _ hw
theorem Act.tile_same (s : State) (h : s.canon = true) (k : Nat) (x : TileSt) : ((Act.tile k x).apply s).tileSt k = x := by
  obtain ⟨_, hw, _, _⟩ := State.canon_mat s h
  exact Sparse.get_set_same _ _ _ _ hw
theorem Act.setMma_same (s : State) (h : s.canon = true) (id : Nat) (m : Option Mma) : ((Act.setMma id m).apply s).mma? id = m := by
  obtain ⟨_, _, hw, _⟩ := State.canon_mat s h
  exact Sparse.get_set_same _ _ _ _ hw
theorem Act.el_get (s : State) (h : s.canon = true) (k j : Nat) (x : Word × Word) (b : Bool) :
    Sparse.get (0, 0) ((Act.el k x b).apply s).mat.els j = if j = k then x else Sparse.get (0, 0) s.mat.els j := by
  obtain ⟨hw, _, _, _⟩ := State.canon_mat s h
  exact Sparse.get_set _ _ _ _ _ hw
theorem Act.die_same (s : State) (h : s.canon = true) (d : Nat) (x : Die) : ((Act.die d x).apply s).die d = x :=
  Sparse.get_set_same _ _ _ _ (State.canon_cores s h).2
theorem Act.cqueue_same (s : State) (h : s.canon = true) (k : Nat) (q : CQueue) : ((Act.cqueue k q).apply s).cqueue k = q :=
  Sparse.get_set_same _ _ _ _ (State.canon_queues s h)
theorem Act.bar_same (s : State) (h : s.canon = true) (k : Nat) (b : Bar) : ((Act.bar k b).apply s).bar k = b := by
  obtain ⟨_, _, hw, _⟩ := State.canon_ctl s h
  exact Sparse.get_set_same _ _ _ _ hw
theorem Act.tc_le (s : State) (h : s.canon = true) (k n : Nat) : n ≤ ((Act.tc k n).apply s).tcOf k := by
  obtain ⟨_, _, _, hw⟩ := State.canon_ctl s h
  have : ((Act.tc k n).apply s).tcOf k = max n (s.tcOf k) := Sparse.get_set_same _ _ _ _ hw
  omega
theorem Act.raiseObsv_le (s : State) (h : s.canon = true) (c n : Nat) : n ≤ (((Act.raiseObsv c n).apply s).core c).obsv := by
  have : ((Act.raiseObsv c n).apply s).core c = { s.core c with obsv := max (s.core c).obsv n } := Sparse.get_set_same _ _ _ _ (State.canon_cores s h).1
  rw [this]
  exact Nat.le_max_right _ _
theorem Act.times_wts (s : State) (h : s.canon = true) (l w r : Nat) : Sparse.get 0 ((Act.times l w r).apply s).mem.wts l = w :=
  Sparse.get_set_same _ _ _ _ (State.canon_wts s h)

/-! ### What the acts leave in the matrix part -/

/-- The places of the matrix part that the engines work on. -/
inductive MatPart where
  | els | tiles | mmas | engines | drains
  deriving DecidableEq

/-- Which of them an act writes. -/
def Act.matParts : Act → List MatPart
  | .el _ _ _ => [.els]
  | .tile _ _ => [.tiles]
  | .addMma _ => [.mmas]
  | .setMma _ _ => [.mmas]
  | .engine _ _ => [.engines]
  | .drains _ _ => [.drains]
  | .coldStart => [.els, .tiles, .mmas, .engines, .drains]
  | _ => []

theorem State.journaled_only (s : State) (k n : Nat) (old : Option (List Byte)) : s.journaled k n old = { s.mat with journal := (s.journaled k n old).journal } := by
  unfold State.journaled
  split <;> rfl

theorem Mat.fenced_only (x : Mat) (p : Nat) : x.fenced p = { x with stale := (x.fenced p).stale } := by
  unfold Mat.fenced
  split <;> rfl

/-- Writes, notes of earlier writes and marks of undefined elements leave all five places alone. -/
theorem Act.keeps_matPart {B : Type} (p : Mat → B) (hp : ∀ (x : Mat) j st u, p { x with journal := j, stale := st, undef := u } = p x) (s : State) (a : Act) (h : a.matParts = []) :
    p (a.apply s).mat = p s.mat := by
  by_cases hm : Field.mat ∈ a.parts
  · cases a <;> simp [Act.parts] at hm <;> simp [Act.matParts] at h
    case undefEl k => exact hp s.mat s.mat.journal s.mat.stale _
    case stale v => exact hp s.mat s.mat.journal _ s.mat.undef
    case freshSlice sl => exact hp s.mat s.mat.journal _ s.mat.undef
    case observe sl => exact hp s.mat s.mat.journal _ s.mat.undef
    case copyRange a b n => exact hp s.mat _ _ s.mat.undef
    case freshPack q => simp only [Act.apply]; rw [Mat.fenced_only]; exact hp s.mat s.mat.journal _ s.mat.undef
    case raise k n => simp only [Act.apply]; rw [State.journaled_only]; exact hp s.mat _ s.mat.stale s.mat.undef
    case refill k bs id => simp only [Act.apply]; rw [State.journaled_only]; exact hp s.mat _ s.mat.stale s.mat.undef
    case store k bs id => simp only [Act.apply]; rw [State.journaled_only]; exact hp s.mat _ s.mat.stale s.mat.undef
  · rw [Act.keeps_mat s a hm]

theorem Act.keeps_els (s : State) (a : Act) (h : MatPart.els ∉ a.matParts) : (a.apply s).mat.els = s.mat.els := by
  by_cases h0 : a.matParts = []
  · exact Act.keeps_matPart (·.els) (fun _ _ _ _ => rfl) s a h0
  · cases a <;> simp [Act.matParts] at h h0 <;> rfl
theorem Act.keeps_tiles (s : State) (a : Act) (h : MatPart.tiles ∉ a.matParts) : (a.apply s).mat.tiles = s.mat.tiles := by
  by_cases h0 : a.matParts = []
  · exact Act.keeps_matPart (·.tiles) (fun _ _ _ _ => rfl) s a h0
  · cases a <;> simp [Act.matParts] at h h0 <;> rfl
theorem Act.keeps_mmas (s : State) (a : Act) (h : MatPart.mmas ∉ a.matParts) : (a.apply s).mat.mmas = s.mat.mmas := by
  by_cases h0 : a.matParts = []
  · exact Act.keeps_matPart (·.mmas) (fun _ _ _ _ => rfl) s a h0
  · cases a <;> simp [Act.matParts] at h h0 <;> rfl
theorem Act.keeps_engines (s : State) (a : Act) (h : MatPart.engines ∉ a.matParts) : (a.apply s).mat.engines = s.mat.engines := by
  by_cases h0 : a.matParts = []
  · exact Act.keeps_matPart (·.engines) (fun _ _ _ _ => rfl) s a h0
  · cases a <;> simp [Act.matParts] at h h0 <;> rfl
theorem Act.keeps_drains (s : State) (a : Act) (h : MatPart.drains ∉ a.matParts) : (a.apply s).mat.drains = s.mat.drains := by
  by_cases h0 : a.matParts = []
  · exact Act.keeps_matPart (·.drains) (fun _ _ _ _ => rfl) s a h0
  · cases a <;> simp [Act.matParts] at h h0 <;> rfl

/-- The accesses of agents write none of them. -/
theorem Act.quiet_matParts (a : Act) (h : a.quiet = true) : a.matParts = [] := by
  cases a <;> simp [Act.quiet] at h <;> rfl

end Sys2Proof.Machine
end

section
/-! The power tokens and the matrix engines (R19, R264 to R276). -/
namespace Sys2Proof.Machine

/-! ### Blocks -/

theorem allOk_eq_ok {α ε : Type} (l : List (Except ε α)) (xs : List α) : allOk l = .ok xs ↔ l = xs.map .ok := by
  induction l generalizing xs with
  | nil => cases xs <;> simp [allOk]
  | cons x l ih =>
    cases x with
    | error e => cases xs <;> simp [allOk]
    | ok x =>
      cases xs with
      | nil => cases h : allOk l <;> simp [allOk, h]
      | cons y ys =>
        rw [List.map_cons, List.cons.injEq, Except.ok.injEq, ← ih]
        cases h : allOk l <;> simp [allOk, h]

/-- The acts of one element of a block, from its row of A and its column of B. -/
def State.elemActs (s : State) (m : Mma) (i j : Nat) (a b : List OpVal) : List Act :=
  if (a ++ b).any (fun x => x.changed) then
    [.el (elKey m.tile i j) (Config.undefWord s.run.draws (2 * (64 * i + j)), Config.undefWord s.run.draws (2 * (64 * i + j) + 1))
        ((a ++ b).any (fun x => x.psn) || (m.acc && s.elMark m.tile i j)), .undefEl (elKey m.tile i j)]
  else [Act.el (elKey m.tile i j) (accumulate m.neg (nativeK m.fa m.fb).2 (if m.acc then s.el m.tile i j else (0, 0)) a b)
        ((a ++ b).any (fun x => x.psn) || (m.acc && s.elMark m.tile i j))]

/-- The acts of a block are those of its elements. -/
theorem State.mem_blockActs (s : State) (m : Mma) (acts : List Act) (h : s.blockActs m = .ok acts) (x : Act) :
    x ∈ acts ↔ ∃ i ∈ m.blockRows, ∃ j < 64, ∃ a b, allOk ((List.range m.k).map (fun k => s.elemA m i k)) = .ok a
      ∧ allOk ((List.range m.k).map (fun k => s.elemB m k j)) = .ok b ∧ x ∈ s.elemActs m i j a b := by
  unfold State.blockActs at h
  dsimp only at h
  split at h
  · cases h
  next cols hcols =>
  rw [allOk_eq_ok] at hcols
  have hcol : ∀ j b, (b, j) ∈ cols.zipIdx ↔ j < 64 ∧ allOk ((List.range m.k).map (fun k => s.elemB m k j)) = .ok b := by
    intro j b
    have hj := congrArg (·[j]?) hcols
    simp only [List.getElem?_map] at hj
    rw [List.mem_zipIdx_iff_getElem?]
    by_cases hlt : j < 64
    · simp only [List.getElem?_range hlt, Option.map_some] at hj
      cases hc : cols[j]? with
      | none => rw [hc] at hj; cases hj
      | some c =>
        rw [hc, Option.map_some, Option.some.injEq] at hj
        rw [hj]
        simp [hlt]
    · have hlen : cols.length = 64 := by simpa using (congrArg List.length hcols).symm
      simp [hlt, List.getElem?_eq_none (by omega : cols.length ≤ j)]
  revert h
  generalize hr : allOk (m.blockRows.map _) = r
  intro h
  cases r with
  | error e => cases h
  | ok rows =>
    cases h
    rw [allOk_eq_ok] at hr
    have hrow : ∀ row, row ∈ rows ↔ (Except.ok row : Except OpStop (List Act)) ∈ rows.map .ok := by simp
    simp only [List.mem_flatten, hrow, ← hr, List.mem_map]
    constructor
    · rintro ⟨row, ⟨i, hi, hrow⟩, hx⟩
      cases ha : allOk ((List.range m.k).map (fun k => s.elemA m i k)) with
      | error e => rw [ha] at hrow; cases hrow
      | ok a =>
        rw [ha] at hrow
        cases hrow
        simp only [List.mem_flatMap, Prod.exists] at hx
        obtain ⟨b, j, hb, hx⟩ := hx
        obtain ⟨hlt, hb⟩ := (hcol j b).mp hb
        exact ⟨i, hi, j, hlt, a, b, ha, hb, hx⟩
    · rintro ⟨i, hi, j, hlt, a, b, ha, hb, hx⟩
      refine ⟨_, ⟨i, hi, by rw [ha]; rfl⟩, ?_⟩
      simp only [List.mem_flatMap, Prod.exists]
      exact ⟨b, j, (hcol j b).mpr ⟨hlt, hb⟩, hx⟩

/-- A block writes elements and marks them as undefined, nothing else. -/
theorem State.blockActs_kinds (s : State) (m : Mma) (acts : List Act) (h : s.blockActs m = .ok acts) : ∀ x ∈ acts, (∃ k v b, x = .el k v b) ∨ x.matParts = [] := by
  intro x hx
  obtain ⟨i, _, j, _, a, b, _, _, hx⟩ := (s.mem_blockActs m acts h x).mp hx
  unfold State.elemActs at hx
  split at hx
  · rcases Act.mem_two hx with rfl | rfl
    · exact .inl ⟨_, _, _, rfl⟩
    · exact .inr rfl
  · rw [List.mem_singleton.mp hx]
    exact .inl ⟨_, _, _, rfl⟩

theorem elKey_inj (tile i j i' j' : Nat) (hj : j < 64) (hj' : j' < 64) (h : elKey tile i j = elKey tile i' j') : i = i' ∧ j = j' := by
  unfold elKey at h
  omega

/-- A place of the element file that all writes of a list agree on holds what they write. -/
theorem State.els_of_writes (s : State) (hs : s.canon = true) (as : List Act) (k : Nat) (x : Word × Word) (b : Bool) (hx : .el k x b ∈ as) (hall : ∀ v b, .el k v b ∈ as → v = x)
    (hk : ∀ a ∈ as, (∃ k v b, a = .el k v b) ∨ a.matParts = []) : Sparse.get (0, 0) (s.actAll as).mat.els k = x := by
  obtain ⟨pre, post, rfl⟩ := List.append_of_mem hx
  refine State.actAll_last (fun u => Sparse.get (0, 0) u.mat.els k = x) s hs pre post _ (fun u hu => by rw [Act.el_get u hu, if_pos rfl]) (fun a ha u hu h => ?_)
  have hmem : a ∈ pre ++ .el k x b :: post := List.mem_append_right _ (List.mem_cons_of_mem _ ha)
  rcases hk a hmem with ⟨k', v, b', rfl⟩ | hn
  · rw [Act.el_get u hu]
    split
    · next e => subst e; exact hall v b' hmem
    · exact h
  · rw [Act.keeps_els u a (by simp [hn])]
    exact h

/-- An element of a block's rows, none of whose operands was written since the MMA's issue, holds the accumulation of its products (R267, R273). -/
theorem State.el_blockActs (s : State) (hs : s.canon = true) (m : Mma) (acts : List Act) (h : s.blockActs m = .ok acts) (i j : Nat) (hi : i ∈ m.blockRows) (hj : j < 64) (a b : List OpVal)
    (ha : allOk ((List.range m.k).map (fun k => s.elemA m i k)) = .ok a) (hb : allOk ((List.range m.k).map (fun k => s.elemB m k j)) = .ok b) (hn : (a ++ b).any (fun x => x.changed) = false) :
    (s.actAll acts).el m.tile i j = accumulate m.neg (nativeK m.fa m.fb).2 (if m.acc then s.el m.tile i j else (0, 0)) a b := by
  refine State.els_of_writes s hs acts (elKey m.tile i j) _ ((a ++ b).any (fun x => x.psn) || (m.acc && s.elMark m.tile i j)) ?_ ?_ (s.blockActs_kinds m acts h)
  · exact (s.mem_blockActs m acts h _).mpr ⟨i, hi, j, hj, a, b, ha, hb, by simp [State.elemActs, hn]⟩
  · intro v mark hv
    obtain ⟨i', _, j', hj', a', b', ha', hb', hv⟩ := (s.mem_blockActs m acts h _).mp hv
    have hkey : elKey m.tile i j = elKey m.tile i' j' := by
      unfold State.elemActs at hv
      split at hv <;> simp at hv <;> exact hv.1
    obtain ⟨rfl, rfl⟩ := elKey_inj _ _ _ _ _ hj hj' hkey
    rw [ha] at ha'; rw [hb] at hb'
    cases ha'; cases hb'
    simp only [State.elemActs, hn, Bool.false_eq_true, ↓reduceIte, List.mem_singleton, Act.el.injEq] at hv
    exact hv.2.1

/-! ### What else the end of a block does -/

theorem State.spotActs_matParts (s : State) (core ck : Nat) (x : Page × Nat) : ∀ a ∈ s.spotActs core ck x, a.matParts = [] := by
  intro a ha
  unfold State.spotActs at ha
  dsimp only at ha
  rcases List.mem_append.mp ha with ha | ha
  · split at ha
    · rw [List.mem_singleton.mp ha]; rfl
    · rcases List.mem_append.mp ha with ha | ha
      · rcases Act.mem_two ha with rfl | rfl <;> rfl
      · split at ha
        · unfold State.fillActs at ha
          dsimp only at ha
          rcases List.mem_append.mp ha with ha | ha
          · split at ha <;> simp at ha; rw [ha]; rfl
          · split at ha <;> simp at ha; rw [ha]; rfl
        · cases ha
  · obtain ⟨l, _, rfl⟩ := List.mem_map.mp ha
    rfl

theorem State.operandActs_matParts (s : State) (m : Mma) : ∀ a ∈ s.operandActs m, a.matParts = [] := by
  intro a ha
  unfold State.operandActs at ha
  dsimp only at ha
  rcases List.mem_append.mp ha with ha | ha
  · rcases List.mem_append.mp ha with ha | ha
    · obtain ⟨x, _, ha⟩ := List.mem_flatMap.mp ha
      exact Act.quiet_matParts a (State.pageActsAs_quiet _ _ _ _ _ _ a ha)
    · obtain ⟨x, _, ha⟩ := List.mem_flatMap.mp ha
      exact State.spotActs_matParts _ _ _ _ a ha
  · obtain ⟨l, _, rfl⟩ := List.mem_map.mp ha
    rfl

theorem State.returnToken_matParts (s : State) (q : Nat) (e : Engine) : ∀ a ∈ s.returnToken q e, a.matParts = [] := by
  intro a ha
  unfold State.returnToken at ha
  split at ha
  · rw [List.mem_singleton.mp ha]; rfl
  · cases ha

/-- An engine whose MMA has stopped runs none; a returned token changes no place of the matrix part. -/
theorem State.engineOn_eq (s : State) (q : Nat) (queue : List Nat) : ∃ e post, s.engineOn q queue = .engine q e :: post ∧ e.running = none ∧ ∀ a ∈ post, a.matParts = [] := by
  unfold State.engineOn
  dsimp only
  split
  · exact ⟨_, [], rfl, rfl, fun _ h => absurd h List.not_mem_nil⟩
  · exact ⟨_, _, rfl, rfl, State.returnToken_matParts s q _⟩

/-- An MMA after its next block (R267): it ends with row 63. -/
def Mma.after (m : Mma) : Option Mma := if m.row / 8 * 8 + 8 < 64 then some { m with row := m.row / 8 * 8 + 8 } else none

/-- The watermark of a tile after the next block of one of its MMAs (R264). -/
def State.wmAfter (s : State) (id : Nat) (m : Mma) : Nat :=
  wmOf ((if m.row / 8 * 8 + 8 < 64 then [{ m with row := m.row / 8 * 8 + 8 }] else []) ++ ((s.mmasOn m.tile).filter (fun e => decide (e.1 ≠ id))).map (fun e => e.2))

/-- What the end of a block does to its MMA and its engine. -/
def State.blockTail (s : State) (quad id : Nat) (m : Mma) : List Act :=
  if 64 ≤ m.row / 8 * 8 + 8 then .setMma id none :: s.engineFree quad
  else if (s.pack (m.gang / 128)).freeze then .setMma id (some { m with row := m.row / 8 * 8 + 8 }) :: s.engineOn quad (id :: (s.engine quad).queue)
  else [.setMma id (some { m with row := m.row / 8 * 8 + 8 }), .engine quad { s.engine quad with blockAt := s.run.ac }]

theorem State.blockTail_eq (s : State) (quad id : Nat) (m : Mma) : ∃ e post, s.blockTail quad id m = .setMma id m.after :: .engine quad e :: post
    ∧ e.running = (if m.row / 8 * 8 + 8 < 64 ∧ (s.pack (m.gang / 128)).freeze = false then (s.engine quad).running else none) ∧ ∀ a ∈ post, a.matParts = [] := by
  unfold State.blockTail State.engineFree Mma.after
  by_cases h64 : m.row / 8 * 8 + 8 < 64
  · rw [if_neg (Nat.not_le.mpr h64), if_pos h64]
    by_cases hf : (s.pack (m.gang / 128)).freeze = true
    · obtain ⟨e, post, he, hr, hp⟩ := s.engineOn_eq quad (id :: (s.engine quad).queue)
      rw [if_pos hf, he, hf]
      exact ⟨e, post, rfl, by rw [hr, if_neg (fun h => absurd h.2 (by decide))], hp⟩
    · rw [if_neg hf]
      exact ⟨_, [], rfl, by rw [if_pos ⟨h64, by simpa using hf⟩], fun _ h => absurd h List.not_mem_nil⟩
  · obtain ⟨e, post, he, hr, hp⟩ := s.engineOn_eq quad (s.engine quad).queue
    rw [if_pos (Nat.not_lt.mp h64), if_neg h64, he]
    exact ⟨e, post, rfl, by rw [hr, if_neg (fun h => h64 h.1)], hp⟩

/-- The end of a block in order: the elements, the operand loads, the watermark, the MMA and its engine. -/
theorem State.blockEnd_eq (s : State) (quad id : Nat) (m : Mma) (acts : List Act) :
    s.blockEnd quad id m acts = acts ++ s.operandActs m
      ++ [.tile m.tile { s.tileSt m.tile with wm := s.wmAfter id m }, .draw (if s.mat.journal.length ≤ m.from_ then 0 else 1)] ++ s.blockTail quad id m := rfl

theorem State.pieceWrite_matParts (s : State) (d : Drain) (id : Option Nat) (r : Req) : ∀ a ∈ s.pieceWrite d id r, a.matParts = [] := by
  intro a ha
  unfold State.pieceWrite localStore at ha
  dsimp only at ha
  split at ha
  · simp only [List.mem_cons, List.mem_append, List.cons_append, List.mem_map] at ha
    rcases ha with rfl | rfl | (⟨k, _, rfl⟩ | ha) | ha
    · rfl
    · rfl
    · rfl
    · split at ha <;> simp at ha; rw [ha]; rfl
    · split at ha <;> simp at ha; rw [ha]; rfl
  · split at ha <;> (rw [List.mem_singleton.mp ha]; rfl)

theorem Drain.clears_matParts (d : Drain) : ∀ a ∈ d.clears, a.matParts = [.els] := by
  intro a ha
  unfold Drain.clears at ha
  split at ha
  · simp only [List.mem_flatMap, List.mem_map] at ha
    obtain ⟨i, _, j, _, rfl⟩ := ha
    rfl
  · cases ha

/-- Drains that go on change elements and drains only. -/
theorem State.tileDrains_matParts (s : State) (tile : Nat) : ∀ a ∈ s.tileDrains tile, ∀ p ∈ a.matParts, p = .els ∨ p = .drains := by
  intro a ha p hp
  obtain ⟨f, hf, u, ha⟩ := State.mem_chain _ _ _ ha
  obtain ⟨d, _, rfl⟩ := List.mem_map.mp hf
  unfold State.drainOn at ha
  dsimp only at ha
  rcases List.mem_append.mp ha with ha | ha
  · obtain ⟨e, _, ha⟩ := List.mem_flatMap.mp ha
    rw [State.pieceWrite_matParts _ _ _ _ a ha] at hp
    cases hp
  · split at ha
    · rcases List.mem_cons.mp ha with rfl | ha
      · exact .inr (List.mem_singleton.mp hp)
      · rw [Drain.clears_matParts d a ha] at hp
        exact .inl (List.mem_singleton.mp hp)
    · cases ha

/-- Where no drain reads a tile, none goes on. -/
theorem State.tileDrains_nil (s : State) (tile : Nat) (h : ∀ d ∈ s.mat.drains, d.tile ≠ tile) : s.tileDrains tile = [] := by
  have : s.mat.drains.filter (fun d => decide (d.tile = tile) && d.going) = [] := List.filter_eq_nil_iff.mpr (fun d hd => by simp [h d hd])
  unfold State.tileDrains
  rw [this]
  rfl

end Sys2Proof.Machine
end

section
/-! What the steps of the tokens and the matrix engines do (R19, R265, R267, R275). -/
namespace Sys2Proof.Machine

/-- A free token goes to the engine the arbitration names (R19). -/
theorem tokenGrant_happens (s : State) (die q : Nat) (hs : s.canon = true) (hi : s.idleToken die = none) (hq : s.tokenFor die = some q) (hp : (s.die die).held < (s.die die).pool) :
    Happens (.tokenGrant die) s (fun t => (t.engine q).token = true ∧ (t.engine q).queue = (s.engine q).queue ∧ (t.die die).held = (s.die die).held + 1) := by
  have ready : s.tokenReady die = true := by simp [State.tokenReady, hq, hp]
  refine happens_of_event [.engine q { s.engine q with token := true }, .die die { s.die die with held := (s.die die).held + 1 }] ?_ (fun _ _ h => h) ?_
  · show execTokenGrant die s = _
    simp only [execTokenGrant, hi, hq, ready, if_true]
  · have he := Act.engine_same s hs q { s.engine q with token := true }
    have hd := Act.die_same _ (Act.canon_apply s (.engine q { s.engine q with token := true }) hs) die { s.die die with held := (s.die die).held + 1 }
    exact ⟨congrArg (·.token) he, congrArg (·.queue) he, congrArg (·.held) hd⟩

/-- The first MMA of a queue may begin when its gang has no parked one and its pack is not being pre-empted (R265, R275). -/
theorem State.nextMma_eq_some (s : State) (q id : Nat) (ids : List Nat) (m : Mma) (hq : (s.engine q).queue = id :: ids) (hm : s.mma? id = some m)
    (hp : ∀ e ∈ s.mmas, e.2.gang = m.gang → e.2.parked = none) (hf : (s.pack (m.gang / 128)).freeze = false) : s.nextMma q = some id := by
  have hany : s.mmas.any (fun e => decide (e.2.gang = m.gang) && e.2.parked.isSome) = false := by
    rw [List.any_eq_false]
    intro e he h
    simp only [Bool.and_eq_true, decide_eq_true_eq] at h
    rw [hp e he h.1] at h
    exact absurd h.2 (by decide)
  simp only [State.nextMma, State.nextOf, hq, hm, hany, hf, Bool.or_self, Bool.false_eq_true, ↓reduceIte]

/-- An engine with a token begins the first MMA of its queue (R265). -/
theorem mmaEngineStart_happens (s : State) (q id : Nat) (ids : List Nat) (m : Mma) (hs : s.canon = true) (hr : (s.engine q).running = none) (ht : (s.engine q).token = true)
    (hq : (s.engine q).queue = id :: ids) (hm : s.mma? id = some m) (hp : ∀ e ∈ s.mmas, e.2.gang = m.gang → e.2.parked = none) (hf : (s.pack (m.gang / 128)).freeze = false) :
    Happens (.mmaEngineStart q) s (fun t => (t.engine q).running = some id ∧ (t.engine q).queue = ids ∧ (t.engine q).blockAt = s.run.ac) := by
  have hn := s.nextMma_eq_some q id ids m hq hm hp hf
  have ready : s.engineReady q = true := by simp [State.engineReady, hr, ht, hn]
  refine happens_of_event [.engine q { s.engine q with running := some id, queue := (s.engine q).queue.drop 1, blockAt := s.run.ac }] ?_ (fun _ _ h => h) ?_
  · show execMmaEngineStart q s = _
    simp only [execMmaEngineStart, hn, ready, if_true]
  · have he := Act.engine_same s hs q { s.engine q with running := some id, queue := (s.engine q).queue.drop 1, blockAt := s.run.ac }
    exact ⟨congrArg (·.running) he, (congrArg (·.queue) he).trans (by rw [hq]; rfl), congrArg (·.blockAt) he⟩

/-- A block whose operand page is on its way parks its MMA, and the engine runs none (R275). -/
theorem mmaBlockEnd_parks (s : State) (q id va : Nat) (m : Mma) (hs : s.canon = true) (hr : (s.engine q).running = some id) (hm : s.mma? id = some m)
    (hb : (s.engine q).blockAt + 4 * m.m ≤ s.run.ac) (hd : s.drainsBefore id m = false) (hp : s.blockActs m = .error (.park va)) :
    Happens (.mmaBlockEnd q) s (fun t => t.mma? id = some { m with parked := some va } ∧ (t.engine q).running = none ∧ t.mat.els = s.mat.els) := by
  have hpost := s.returnToken_matParts q (s.engine q)
  refine happens_of_event (.setMma id (some { m with parked := some va }) :: .engine q { s.engine q with running := none, token := false } :: s.returnToken q (s.engine q)) ?_ (fun _ _ h => h) ⟨?_, ?_, ?_⟩
  · show execMmaBlockEnd q s = _
    simp only [execMmaBlockEnd, hr, hm, hd, hp, Nat.not_lt.mpr hb, decide_false, Bool.or_self, Bool.false_eq_true, ↓reduceIte]
  · refine State.actAll_last (fun u => u.mma? id = _) s hs [] _ _ (fun u hu => Act.setMma_same u hu id _) ?_
    intro a ha u _ h
    have hk : MatPart.mmas ∉ a.matParts := by
      rcases List.mem_cons.mp ha with rfl | ha
      · simp [Act.matParts]
      · simp [hpost a ha]
    unfold State.mma?
    rw [Act.keeps_mmas u a hk]
    exact h
  · refine State.actAll_last (fun u => (u.engine q).running = none) s hs [_] _ _ (fun u hu => congrArg (·.running) (Act.engine_same u hu q _)) ?_
    intro a ha u _ h
    unfold State.engine
    rw [Act.keeps_engines u a (by simp [hpost a ha])]
    exact h
  · refine State.actAll_keeps (fun u => u.mat.els) s _ ?_
    intro a ha u
    refine Act.keeps_els u a ?_
    rcases List.mem_cons.mp ha with rfl | ha
    · simp [Act.matParts]
    · rcases List.mem_cons.mp ha with rfl | ha
      · simp [Act.matParts]
      · simp [hpost a ha]

/-- The end of a block, before the drains that waited for it: its MMA, the watermark, the engine and the elements of its rows (R267). -/
theorem State.blockEnd_effect (s : State) (q id : Nat) (m : Mma) (acts : List Act) (hs : s.canon = true) (ha : s.blockActs m = .ok acts) :
    let t := s.actAll (s.blockEnd q id m acts)
    t.mma? id = m.after ∧ (t.tileSt m.tile).wm = s.wmAfter id m ∧ t.mat.drains = s.mat.drains ∧ t.mat.els = (s.actAll acts).mat.els
      ∧ (t.engine q).running = (if m.row / 8 * 8 + 8 < 64 ∧ (s.pack (m.gang / 128)).freeze = false then (s.engine q).running else none) := by
  intro t
  obtain ⟨e, post, htail, hrun, hpost⟩ := s.blockTail_eq q id m
  have hkinds := s.blockActs_kinds m acts ha
  have hops := s.operandActs_matParts m
  have ht : t = s.actAll (acts ++ s.operandActs m ++ [.tile m.tile { s.tileSt m.tile with wm := s.wmAfter id m }, .draw (if s.mat.journal.length ≤ m.from_ then 0 else 1)]
      ++ .setMma id m.after :: .engine q e :: post) := by rw [← htail, ← State.blockEnd_eq]
  have hpostEngine : ∀ a ∈ Act.engine q e :: post, a.matParts = [.engines] ∨ a.matParts = [] := by
    intro a h
    rcases List.mem_cons.mp h with rfl | h
    · exact .inl rfl
    · exact .inr (hpost a h)
  refine ⟨?_, ?_, ?_, ?_, ?_⟩
  · rw [ht]
    refine State.actAll_last (fun u => u.mma? id = _) s hs _ _ _ (fun u hu => Act.setMma_same u hu id _) ?_
    intro a h u _ hu
    unfold State.mma?
    rw [Act.keeps_mmas u a (by rcases hpostEngine a h with h | h <;> simp [h])]
    exact hu
  · rw [ht, List.append_assoc (acts ++ s.operandActs m)]
    refine State.actAll_last (fun u => (u.tileSt m.tile).wm = _) s hs _ _ _ (fun u hu => congrArg (·.wm) (Act.tile_same u hu m.tile _)) ?_
    intro a h u _ hu
    have hk : MatPart.tiles ∉ a.matParts := by
      rcases List.mem_cons.mp h with rfl | h
      · simp [Act.matParts]
      · rcases List.mem_cons.mp h with rfl | h
        · simp [Act.matParts]
        · rcases hpostEngine a h with h | h <;> simp [h]
    unfold State.tileSt
    rw [Act.keeps_tiles u a hk]
    exact hu
  · rw [ht]
    refine State.actAll_keeps (fun u => u.mat.drains) s _ (fun a h u => Act.keeps_drains u a ?_)
    simp only [List.mem_append, List.mem_cons, List.not_mem_nil, or_false] at h
    rcases h with ((h | h) | rfl | rfl) | rfl | h
    · rcases hkinds a h with ⟨_, _, _, rfl⟩ | h
      · simp [Act.matParts]
      · simp [h]
    · simp [hops a h]
    · simp [Act.matParts]
    · simp [Act.matParts]
    · simp [Act.matParts]
    · rcases hpostEngine a (List.mem_cons.mpr h) with h | h <;> simp [h]
  · rw [ht, List.append_assoc, List.append_assoc, State.actAll_append]
    refine State.actAll_keeps (fun u => u.mat.els) _ _ (fun a h u => Act.keeps_els u a ?_)
    simp only [List.mem_append, List.mem_cons, List.not_mem_nil, or_false] at h
    rcases h with h | (rfl | rfl) | rfl | h
    · simp [hops a h]
    · simp [Act.matParts]
    · simp [Act.matParts]
    · simp [Act.matParts]
    · rcases hpostEngine a (List.mem_cons.mpr h) with h | h <;> simp [h]
  · rw [ht, List.append_cons, ← hrun]
    refine State.actAll_last (fun u => (u.engine q).running = e.running) s hs _ _ _ (fun u hu => congrArg (·.running) (Act.engine_same u hu q e)) ?_
    intro a h u _ hu
    unfold State.engine
    rw [Act.keeps_engines u a (by simp [hpost a h])]
    exact hu

/-- Drains that go on leave MMAs, watermarks and engines alone. -/
theorem State.tileDrains_keeps (s : State) (tile : Nat) :
    (s.actAll (s.tileDrains tile)).mat.mmas = s.mat.mmas ∧ (s.actAll (s.tileDrains tile)).mat.tiles = s.mat.tiles ∧ (s.actAll (s.tileDrains tile)).mat.engines = s.mat.engines := by
  have hparts := s.tileDrains_matParts tile
  refine ⟨State.actAll_keeps (fun u => u.mat.mmas) s _ (fun a h u => Act.keeps_mmas u a (fun hp => ?_)), State.actAll_keeps (fun u => u.mat.tiles) s _ (fun a h u => Act.keeps_tiles u a (fun hp => ?_)),
    State.actAll_keeps (fun u => u.mat.engines) s _ (fun a h u => Act.keeps_engines u a (fun hp => ?_))⟩
  all_goals rcases hparts a h _ hp with h | h <;> cases h

/-- A block whose operands are there is written; its watermark rises, and the last block ends the MMA (R264, R267, R273). -/
theorem mmaBlockEnd_writes (s : State) (q id : Nat) (m : Mma) (acts : List Act) (hs : s.canon = true) (hr : (s.engine q).running = some id) (hm : s.mma? id = some m)
    (hb : (s.engine q).blockAt + 4 * m.m ≤ s.run.ac) (hd : s.drainsBefore id m = false) (ha : s.blockActs m = .ok acts) :
    Happens (.mmaBlockEnd q) s (fun t => t.mma? id = m.after ∧ (t.tileSt m.tile).wm = s.wmAfter id m
      ∧ (t.engine q).running = (if m.row / 8 * 8 + 8 < 64 ∧ (s.pack (m.gang / 128)).freeze = false then some id else none)
      ∧ ((∀ d ∈ s.mat.drains, d.tile ≠ m.tile) → ∀ i ∈ m.blockRows, ∀ j, j < 64 → ∀ as bs, allOk ((List.range m.k).map (fun k => s.elemA m i k)) = .ok as → allOk ((List.range m.k).map (fun k => s.elemB m k j)) = .ok bs →
        (as ++ bs).any (fun x => x.changed) = false → t.el m.tile i j = accumulate m.neg (nativeK m.fa m.fb).2 (if m.acc then s.el m.tile i j else (0, 0)) as bs)) := by
  refine happens_of_event (s.chain [fun s => s.blockEnd q id m acts, fun s => s.tileDrains m.tile]) ?_ (fun _ _ h => h) ?_
  · show execMmaBlockEnd q s = _
    simp only [execMmaBlockEnd, hr, hm, hd, ha, Nat.not_lt.mpr hb, decide_false, Bool.or_self, Bool.false_eq_true, ↓reduceIte]
  · obtain ⟨hmma, hwm, hdrains, hels, hrun⟩ := s.blockEnd_effect q id m acts hs ha
    rw [State.actAll_chain]
    simp only [List.foldl_cons, List.foldl_nil]
    generalize s.actAll (s.blockEnd q id m acts) = u at *
    obtain ⟨kmma, ktile, keng⟩ := u.tileDrains_keeps m.tile
    refine ⟨?_, ?_, ?_, ?_⟩
    · unfold State.mma?; rw [kmma]; exact hmma
    · unfold State.tileSt; rw [ktile]; exact hwm
    · unfold State.engine; rw [keng, ← hr]; exact hrun
    · intro hno i hi j hj as bs has hbs hn
      have hdr : u.tileDrains m.tile = [] := u.tileDrains_nil m.tile (by rw [hdrains]; exact hno)
      rw [hdr, State.actAll_nil]
      unfold State.el
      rw [hels]
      exact s.el_blockActs hs m acts ha i j hi hj as bs has hbs hn

/-- A parked MMA whose page is there stands first in its engine's queue again (R275). -/
theorem mmaResume_happens (s : State) (id va : Nat) (m : Mma) (hs : s.canon = true) (hm : s.mma? id = some m) (hp : m.parked = some va) (hh : (s.pack (m.gang / 128)).here = true)
    (ht : ∀ a, s.opTarget m 0 va ≠ .error (.park a)) :
    Happens (.mmaResume id) s (fun t => t.mma? id = some { m with parked := none } ∧ (t.engine m.quad).queue = id :: (s.engine m.quad).queue) := by
  have ready : s.resumeReady id = true := by
    simp only [State.resumeReady, hm, hp, hh, Bool.true_and]
  refine happens_of_event [.setMma id (some { m with parked := none }), .engine m.quad { s.engine m.quad with queue := id :: (s.engine m.quad).queue }] ?_ (fun _ _ h => h) ⟨?_, ?_⟩
  · show execMmaResume id s = _
    simp only [execMmaResume, hm, ready, if_true]
  · show ((Act.setMma id (some { m with parked := none })).apply s).mma? id = _
    exact Act.setMma_same s hs id _
  · exact congrArg (·.queue) (Act.engine_same _ (Act.canon_apply s (.setMma id (some { m with parked := none })) hs) m.quad _)

end Sys2Proof.Machine
end

section
/-! Traps that enter a handler (R94, R97), and the suspension of an MMA (R276). -/
namespace Sys2Proof.Machine

/-- The fields of TRAPCAUSE read back (R94). -/
theorem causeWord_fields (hm aft : Bool) (dist word info code : Nat) (rpl : Bool) :
    (causeWord hm aft dist word info code rpl).toNat % 256 = code % 256 ∧ (causeWord hm aft dist word info code rpl).toNat / 256 % 256 = info % 256
      ∧ (causeWord hm aft dist word info code rpl).toNat / 2 ^ 17 % 4 = word % 4 ∧ (causeWord hm aft dist word info code rpl).getLsbD 19 = aft
      ∧ hmOf (causeWord hm aft dist word info code rpl) = hm := by
  have hn : (causeWord hm aft dist word info code rpl).toNat = bit hm * 2 ^ 31 + min dist 15 * 2 ^ 20 + bit aft * 2 ^ 19 + word % 4 * 2 ^ 17 + bit rpl * 2 ^ 16 + info % 256 * 2 ^ 8 + code % 256 := by
    unfold causeWord
    rw [BitVec.toNat_ofNat]
    refine Nat.mod_eq_of_lt ?_
    cases hm <;> cases aft <;> cases rpl <;> simp only [bit, Bool.false_eq_true, if_true, if_false] <;> omega
  have h1 : bit hm ≤ 1 := by cases hm <;> decide
  have h2 : bit aft ≤ 1 := by cases aft <;> decide
  have h3 : bit rpl ≤ 1 := by cases rpl <;> decide
  have hone : ∀ b : Bool, decide (bit b = 1) = b := by decide
  unfold BitVec.getLsbD hmOf
  rw [Nat.testBit_eq_decide_div_mod_eq]
  generalize (causeWord hm aft dist word info code rpl).toNat = n at *
  have h19 : n / 2 ^ 19 % 2 = bit aft := by omega
  have h31 : n / 2 ^ 31 % 2 = bit hm := by omega
  exact ⟨by omega, by omega, by omega, by rw [h19]; exact hone aft, by rw [h31]; exact hone hm⟩

/-- A slice in trap handler entry (R97): what its record holds, with the place and DIST of the trap. -/
def Slice.Entered (y : Slice) (p : Pack) (t : Trap) (r : (Nat × Nat) × Nat) : Prop :=
  y.trapcause = causeWord true t.aft r.2 r.1.2 t.info t.code t.rpl ∧ y.trappc = BitVec.ofNat 32 (r.1.1 + 2 ^ 64 - p.textBase) ∧ y.trapaddr = t.addr ∧ y.traplanes = t.lanes.setWidth 32
    ∧ y.pc = p.handler ∧ y.word = 0 ∧ y.status = .run

/-- A trap of a slice that has a handler, is not in handler mode and is not watched by a debugger writes this slice's record only. -/
theorem State.takeTrap_eq (s : State) (sl : Nat) (t : Trap) (hh : hmOf (s.slice sl).trapcause = false) (hp : (s.packOf sl).handler ≠ 0) (hw : Unwatched s sl) :
    ∃ y, s.takeTrap sl t = { s with ctl := { s.ctl with slices := Sparse.set {} s.ctl.slices sl y } } ∧ y.Entered (s.packOf sl) t (s.resumeOf (s.slice sl) t) := by
  have hp0 : decide ((s.packOf sl).handler = 0) = false := by simpa using hp
  unfold State.takeTrap
  dsimp only
  generalize s.resumeOf (s.slice sl) t = r
  obtain ⟨⟨rp, rword⟩, dist⟩ := r
  dsimp only
  cases hd : (s.packOf sl).debug with
  | none =>
    simp only [hh, hp0, Bool.and_false, Bool.or_self, Bool.false_and, Bool.false_eq_true, ↓reduceIte]
    exact ⟨_, rfl, rfl, rfl, rfl, rfl, rfl, rfl, rfl⟩
  | some d =>
    simp only [hw d hd, hh, hp0, Bool.and_false, Bool.or_self, Bool.false_and, Bool.false_eq_true, ↓reduceIte]
    exact ⟨_, rfl, rfl, rfl, rfl, rfl, rfl, rfl, rfl⟩

/-- What a handler finds depends on the slice's record and its pack only. -/
theorem Handles.congr {s s' t t' : State} {sl code info : Nat} {addr : Dword} {lanes : BitVec 4} {aft : Bool} {pkt word : Nat} (hp : s'.ctl.packs = s.ctl.packs) (ht : t'.slice sl = t.slice sl)
    (h : Handles s t sl code info addr lanes aft pkt word) : Handles s' t' sl code info addr lanes aft pkt word := by
  have hpack : s'.packOf sl = s.packOf sl := by unfold State.packOf State.pack; rw [hp]
  unfold Handles at *
  rw [hpack, ht]
  exact h

theorem Slice.Entered.handles {s t : State} {sl : Nat} {y : Slice} {tr : Trap} {r : (Nat × Nat) × Nat} (h : y.Entered (s.packOf sl) tr r) (hy : t.slice sl = y) :
    Handles s t sl tr.code tr.info tr.addr tr.lanes tr.aft r.1.1 r.1.2 := by
  obtain ⟨hcause, hpc, haddr, hlanes, hpc', hword, hstatus⟩ := h
  obtain ⟨hcode, hinfo, hw, haft, hhm⟩ := causeWord_fields true tr.aft r.2 r.1.2 tr.info tr.code tr.rpl
  unfold Handles
  rw [hy]
  dsimp only
  rw [hcause]
  exact ⟨hcode, hinfo, hw, haft, hhm, hpc, haddr, hlanes, hpc', hword, hstatus⟩

/-- A trap act of a slice that enters its handler: the packs and the other slices stay, and the handler finds the trap. -/
theorem Act.trap_handled (s : State) (hs : s.canon = true) (sl : Nat) (t : Trap) (hh : hmOf (s.slice sl).trapcause = false) (hp : (s.packOf sl).handler ≠ 0) (hw : Unwatched s sl) :
    ((Act.trap sl t).apply s).ctl.packs = s.ctl.packs ∧ (∀ x, x ≠ sl → ((Act.trap sl t).apply s).slice x = s.slice x)
      ∧ ∀ r, t.resume = some r → Handles s ((Act.trap sl t).apply s) sl t.code t.info t.addr t.lanes t.aft r.1 r.2 := by
  have hnote : (s.noteEntry sl t).ctl = s.ctl := by rw [State.noteEntry_only]
  have hslice : (s.noteEntry sl t).slice sl = s.slice sl := by unfold State.slice; rw [hnote]
  have hpack : (s.noteEntry sl t).packOf sl = s.packOf sl := by unfold State.packOf State.pack; rw [hnote]
  obtain ⟨y, hy, hent⟩ := State.takeTrap_eq (s.noteEntry sl t) sl t (by rw [hslice]; exact hh) (by rw [hpack]; exact hp) (fun d hd => hw d (by rwa [hpack] at hd))
  obtain ⟨hslices, _⟩ := State.canon_ctl s hs
  have hset : ((Act.trap sl t).apply s).ctl = { s.ctl with slices := Sparse.set {} s.ctl.slices sl y } := by
    show ((s.noteEntry sl t).takeTrap sl t).ctl = _
    rw [hy, hnote]
  refine ⟨by rw [hset], fun x hx => ?_, fun r hr => ?_⟩
  · unfold State.slice
    rw [hset]
    exact Sparse.get_set_other _ _ _ _ _ hslices hx
  · have hplace : (s.noteEntry sl t).resumeOf ((s.noteEntry sl t).slice sl) t = (r, t.dist) := by simp only [State.resumeOf, hr]
    rw [hpack, hplace] at hent
    refine hent.handles ?_
    unfold State.slice
    rw [hset]
    exact Sparse.get_set_same _ _ _ _ hslices

/-! ### Suspension -/

/-- The act by which a suspended MMA reaches one of its slices (R276). -/
def State.suspendAct (s : State) (m : Mma) (c : Cause) (sl : Nat) : Act :=
  if s.atBoundary sl then .trap sl ((s.slice sl).owedTrap (s.suspendTrap m c sl)) else .slice sl (.owed (some (s.suspendTrap m c sl)))

/-- What the suspension leaves in a slice: the trap in its handler, or owed. -/
def Reached (s t : State) (m : Mma) (c : Cause) (sl : Nat) : Prop :=
  if s.atBoundary sl then Handles s t sl c.code c.info (BitVec.ofNat 64 c.addr) (s.slice sl).live true (s.slice sl).pc (s.slice sl).word
  else (t.slice sl).owed = some (s.suspendTrap m c sl) ∧ (t.slice sl).status = (s.slice sl).status ∧ (t.slice sl).pc = (s.slice sl).pc

theorem Reached.congr {s t t' : State} {m : Mma} {c : Cause} {sl : Nat} (ht : t'.slice sl = t.slice sl) (h : Reached s t m c sl) : Reached s t' m c sl := by
  unfold Reached at *
  split
  · next hb => rw [if_pos hb] at h; exact Handles.congr rfl ht h
  · next hb => rw [if_neg hb] at h; rw [ht]; exact h

/-- A slice at a boundary can enter its handler. -/
def State.CanEnter (s : State) (sl : Nat) : Prop := s.atBoundary sl = true → hmOf (s.slice sl).trapcause = false ∧ (s.packOf sl).handler ≠ 0 ∧ Unwatched s sl

theorem State.suspendAct_apply (s u : State) (m : Mma) (c : Cause) (sl : Nat) (hu : u.canon = true) (hpacks : u.ctl.packs = s.ctl.packs) (hsl : u.slice sl = s.slice sl) (hc : s.CanEnter sl) :
    ((s.suspendAct m c sl).apply u).ctl.packs = s.ctl.packs ∧ (∀ x, x ≠ sl → ((s.suspendAct m c sl).apply u).slice x = u.slice x) ∧ Reached s ((s.suspendAct m c sl).apply u) m c sl := by
  unfold State.suspendAct Reached
  split
  · next hb =>
    obtain ⟨hh, hp, hw⟩ := hc hb
    have hpack : u.packOf sl = s.packOf sl := by unfold State.packOf State.pack; rw [hpacks]
    obtain ⟨h1, h2, h3⟩ := Act.trap_handled u hu sl ((s.slice sl).owedTrap (s.suspendTrap m c sl)) (by rw [hsl]; exact hh) (by rw [hpack]; exact hp) (fun d hd => hw d (by rwa [hpack] at hd))
    exact ⟨h1.trans hpacks, h2, Handles.congr hpacks.symm rfl (h3 _ rfl)⟩
  · refine ⟨hpacks, fun x hx => ?_, ?_⟩
    · rw [Act.apply, State.slice_updSlice _ _ _ _ hu, if_neg hx]
    · rw [Act.apply, State.slice_updSlice _ _ _ _ hu, if_pos rfl, hsl]
      exact ⟨rfl, rfl, rfl⟩

/-- The suspension reaches each of its slices, one after another. -/
theorem State.suspendActs_reach (s : State) (m : Mma) (c : Cause) (l : List Nat) (hn : l.Nodup) (hc : ∀ sl ∈ l, s.CanEnter sl) (u : State) (hu : u.canon = true) (hpacks : u.ctl.packs = s.ctl.packs)
    (hsl : ∀ sl ∈ l, u.slice sl = s.slice sl) :
    (∀ x ∉ l, (u.actAll (l.map (s.suspendAct m c))).slice x = u.slice x) ∧ ∀ sl ∈ l, Reached s (u.actAll (l.map (s.suspendAct m c))) m c sl := by
  induction l generalizing u with
  | nil => exact ⟨fun _ _ => rfl, nofun⟩
  | cons y l ih =>
    obtain ⟨hy, hnl⟩ := List.nodup_cons.mp hn
    obtain ⟨h1, h2, h3⟩ := s.suspendAct_apply u m c y hu hpacks (hsl y List.mem_cons_self) (hc y List.mem_cons_self)
    obtain ⟨k1, k2⟩ := ih hnl (fun sl h => hc sl (List.mem_cons_of_mem _ h)) ((s.suspendAct m c y).apply u) (Act.canon_apply u _ hu) h1
      (fun sl h => (h2 sl (fun e => hy (e ▸ h))).trans (hsl sl (List.mem_cons_of_mem _ h)))
    rw [List.map_cons, State.actAll_cons]
    refine ⟨fun x hx => ?_, fun sl h => ?_⟩
    · obtain ⟨hxy, hxl⟩ := not_or.mp (fun h => hx (List.mem_cons.mpr h))
      exact (k1 x hxl).trans (h2 x hxy)
    · rcases List.mem_cons.mp h with rfl | h
      · exact Reached.congr (k1 sl hy) h3
      · exact k2 sl h

theorem State.suspendAct_matParts (s : State) (m : Mma) (c : Cause) (sl : Nat) : (s.suspendAct m c sl).matParts = [] := by
  unfold State.suspendAct
  split <;> rfl

/-- An engine that stops its MMA changes neither slices nor packs. -/
theorem State.engineOn_ctl (s : State) (q : Nat) (queue : List Nat) : ∀ a ∈ s.engineOn q queue, Field.ctl ∉ a.parts := by
  intro a ha
  unfold State.engineOn State.returnToken at ha
  dsimp only at ha
  split at ha
  · rw [List.mem_singleton.mp ha]; simp [Act.parts]
  · rcases List.mem_cons.mp ha with rfl | ha
    · simp [Act.parts]
    · split at ha
      · rw [List.mem_singleton.mp ha]; simp [Act.parts]
      · cases ha

/-- The drains after an MMA has been suspended: none on its tile waits for it or a later one. -/
def State.drainsFreed (s : State) (id : Nat) (m : Mma) : List Drain :=
  s.mat.drains.map (fun d => if decide (d.tile = m.tile) && (match d.before with
    | some n => decide (id < n)
    | none => false) then { d with before := none } else d)

/-- A suspended MMA leaves its tile and its engine (R276). -/
def State.suspendStop (s : State) (id : Nat) (m : Mma) : List Act :=
  .setMma id none :: .tile m.tile { s.tileSt m.tile with flt := true } :: .drains (s.drainsFreed id m) s.mat.nextDrain :: s.engineFree m.quad

/-- What follows the first two acts of a suspension writes neither MMAs nor tiles. -/
theorem State.suspendRest_matParts (s : State) (id : Nat) (m : Mma) (x : Cause) :
    ∀ a ∈ Act.drains (s.drainsFreed id m) s.mat.nextDrain :: s.engineFree m.quad ++ (s.suspended m).map (s.suspendAct m x) ++ [.regroup ((s.suspended m).filter s.atBoundary)],
      MatPart.mmas ∉ a.matParts ∧ MatPart.tiles ∉ a.matParts := by
  obtain ⟨e, post, hfree, _, hpost⟩ := s.engineOn_eq m.quad (s.engine m.quad).queue
  intro a ha
  unfold State.engineFree at ha
  rw [hfree] at ha
  simp only [List.mem_append, List.mem_cons, List.not_mem_nil, or_false] at ha
  rcases ha with ((rfl | rfl | ha) | ha) | rfl
  · simp [Act.matParts]
  · simp [Act.matParts]
  · simp [hpost a ha]
  · obtain ⟨sl, _, rfl⟩ := List.mem_map.mp ha
    simp [State.suspendAct_matParts]
  · simp [Act.matParts]

/-- An MMA that leaves its engine changes neither slices nor packs. -/
theorem State.suspendStop_ctl (s : State) (id : Nat) (m : Mma) : (s.actAll (s.suspendStop id m)).ctl = s.ctl := by
  refine State.actAll_keeps (fun u => u.ctl) s _ (fun a ha u => Act.keeps_ctl u a ?_)
  simp only [State.suspendStop, List.mem_cons] at ha
  rcases ha with rfl | rfl | rfl | ha
  · simp [Act.parts]
  · simp [Act.parts]
  · simp [Act.parts]
  · exact s.engineOn_ctl _ _ a ha

/-- A suspended MMA is dropped, FLT is set, and its slices take the trap at their next group boundary (R276). -/
theorem mmaSuspend_happens (s : State) (id : Nat) (m : Mma) (x : Cause) (hs : s.canon = true) (hm : s.mma? id = some m) (hr : (s.engine m.quad).running = some id)
    (hb : s.blockActs m = .error (.fault x)) (hn : (m.slices.map (fun e => e.1)).Nodup) (hc : ∀ sl ∈ s.suspended m, s.CanEnter sl) :
    Happens (.mmaSuspend id) s (fun t => t.mma? id = none ∧ (t.tileSt m.tile).flt = true ∧ (t.tileSt m.tile).wm = (s.tileSt m.tile).wm ∧ ∀ sl ∈ s.suspended m, Reached s t m x sl) := by
  have ready : s.suspendReady id = true := by simp [State.suspendReady, hm, hr, hb]
  have hrest := s.suspendRest_matParts id m x
  refine happens_of_event (s.suspendStop id m ++ (s.suspended m).map (s.suspendAct m x) ++ [.regroup ((s.suspended m).filter s.atBoundary)]) ?_ (fun _ _ h => h) ⟨?_, ?_⟩
  · show execMmaSuspend id s = _
    simp only [execMmaSuspend, hm, ready, hb]
    rfl
  · refine State.actAll_last (fun u => u.mma? id = none) s hs [] _ _ (fun u hu => Act.setMma_same u hu id none) ?_
    intro a ha u _ h
    have hk : MatPart.mmas ∉ a.matParts := by
      rcases List.mem_cons.mp ha with rfl | ha
      · simp [Act.matParts]
      · exact (hrest a ha).1
    unfold State.mma?
    rw [Act.keeps_mmas u a hk]
    exact h
  · refine and_assoc.mp ⟨?_, ?_⟩
    · refine State.actAll_last (fun u => (u.tileSt m.tile).flt = true ∧ (u.tileSt m.tile).wm = (s.tileSt m.tile).wm) s hs [_] _ _
        (fun u hu => by rw [Act.tile_same u hu m.tile _]; exact ⟨rfl, rfl⟩) ?_
      intro a ha u _ h
      unfold State.tileSt
      rw [Act.keeps_tiles u a (hrest a ha).2]
      exact h
    · have hstop := s.suspendStop_ctl id m
      have hsl : ∀ sl, (s.actAll (s.suspendStop id m)).slice sl = s.slice sl := fun sl => by unfold State.slice; rw [hstop]
      obtain ⟨_, hreach⟩ := s.suspendActs_reach m x (s.suspended m) (hn.filter _) hc _ (State.canon_actAll s (s.suspendStop id m) hs) (by rw [hstop]) (fun sl _ => hsl sl)
      intro sl h
      rw [State.actAll_append, State.actAll_append, State.actAll_cons, State.actAll_nil]
      exact Reached.congr (State.slice_of_slices (Act.still_slices _ (.regroup ((s.suspended m).filter s.atBoundary)) rfl) sl) (hreach sl h)

end Sys2Proof.Machine
end

section
/-! The writes of agents at the homes of memory (R221), and the steps of the copy engines (R292 to R308). -/
namespace Sys2Proof.Machine

/-! ### A write of an agent -/

/-- What a write of an agent marks beside its bytes and clock (R221): written words of local memory, a dirty line, a write sent on to a host cache, the poison of its line. -/
def State.writeMarks (s : State) (key : Nat) (bs : List Byte) (psn pe hb : Bool) : List Act :=
  (if key < dspKey then [] else (List.range ((bs.length + 3) / 4)).map (fun i => Act.wmark (key / 4 + i) false))
    ++ (if decide (key < dspKey) && !pe && !hb && decide (key < hostBase) then [Act.dirty (lineOf key) true] else []) ++ (if hb then [Act.send (.cacheWrite key bs)] else [])
    ++ (if psn then [Act.mark (lineOf key) true] else if bs.length = 64 ∧ s.marked (lineOf key) then [Act.mark (lineOf key) false] else [])

/-- A mark leaves the bytes and the clocks of lines alone. -/
theorem State.writeMarks_keep (s : State) (key : Nat) (bs : List Byte) (psn pe hb : Bool) :
    ∀ a ∈ s.writeMarks key bs psn pe hb, keepsBytes a = true ∧ ∀ u : State, (a.apply u).mem.wts = u.mem.wts := by
  intro a ha
  have : (∃ w, a = .wmark w false) ∨ (∃ l, a = .dirty l true) ∨ (∃ c, a = .send c) ∨ ∃ l b, a = .mark l b := by
    simp only [State.writeMarks, List.mem_append] at ha
    rcases ha with ((ha | ha) | ha) | ha
    · split at ha
      · cases ha
      · obtain ⟨i, _, rfl⟩ := List.mem_map.mp ha
        exact .inl ⟨_, rfl⟩
    · split at ha <;> simp at ha
      exact .inr (.inl ⟨_, ha⟩)
    · split at ha <;> simp at ha
      exact .inr (.inr (.inl ⟨_, ha⟩))
    · split at ha
      · exact .inr (.inr (.inr ⟨_, _, List.mem_singleton.mp ha⟩))
      · split at ha <;> simp at ha
        exact .inr (.inr (.inr ⟨_, _, ha⟩))
  rcases this with ⟨_, rfl⟩ | ⟨_, rfl⟩ | ⟨_, rfl⟩ | ⟨_, _, rfl⟩ <;> exact ⟨rfl, fun _ => rfl⟩

/-- A write of an agent at a home: its bytes, its clock where the line keeps one, and its marks (R221). -/
def State.homeWrite (s : State) (ck key id : Nat) (bs : List Byte) (psn pe hb rf : Bool) : List Act :=
  (if rf then Act.refill key bs id else .store key bs id)
    :: ((if key < dspKey then [Act.times (lineOf key) (s.wsFor (lineOf key) ck) (s.wsFor (lineOf key) ck)] else []) ++ s.writeMarks key bs psn pe hb)

/-- A write or refill of an agent and its clock (R221), while the host link takes the write. -/
theorem State.agentWrite_eq (s : State) (ck key id : Nat) (bs : List Byte) (psn pe hb rf : Bool) (h : s.dev.ide = false) :
    s.agentWrite ck key id bs psn pe hb rf = (s.homeWrite ck key id bs psn pe hb rf, if key < dspKey then s.wsFor (lineOf key) ck else 0) := by
  unfold State.agentWrite State.homeWrite State.wsFor State.writeMarks
  cases rf <;> by_cases hk : key < dspKey <;> simp [h, hk]

/-- A list of acts whose first stores some bytes and whose others leave all bytes alone. -/
theorem State.wrote_of_first (s : State) (hs : s.canon = true) (key : Nat) (bs : List Byte) (w : Act) (as : List Act)
    (hw : ∃ id, (w.apply s).mem.bytes = (s.mem.write key id bs).bytes) (h : ∀ a ∈ as, keepsBytes a = true) : Wrote s (s.actAll (w :: as)) [(key, bs)] := by
  intro x
  obtain ⟨id, hw⟩ := hw
  have hb : ((w.apply s).actAll as).mem.bytes = (w.apply s).mem.bytes := State.actAll_keeps (fun u => u.mem.bytes) _ as (fun a ha u => keepsBytes_apply u a (h a ha))
  rw [State.actAll_cons]
  unfold State.byte
  rw [hb, hw]
  exact get_write s.mem key id bs x (canon_bytes s hs)

/-- A write at a home, with acts after it that leave bytes and clocks of lines alone: its bytes stand, and a line that keeps a clock has the write's (R221). -/
theorem State.homeWrite_effect (s : State) (hs : s.canon = true) (ck key id : Nat) (bs : List Byte) (psn pe hb rf : Bool) (post : List Act)
    (h : ∀ a ∈ post, keepsBytes a = true ∧ ∀ u : State, (a.apply u).mem.wts = u.mem.wts) :
    Wrote s (s.actAll (s.homeWrite ck key id bs psn pe hb rf ++ post)) [(key, bs)]
      ∧ (key < dspKey → Sparse.get 0 (s.actAll (s.homeWrite ck key id bs psn pe hb rf ++ post)).mem.wts (lineOf key) = s.wsFor (lineOf key) ck) := by
  have hmarks := s.writeMarks_keep key bs psn pe hb
  unfold State.homeWrite
  generalize s.writeMarks key bs psn pe hb = marks at hmarks
  constructor
  · refine s.wrote_of_first hs key bs _ _ ⟨s.keyTag id, by split <;> rfl⟩ (fun a ha => ?_)
    rcases List.mem_append.mp ha with ha | ha
    · rcases List.mem_append.mp ha with ha | ha
      · split at ha
        · rw [List.mem_singleton.mp ha]; rfl
        · cases ha
      · exact (hmarks a ha).1
    · exact (h a ha).1
  · intro hk
    rw [if_pos hk]
    refine State.actAll_last (fun u => Sparse.get 0 u.mem.wts (lineOf key) = s.wsFor (lineOf key) ck) s hs [_] (marks ++ post) _ (fun u hu => Act.times_wts u hu _ _ _) (fun a ha u _ hu => ?_)
    rcases List.mem_append.mp ha with ha | ha
    · rw [(hmarks a ha).2 u]; exact hu
    · rw [(h a ha).2 u]; exact hu

/-! ### Chunks -/

/-- A queue after its own write and acts that leave the queues alone. -/
theorem State.cqueue_after (s : State) (hs : s.canon = true) (pre post : List Act) (k : Nat) (q : CQueue) (h : ∀ a ∈ post, ∀ u : State, (a.apply u).cpy.queues = u.cpy.queues) :
    (s.actAll (pre ++ .cqueue k q :: post)).cqueue k = q := by
  refine State.actAll_last (fun u => u.cqueue k = q) s hs pre post _ (fun u hu => Act.cqueue_same u hu k q) (fun a ha u _ hq => ?_)
  unfold State.cqueue
  rw [h a ha u]
  exact hq

/-- The engine of a core begins the next chunk of the queue whose turn it is, parks the queue on a page that is not there and ends the copy on a fault (R294, R302). -/
theorem chunkStart_happens (s : State) (core q : Nat) (j : CopyJob) (js : List CopyJob) (hs : s.canon = true) (hq : q < 16) (hn : s.nextQueue core = some q) (hj : (s.cqueue (queueKey core q)).jobs = j :: js) :
    Happens (.chunkStart core q) s (fun t => (t.cqueue (queueKey core q)).jobs = (match s.chunkOf j with
        | .parts ps _ => { j with next := j.next + 1, flight := j.flight ++ [(j.next, ps)] } :: js
        | .park => j :: js
        | .fault x => { j with stop := some (2, x.code, x.info, x.addr) } :: js)
      ∧ (s.chunkOf j = .park → (t.cqueue (queueKey core q)).park = true)) := by
  refine happens_of_event (s.chunkStart core q) ?_ (fun _ _ h => h) ?_
  · show execChunkStart core q s = _
    rw [execChunkStart, if_pos hq]
  · have turn : ∀ a ∈ [Act.turn core ((q + 1) % 16)], ∀ u : State, (a.apply u).cpy.queues = u.cpy.queues := by
      intro a ha u
      rw [List.mem_singleton.mp ha]
      rfl
    have eq : s.chunkStart core q = (match s.chunkOf j with
        | .park => [.cqueue (queueKey core q) { s.cqueue (queueKey core q) with park := true }, .turn core ((q + 1) % 16)]
        | .fault x => x.note (s.pack j.pack).asid ++ [.cqueue (queueKey core q) ((s.cqueue (queueKey core q)).setHead { j with stop := some (2, x.code, x.info, x.addr) }), .turn core ((q + 1) % 16)]
        | .parts ps as => as.eraseDups ++ [.cqueue (queueKey core q) ((s.cqueue (queueKey core q)).setHead { j with next := j.next + 1, flight := j.flight ++ [(j.next, ps)] }), .turn core ((q + 1) % 16)]) := by
      unfold State.chunkStart
      dsimp only
      rw [hn, hj]
      exact if_neg (fun h => h rfl)
    rw [eq]
    cases hc : s.chunkOf j with
    | park =>
      have h := s.cqueue_after hs [] [.turn core ((q + 1) % 16)] (queueKey core q) { s.cqueue (queueKey core q) with park := true } turn
      exact ⟨(congrArg (·.jobs) h).trans hj, fun _ => congrArg (·.park) h⟩
    | fault x =>
      have h := s.cqueue_after hs (x.note (s.pack j.pack).asid) [.turn core ((q + 1) % 16)] (queueKey core q) ((s.cqueue (queueKey core q)).setHead { j with stop := some (2, x.code, x.info, x.addr) }) turn
      exact ⟨(congrArg (·.jobs) h).trans (by rw [CQueue.setHead, hj]; rfl), nofun⟩
    | parts ps as =>
      have h := s.cqueue_after hs as.eraseDups [.turn core ((q + 1) % 16)] (queueKey core q) ((s.cqueue (queueKey core q)).setHead { j with next := j.next + 1, flight := j.flight ++ [(j.next, ps)] }) turn
      exact ⟨(congrArg (·.jobs) h).trans (by rw [CQueue.setHead, hj]; rfl), nofun⟩

/-- A parked queue whose page is there goes on (R302). -/
theorem copyQueueResume_happens (s : State) (core q : Nat) (j : CopyJob) (js : List CopyJob) (hs : s.canon = true) (hq : q < 16) (hj : (s.cqueue (queueKey core q)).jobs = j :: js)
    (hp : (s.cqueue (queueKey core q)).park = true) (hc : s.chunkOf j ≠ .park) :
    Happens (.copyQueueResume core q) s (fun t => (t.cqueue (queueKey core q)).park = false ∧ (t.cqueue (queueKey core q)).jobs = j :: js) := by
  have ready : s.resumeQueue (queueKey core q) = true := by simp [State.resumeQueue, hj, hp, hc]
  refine happens_of_event [.cqueue (queueKey core q) { s.cqueue (queueKey core q) with park := false }] ?_ (fun _ _ h => h) ?_
  · show execCopyQueueResume core q s = _
    simp only [execCopyQueueResume, if_pos hq, ready, if_true]
  · have h := Act.cqueue_same s hs (queueKey core q) { s.cqueue (queueKey core q) with park := false }
    exact ⟨congrArg (·.park) h, (congrArg (·.jobs) h).trans hj⟩

theorem coreOfQueue_queueKey (core q : Nat) (hq : q < 16) : coreOfQueue (queueKey core q) = core := by
  unfold coreOfQueue queueKey
  omega

/-- A flight of one part, changed or gone. -/
theorem CopyJob.setPart_single (j : CopyJob) (n : Nat) (p : Part) (v : Option Part) (h : j.flight = [(n, [p])]) :
    j.setPart p.pos v = { j with flight := match v with
      | some p => [(n, [p])]
      | none => [] } := by
  unfold CopyJob.setPart
  rw [h]
  cases v <;> simp

/-- With one part in flight the engine works on it: it reads it, or writes it to its one destination (R293). -/
theorem State.chunkStep_read (s : State) (core q n : Nat) (j : CopyJob) (js : List CopyJob) (p : Part) (hj : (s.cqueue (queueKey core q)).jobs = j :: js) (hf : j.flight = [(n, [p])]) (hd : p.data = none) :
    s.chunkStep core q = s.readPart (queueKey core q) j p := by
  have hm : s.moves j = [⟨n, p.pos, none⟩] := by simp [State.moves, hf, hd]
  unfold State.chunkStep
  simp only [hj, hm, hf, List.length_singleton, State.pick, Nat.mod_one, List.getElem?_cons_zero, List.flatMap_cons, List.flatMap_nil, List.append_nil, List.find?_cons, decide_true]

theorem State.chunkStep_write (s : State) (core q n : Nat) (j : CopyJob) (js : List CopyJob) (p : Part) (d : Nat × Nat) (data : List Byte × Bool) (hj : (s.cqueue (queueKey core q)).jobs = j :: js)
    (hf : j.flight = [(n, [p])]) (hd : p.data = some data) (hdst : p.dst = [d])
    (hfits : dspKey ≤ d.1 ∨ s.snapKey d.1 = false ∧ s.wsFits (lineOf d.1) (max j.ck (s.rtsOf (lineOf d.1) + 1)) = true) :
    s.chunkStep core q = s.writePart (queueKey core q) j p d data := by
  have hfit : (decide (dspKey ≤ d.1) || !s.snapKey d.1 && s.wsFits (lineOf d.1) (max j.ck (s.rtsOf (lineOf d.1) + 1))) = true := by
    rcases hfits with h | ⟨h1, h2⟩
    · simp [h]
    · simp [h1, h2]
  have hm : s.moves j = [⟨n, p.pos, some d⟩] := by
    simp only [State.moves, hf, hd, hdst, List.flatMap_cons, List.flatMap_nil, List.append_nil, List.filter_cons, hfit, if_true, List.filter_nil, List.map_cons, List.map_nil]
  unfold State.chunkStep
  simp only [hj, hm, hf, hd, List.length_singleton, State.pick, Nat.mod_one, List.getElem?_cons_zero, List.flatMap_cons, List.flatMap_nil, List.append_nil, List.find?_cons, decide_true]

/-- A part after it has been read (R293). -/
def State.partRead (s : State) (p : Part) (r : SrcRun) : Part := { p with data := some (s.bytesAs r.key r.len r.keyid, r.psn || s.localPsn r.key r.len) }

/-- A part whose source is not leased is read from its home. -/
theorem State.readPart_eq (s : State) (core q : Nat) (j : CopyJob) (p : Part) (r : SrcRun) (hq : q < 16) (hr : p.src = some r) (hide : s.dev.ide = false) (hl : s.leaseCopy core (lineOf r.key) = none) :
    s.readPart (queueKey core q) j p
      = s.copyLease core j.ck r.key ++ [.draw 2] ++ [.cqueue (queueKey core q) ((s.cqueue (queueKey core q)).setHead (j.setPart p.pos (some (s.partRead p r))))] := by
  have hread : s.copyRead core r = (s.bytesAs r.key r.len r.keyid, r.psn || s.localPsn r.key r.len, false) := by
    simp only [State.copyRead, hide, Bool.false_and, Bool.false_eq_true, ↓reduceIte, hl, ite_self]
  simp only [State.readPart, hr, coreOfQueue_queueKey core q hq, hread, Bool.false_eq_true, ↓reduceIte, State.partRead]

/-- Whether or not the engine takes a lease, no byte changes. -/
theorem State.copyLease_keepsBytes (s : State) (core ck key : Nat) : ∀ a ∈ s.copyLease core ck key, keepsBytes a = true := by
  intro a ha
  unfold State.copyLease at ha
  split at ha
  · rw [List.mem_singleton.mp ha]; rfl
  · cases ha

theorem exec_chunkEnd (s : State) (core q : Nat) (hq : q < 16) : exec (.chunkEnd core q) s = event s (s.chunkStep core q) := by
  show execChunkEnd core q s = _
  rw [execChunkEnd, if_pos hq]

/-- A part is read from its home: its bytes and their poison stand with it (R293, R303). -/
theorem chunkEnd_reads (s : State) (core q n : Nat) (j : CopyJob) (js : List CopyJob) (p : Part) (r : SrcRun) (hs : s.canon = true) (hq : q < 16) (hj : (s.cqueue (queueKey core q)).jobs = j :: js)
    (hf : j.flight = [(n, [p])]) (hd : p.data = none) (hr : p.src = some r) (hide : s.dev.ide = false) (hl : s.leaseCopy core (lineOf r.key) = none) :
    Happens (.chunkEnd core q) s (fun t => t.mem.bytes = s.mem.bytes
      ∧ (t.cqueue (queueKey core q)).jobs = { j with flight := [(n, [{ p with data := some (s.bytesAs r.key r.len r.keyid, r.psn || s.localPsn r.key r.len) }])] } :: js) := by
  refine happens_of_event _ (exec_chunkEnd s core q hq) (fun _ _ h => h) ?_
  rw [s.chunkStep_read core q n j js p hj hf hd, s.readPart_eq core q j p r hq hr hide hl]
  constructor
  · refine State.actAll_keeps (fun u => u.mem.bytes) s _ (fun a ha u => keepsBytes_apply u a ?_)
    simp only [List.mem_append, List.mem_cons, List.not_mem_nil, or_false] at ha
    rcases ha with (ha | rfl) | rfl
    · exact s.copyLease_keepsBytes _ _ _ a ha
    · rfl
    · rfl
  · have h := s.cqueue_after hs (s.copyLease core j.ck r.key ++ [.draw 2]) [] (queueKey core q) ((s.cqueue (queueKey core q)).setHead (j.setPart p.pos (some (s.partRead p r)))) (fun _ h => absurd h List.not_mem_nil)
    refine (congrArg (·.jobs) h).trans ?_
    rw [CQueue.setHead, hj, j.setPart_single n p _ hf]
    rfl

/-- A copy after its one part in flight has been written at an address (R293, R301, R303). -/
def State.jobWritten (s : State) (j : CopyJob) (key : Nat) (psn : Bool) : CopyJob :=
  { j with flight := [], tc := max j.tc (if key < dspKey then s.wsFor (lineOf key) j.ck else 0), psn := j.psn || psn }

/-- The last destination of the one part in flight: it is written, and the part is done. -/
theorem State.writePart_eq (s : State) (core q n key dk : Nat) (j : CopyJob) (p : Part) (bs : List Byte) (psn : Bool) (hf : j.flight = [(n, [p])]) (hdst : p.dst = [(key, dk)]) (hlap : p.lapped = [])
    (hpe : p.persist = false) (hmask : j.mask = 0) (hide : s.dev.ide = false) :
    s.writePart (queueKey core q) j p (key, dk) (bs, psn)
      = s.homeWrite j.ck key p.keyid bs psn false p.hb j.refill ++ [.draw 1] ++ [.cqueue (queueKey core q) ((s.cqueue (queueKey core q)).setHead (s.jobWritten j key psn))] := by
  have hbs : bs.zipIdx.map (fun x => x.1) = bs := List.zipIdx_map_fst 0 bs
  simp only [State.writePart, hlap, hdst, List.filter_nil, List.map_nil, List.contains_nil, Bool.false_eq_true, ↓reduceIte, hbs, s.agentWrite_eq j.ck key p.keyid bs psn false p.hb j.refill hide,
    List.filter_cons, ne_eq, not_true_eq_false, decide_false, j.setPart_single n p none hf, hpe, Bool.not_false, hmask, Bool.false_and, List.append_nil, State.jobWritten, List.append_assoc]
  rfl

/-- A part whose data are there is written at its destination with the copy's clock (R221, R293, R303). -/
theorem chunkEnd_writes (s : State) (core q n key dk : Nat) (j : CopyJob) (js : List CopyJob) (p : Part) (bs : List Byte) (psn : Bool) (hs : s.canon = true) (hq : q < 16)
    (hj : (s.cqueue (queueKey core q)).jobs = j :: js) (hf : j.flight = [(n, [p])]) (hd : p.data = some (bs, psn)) (hdst : p.dst = [(key, dk)]) (hlap : p.lapped = []) (hpe : p.persist = false)
    (hmask : j.mask = 0) (hide : s.dev.ide = false) (hfits : dspKey ≤ key ∨ s.snapKey key = false ∧ s.wsFits (lineOf key) (max j.ck (s.rtsOf (lineOf key) + 1)) = true) :
    Happens (.chunkEnd core q) s (fun t => Wrote s t [(key, bs)] ∧ (key < dspKey → Sparse.get 0 t.mem.wts (lineOf key) = max j.ck (s.rtsOf (lineOf key) + 1))
      ∧ (t.cqueue (queueKey core q)).jobs = { j with flight := [], tc := max j.tc (if key < dspKey then max j.ck (s.rtsOf (lineOf key) + 1) else 0), psn := j.psn || psn } :: js) := by
  refine happens_of_event _ (exec_chunkEnd s core q hq) (fun _ _ h => h) ?_
  rw [s.chunkStep_write core q n j js p (key, dk) (bs, psn) hj hf hd hdst hfits, s.writePart_eq core q n key dk j p bs psn hf hdst hlap hpe hmask hide]
  have hqueue := s.cqueue_after hs (s.homeWrite j.ck key p.keyid bs psn false p.hb j.refill ++ [.draw 1]) [] (queueKey core q) ((s.cqueue (queueKey core q)).setHead (s.jobWritten j key psn))
    (fun _ h => absurd h List.not_mem_nil)
  refine and_assoc.mp ⟨?_, (congrArg (·.jobs) hqueue).trans (by rw [CQueue.setHead, hj]; rfl)⟩
  rw [List.append_assoc]
  refine s.homeWrite_effect hs j.ck key p.keyid bs psn false p.hb j.refill _ (fun a ha => ?_)
  rcases Act.mem_two ha with rfl | rfl <;> exact ⟨rfl, fun _ => rfl⟩

/-! ### Completion and refills -/

/-- A copy whose writes are done, and for which no persist-write has still to be accepted, completes next (R301). -/
theorem State.completing_head (s : State) (k : Nat) (j : CopyJob) (js : List CopyJob) (hj : (s.cqueue k).jobs = j :: js) (hf : j.flight = []) (he : j.stop ≠ none ∨ j.d.chunks ≤ j.next)
    (hp : j.d.pord = false) (hc : j.consumers / 4 % 2 = 0) : s.completing k = some (0, j) := by
  have hended : (j.stop.isSome || decide (j.d.chunks ≤ j.next)) = true := by
    rcases he with h | h
    · simp [Option.isSome_iff_ne_none.mpr h]
    · simp [h]
  simp [State.completing, hj, hf, hended, hp, hc]

/-- Waiting cancellations are told by answers to their requests, which change the requests only (R315). -/
theorem State.actAll_cancelDone (s u : State) (core token : Nat) : ∃ rs, u.actAll (s.cancelDone core token) = { u with coh := { u.coh with reqs := rs } } := by
  have one : ∀ (v : State) id r, ∃ rs, (Act.setReq id r).apply v = { v with coh := { v.coh with reqs := rs } } := by
    intro v id r
    simp only [Act.apply]
    split <;> exact ⟨_, rfl⟩
  have all : ∀ a ∈ s.cancelDone core token, ∃ id r, a = .setReq id r := by
    intro a ha
    obtain ⟨e, _, rfl⟩ := List.mem_map.mp ha
    exact ⟨_, _, rfl⟩
  generalize s.cancelDone core token = l at all
  induction l generalizing u with
  | nil => exact ⟨_, rfl⟩
  | cons a l ih =>
    obtain ⟨id, r, rfl⟩ := all a List.mem_cons_self
    obtain ⟨rs, hrs⟩ := one u id r
    rw [State.actAll_cons, hrs]
    exact ih _ (fun b hb => all b (List.mem_cons_of_mem _ hb))

/-- The record a completed copy leaves (R301). -/
def CopyJob.past (j : CopyJob) : Past :=
  let stop := j.stop.getD (1, 0, 0, 0)
  { seq := j.seq, state := stop.1, psn := j.psn, tc := j.tc, code := stop.2.1, info := stop.2.2.1, va := stop.2.2.2, kept := j.kept }

/-- A queue after its oldest copy has completed (R301). -/
def CQueue.finishHead (c : CQueue) (j : CopyJob) : CQueue :=
  { c with jobs := c.jobs.eraseIdx 0, past := (j.past :: c.past).take 32, tcs := (j.seq, j.tc) :: c.tcs.filter (fun y => decide (y.1 ≠ j.seq)), flt := c.flt || decide (j.past.state = 2), park := c.park && decide (0 ≠ 0) }

/-- How a completed copy announces itself to its pack: at its barrier register, or in its arrival word (R301). -/
def State.announce (s : State) (j : CopyJob) : List Act :=
  (if j.d.kind = 1 then [Act.bar (barKey j.pack j.d.tgt) (s.bar (barKey j.pack j.d.tgt)).arrive, .tc (barKey j.pack j.d.tgt) j.tc, .raiseObsv (s.pack j.pack).core j.tc] else [])
    ++ (if j.d.kind ≠ 2 then [] else s.arriveWord j.pack j.d.tgt j.tc)

/-- A pack takes an arrival while it is there and one of its slices has not gone. -/
def State.packLive (s : State) (p : Nat) : Bool := (s.pack p).here && (s.slicesOf p).any (fun y => !(s.slice y).gone)

theorem State.packLive_of_slice (s : State) (p : Nat) (hh : (s.pack p).here = true) (hlive : ∃ x ∈ s.slicesOf p, (s.slice x).gone = false) : s.packLive p = true := by
  obtain ⟨x, hx, hg⟩ := hlive
  have hany : (s.slicesOf p).any (fun y => !(s.slice y).gone) = true := List.any_eq_true.mpr ⟨x, hx, by simp [hg]⟩
  simp [State.packLive, hh, hany]

theorem State.announce_bar (s : State) (j : CopyJob) (h : j.d.kind = 1) :
    s.announce j = [.bar (barKey j.pack j.d.tgt) (s.bar (barKey j.pack j.d.tgt)).arrive, .tc (barKey j.pack j.d.tgt) j.tc, .raiseObsv (s.pack j.pack).core j.tc] := by
  simp [State.announce, h]

theorem State.announce_word (s : State) (j : CopyJob) (key : Nat) (h : j.d.kind = 2) (hlive : s.packLive j.pack = true) (hk : s.arrvKey j.pack j.d.tgt = some key) :
    s.announce j = [.raise key 1, .tc (2 ^ 60 + key) j.tc, .raiseObsv (s.pack j.pack).core j.tc] := by
  have hw : s.arriveWord j.pack j.d.tgt j.tc = [.raise key 1, .tc (2 ^ 60 + key) j.tc, .raiseObsv (s.pack j.pack).core j.tc] := by
    unfold State.arriveWord
    rw [hk]
    exact if_pos hlive
  simp [State.announce, h, hw]

/-- An announcement leaves the copy queues alone. -/
theorem State.announce_cpy (s : State) (j : CopyJob) : ∀ a ∈ s.announce j, Field.cpy ∉ a.parts := by
  intro a ha
  rcases List.mem_append.mp ha with ha | ha
  · split at ha
    · simp only [List.mem_cons, List.not_mem_nil, or_false] at ha
      rcases ha with rfl | rfl | rfl <;> simp [Act.parts]
    · cases ha
  · unfold State.arriveWord at ha
    split at ha
    · cases ha
    · split at ha
      · split at ha
        · simp only [List.mem_cons, List.not_mem_nil, or_false] at ha
          rcases ha with rfl | rfl | rfl <;> simp [Act.parts]
        · cases ha
      · cases ha

/-- The completion of a copy in order: its queue, its announcement, the answers to its cancellations. -/
theorem copyComplete_exec (s : State) (core q : Nat) (j : CopyJob) (js : List CopyJob) (hj : (s.cqueue (queueKey core q)).jobs = j :: js) (hf : j.flight = []) (hl : j.lines = [])
    (he : j.stop ≠ none ∨ j.d.chunks ≤ j.next) (hp : j.d.pord = false) (hc : j.consumers / 4 % 2 = 0) (hmask : j.mask = 0) (hlive : s.packLive j.pack = true) :
    exec (.copyComplete core q) s
      = event s (.cqueue (queueKey core q) ((s.cqueue (queueKey core q)).finishHead j) :: s.announce j ++ s.cancelDone core (q * 2 ^ 28 + j.seq)) := by
  unfold State.packLive at hlive
  show execCopyComplete core q s = _
  simp only [execCopyComplete, s.completing_head _ j js hj hf he hp hc, hl, ne_eq, not_true_eq_false, and_false, ↓reduceIte, hlive, and_true, hmask]
  unfold State.announce
  rw [← List.cons_append]
  rfl

/-- A copy announced at a barrier register arrives there with its clock (R301). -/
theorem State.announce_bar_effect (s u : State) (hu : u.canon = true) (j : CopyJob) (h : j.d.kind = 1) :
    (u.actAll (s.announce j)).bar (barKey j.pack j.d.tgt) = (s.bar (barKey j.pack j.d.tgt)).arrive
      ∧ j.tc ≤ (u.actAll (s.announce j)).tcOf (barKey j.pack j.d.tgt) ∧ j.tc ≤ ((u.actAll (s.announce j)).core (s.pack j.pack).core).obsv := by
  rw [s.announce_bar j h]
  have h1 := Act.canon_apply u (.bar (barKey j.pack j.d.tgt) (s.bar (barKey j.pack j.d.tgt)).arrive) hu
  have h2 := Act.canon_apply _ (.tc (barKey j.pack j.d.tgt) j.tc) h1
  exact ⟨Act.bar_same u hu _ _, Act.tc_le _ h1 _ _, Act.raiseObsv_le _ h2 _ _⟩

/-- A copy announced in an arrival word raises it by one, with its clock (R301). -/
theorem State.announce_word_effect (s u : State) (hu : u.canon = true) (j : CopyJob) (key : Nat) (h : j.d.kind = 2) (hlive : s.packLive j.pack = true) (hk : s.arrvKey j.pack j.d.tgt = some key) :
    Wrote u (u.actAll (s.announce j)) [(key, leBytes 8 (raiseWord (u.dword key) 1))] ∧ j.tc ≤ (u.actAll (s.announce j)).tcOf (2 ^ 60 + key) := by
  rw [s.announce_word j key h hlive hk]
  refine ⟨u.wrote_of_first hu key _ (.raise key 1) _ ⟨0, rfl⟩ (fun a ha => ?_), Act.tc_le _ (Act.canon_apply u (.raise key 1) hu) _ _⟩
  rcases Act.mem_two ha with rfl | rfl <;> rfl

/-- A copy whose writes are done leaves its queue with its status, and arrives at its barrier register or raises its arrival word (R301). -/
theorem copyComplete_happens (s : State) (core q : Nat) (j : CopyJob) (js : List CopyJob) (hs : s.canon = true) (hj : (s.cqueue (queueKey core q)).jobs = j :: js) (hf : j.flight = []) (hl : j.lines = [])
    (he : j.stop ≠ none ∨ j.d.chunks ≤ j.next) (hp : j.d.pord = false) (hc : j.consumers / 4 % 2 = 0) (hmask : j.mask = 0) (hh : (s.pack j.pack).here = true)
    (hlive : ∃ x ∈ s.slicesOf j.pack, (s.slice x).gone = false) :
    Happens (.copyComplete core q) s (fun t => (t.cqueue (queueKey core q)).jobs = js
      ∧ (∃ x xs, (t.cqueue (queueKey core q)).past = x :: xs ∧ x.seq = j.seq ∧ x.psn = j.psn ∧ x.tc = j.tc ∧ x.state = (j.stop.map (fun e => e.1)).getD 1)
      ∧ (j.d.kind = 1 → t.bar (j.pack * 16 + j.d.tgt) = (s.bar (j.pack * 16 + j.d.tgt)).arrive ∧ j.tc ≤ t.tcOf (j.pack * 16 + j.d.tgt) ∧ j.tc ≤ (t.core (s.pack j.pack).core).obsv)
      ∧ (∀ key, j.d.kind = 2 → s.arrvKey j.pack j.d.tgt = some key → Wrote s t [(key, leBytes 8 (raiseWord (s.dword key) 1))] ∧ j.tc ≤ t.tcOf (2 ^ 60 + key))) := by
  have live := s.packLive_of_slice j.pack hh hlive
  refine happens_of_event _ (copyComplete_exec s core q j js hj hf hl he hp hc hmask live) (fun _ _ h => h) ?_
  have hqueue := s.cqueue_after hs [] (s.announce j) (queueKey core q) ((s.cqueue (queueKey core q)).finishHead j) (fun a ha u => congrArg (·.queues) (Act.keeps_cpy u a (s.announce_cpy j a ha)))
  have hcanon := Act.canon_apply s (.cqueue (queueKey core q) ((s.cqueue (queueKey core q)).finishHead j)) hs
  obtain ⟨rs, hrs⟩ := s.actAll_cancelDone (s.actAll (.cqueue (queueKey core q) ((s.cqueue (queueKey core q)).finishHead j) :: s.announce j)) core (q * 2 ^ 28 + j.seq)
  rw [State.actAll_append, hrs]
  refine ⟨(congrArg (·.jobs) hqueue).trans ?_, ⟨j.past, (s.cqueue (queueKey core q)).past.take 31, congrArg (·.past) hqueue, rfl, rfl, rfl, ?_⟩, ?_, ?_⟩
  · rw [CQueue.finishHead, hj]
    rfl
  · unfold CopyJob.past
    cases j.stop <;> rfl
  · exact s.announce_bar_effect _ hcanon j
  · exact fun key h hk => s.announce_word_effect _ hcanon j key h live hk

/-- A schedule entry that is taken becomes the last copy of its queue (R307, R308). -/
theorem State.takeEntry_effect (s : State) (hs : s.canon = true) (p i : Nat) (e : SchedEntry) (he : (s.pack p).sched[i]? = some e) :
    ((s.takeEntry p i).pack p).taken = i :: (s.pack p).taken
      ∧ ∃ j, ((s.takeEntry p i).cqueue (queueKey (s.pack p).core e.queue)).jobs = (s.cqueue (queueKey (s.pack p).core e.queue)).jobs ++ [j]
        ∧ j.d = e.descOf (s.pack p).index ∧ j.pack = p ∧ j.refill = e.refill ∧ j.next = 0 := by
  obtain ⟨_, hpacks, _, _⟩ := State.canon_ctl s hs
  unfold State.takeEntry
  dsimp only
  rw [he]
  refine ⟨congrArg (·.taken) (Sparse.get_set_same _ _ _ _ hpacks), _, congrArg (·.jobs) (Sparse.get_set_same _ _ _ _ (State.canon_queues s hs)), rfl, rfl, rfl, rfl⟩

/-- A fired schedule entry joins its queue (R307, R308). -/
theorem refillAccept_happens (s : State) (p i : Nat) (e : SchedEntry) (hs : s.canon = true) (he : (s.pack p).sched[i]? = some e) (hr : s.refillReady p i = true) :
    Happens (.refillAccept p i) s (fun t => (t.pack p).taken = i :: (s.pack p).taken
      ∧ ∃ j, (t.cqueue (queueKey (s.pack p).core e.queue)).jobs = (s.cqueue (queueKey (s.pack p).core e.queue)).jobs ++ [j] ∧ j.d = e.descOf (s.pack p).index ∧ j.pack = p ∧ j.refill = e.refill ∧ j.next = 0) := by
  refine happens_of_event [.take p i] ?_ (fun _ _ h => h) (s.takeEntry_effect hs p i e he)
  show execRefillAccept p i s = _
  rw [execRefillAccept, if_pos hr]

/-- Settles O50, one lemma for each step of an engine. -/
theorem engineAgents : Obligations.EngineAgents := by
  unfold Obligations.EngineAgents
  refine ⟨?_, ?_, ?_, ?_, ?_, ?_, ?_, ?_, ?_, ?_, ?_⟩
  · exact tokenGrant_happens
  · exact mmaEngineStart_happens
  · intro s q id m hs hr hm hb hd
    exact ⟨fun va hp => mmaBlockEnd_parks s q id va m hs hr hm hb hd hp, fun acts ha => mmaBlockEnd_writes s q id m acts hs hr hm hb hd ha⟩
  · exact mmaResume_happens
  · exact mmaSuspend_happens
  · exact chunkStart_happens
  · exact copyQueueResume_happens
  · exact chunkEnd_reads
  · exact chunkEnd_writes
  · exact copyComplete_happens
  · exact refillAccept_happens

end Sys2Proof.Machine
end

section
/-! Decoding and encoding are inverse to each other (02_encoding R28, R31, R41 to R43): the fields of a word put together again are the word, each row of the tables of R41 reads its word's fields, and by the laws of each instruction the fields of an encoding select the instruction. -/
namespace Sys2Proof
open Machine Laws

/-! ### Words from their fields (R28) -/

theorem wordR_fieldsR (n : Nat) (h : n < 2 ^ 32) : wordR (opOf n) (n / 2 ^ 4 % 8) (fieldsR n) = n := by
  simp only [wordR, fieldsR, opOf, bit, decide_eq_true_eq, BitVec.toNat_ofNat]
  split <;> split <;> omega

theorem wordX_fieldsX (n : Nat) (h : n < 2 ^ 32) : wordX (opOf n) (fieldsX n) = n := by
  simp only [wordX, fieldsX, opOf, bit, decide_eq_true_eq, BitVec.toNat_ofNat]
  split <;> omega

theorem wordB_fieldsB (n : Nat) (h : n < 2 ^ 32) : wordB (opOf n) (fieldsB n) = n := by
  simp only [wordB, fieldsB, opOf, bit, decide_eq_true_eq, BitVec.toNat_ofNat]
  split <;> omega

/-! ### The tables of R41 -/

/-- A row of the tables stands for an instruction word put together from the opcode, the function code and the fields it was given. -/
theorem ctorOf_word (op fn : Nat) (r : RF) (x : XF) (o : BF) (i : Instr) (h : ctorOf op fn r x o = some i) :
    ∃ v, view i = .word v ∧ (v.word = wordR op fn r ∨ v.word = wordX op x ∨ v.word = wordB op o) := by
  simp only [ctorOf, fn00, fn04, fn05, fn06, fn08, fn09, fn0A, fn0B, fn0C, fn0D, fn0E, fn0F, fn10, fn11, fn12, fn13, fn14, fn15, fn16, fn17, fn18, fn2C, fn2D, fn2E, fn35, fn38, fn3D] at h
  repeat' split at h
  all_goals cases h <;> exact ⟨_, rfl, by simp only [vR, vX, vB, true_or, or_true]⟩

/-- What the laws say of each instruction; a step of another agent has no word. -/
theorem fields_statement (i : Instr) : Fields.Statement i := by
  cases i with
  | ext x => exact Fields.ext x
  | nop f => exact Fields.nop f
  | bkpt f => exact Fields.bkpt f
  | yield f => exact Fields.yield f
  | exit f => exact Fields.exit f
  | trap f => exact Fields.trap f
  | rtt f => exact Fields.rtt f
  | srd f => exact Fields.srd f
  | swr f => exact Fields.swr f
  | brAny f => exact Fields.brAny f
  | brAll f => exact Fields.brAll f
  | call f => exact Fields.call f
  | jmpr f => exact Fields.jmpr f
  | callr f => exact Fields.callr f
  | ret f => exact Fields.ret f
  | regang f => exact Fields.regang f
  | spawn f => exact Fields.spawn f
  | spill f => exact Fields.spill f
  | fill f => exact Fields.fill f
  | pand f => exact Fields.pand f
  | por f => exact Fields.por f
  | pxor f => exact Fields.pxor f
  | pnot f => exact Fields.pnot f
  | voteAny f => exact Fields.voteAny f
  | voteAll f => exact Fields.voteAll f
  | ballot f => exact Fields.ballot f
  | pmov f => exact Fields.pmov f
  | shflIdx f => exact Fields.shflIdx f
  | shflUp f => exact Fields.shflUp f
  | shflDown f => exact Fields.shflDown f
  | shflXor f => exact Fields.shflXor f
  | lswz f => exact Fields.lswz f
  | gredIadd f => exact Fields.gredIadd f
  | gredFmax f => exact Fields.gredFmax f
  | gscanIadd f => exact Fields.gscanIadd f
  | iadd f => exact Fields.iadd f
  | isub f => exact Fields.isub f
  | imul f => exact Fields.imul f
  | imulhI f => exact Fields.imulhI f
  | imulhN f => exact Fields.imulhN f
  | ineg f => exact Fields.ineg f
  | iabs f => exact Fields.iabs f
  | iaddSat f => exact Fields.iaddSat f
  | iminI f => exact Fields.iminI f
  | iminN f => exact Fields.iminN f
  | imaxI f => exact Fields.imaxI f
  | imaxN f => exact Fields.imaxN f
  | iadd64 f => exact Fields.iadd64 f
  | isub64 f => exact Fields.isub64 f
  | lea f => exact Fields.lea f
  | isubSat f => exact Fields.isubSat f
  | imad f => exact Fields.imad f
  | imadwI f => exact Fields.imadwI f
  | imadwN f => exact Fields.imadwN f
  | iaccw f => exact Fields.iaccw f
  | idot4I8 f => exact Fields.idot4I8 f
  | idot4N8 f => exact Fields.idot4N8 f
  | idot2I16 f => exact Fields.idot2I16 f
  | isad f => exact Fields.isad f
  | and f => exact Fields.and f
  | or f => exact Fields.or f
  | xor f => exact Fields.xor f
  | andn f => exact Fields.andn f
  | orn f => exact Fields.orn f
  | not f => exact Fields.not f
  | mov f => exact Fields.mov f
  | sel f => exact Fields.sel f
  | shl f => exact Fields.shl f
  | shr f => exact Fields.shr f
  | sar f => exact Fields.sar f
  | rol f => exact Fields.rol f
  | ror f => exact Fields.ror f
  | shl64 f => exact Fields.shl64 f
  | shr64 f => exact Fields.shr64 f
  | sar64 f => exact Fields.sar64 f
  | popc f => exact Fields.popc f
  | clz f => exact Fields.clz f
  | ctz f => exact Fields.ctz f
  | brev f => exact Fields.brev f
  | bfxI f => exact Fields.bfxI f
  | bfxN f => exact Fields.bfxN f
  | bfi f => exact Fields.bfi f
  | bswp f => exact Fields.bswp f
  | isetEq f => exact Fields.isetEq f
  | isetNe f => exact Fields.isetNe f
  | isetLtI f => exact Fields.isetLtI f
  | isetLeI f => exact Fields.isetLeI f
  | isetLtN f => exact Fields.isetLtN f
  | isetLeN f => exact Fields.isetLeN f
  | isetTst f => exact Fields.isetTst f
  | movi f => exact Fields.movi f
  | movh f => exact Fields.movh f
  | mov64 f => exact Fields.mov64 f
  | idxset f => exact Fields.idxset f
  | idxadd f => exact Fields.idxadd f
  | winset f => exact Fields.winset f
  | unif f => exact Fields.unif f
  | fadd f => exact Fields.fadd f
  | fsub f => exact Fields.fsub f
  | fmul f => exact Fields.fmul f
  | fmin f => exact Fields.fmin f
  | fmax f => exact Fields.fmax f
  | fabs f => exact Fields.fabs f
  | fneg f => exact Fields.fneg f
  | fcpys f => exact Fields.fcpys f
  | ffma f => exact Fields.ffma f
  | ffms f => exact Fields.ffms f
  | fnma f => exact Fields.fnma f
  | twosum f => exact Fields.twosum f
  | ftsum f => exact Fields.ftsum f
  | twoprod f => exact Fields.twoprod f
  | fsetEq f => exact Fields.fsetEq f
  | fsetNe f => exact Fields.fsetNe f
  | fsetLt f => exact Fields.fsetLt f
  | fsetLe f => exact Fields.fsetLe f
  | fsetUnord f => exact Fields.fsetUnord f
  | fsetOrd f => exact Fields.fsetOrd f
  | fsetClass f => exact Fields.fsetClass f
  | frcp f => exact Fields.frcp f
  | frsq f => exact Fields.frsq f
  | fsqrt f => exact Fields.fsqrt f
  | fexp2 f => exact Fields.fexp2 f
  | flog2 f => exact Fields.flog2 f
  | fsin f => exact Fields.fsin f
  | fcos f => exact Fields.fcos f
  | ftanh f => exact Fields.ftanh f
  | hadd2Bf16 f => exact Fields.hadd2Bf16 f
  | hmul2Bf16 f => exact Fields.hmul2Bf16 f
  | hfma2Bf16 f => exact Fields.hfma2Bf16 f
  | hadd2F16 f => exact Fields.hadd2F16 f
  | hmul2F16 f => exact Fields.hmul2F16 f
  | hfma2F16 f => exact Fields.hfma2F16 f
  | hmax2Bf16 f => exact Fields.hmax2Bf16 f
  | hmin2Bf16 f => exact Fields.hmin2Bf16 f
  | dadd f => exact Fields.dadd f
  | dsub f => exact Fields.dsub f
  | dmul f => exact Fields.dmul f
  | dfma f => exact Fields.dfma f
  | dmin f => exact Fields.dmin f
  | dmax f => exact Fields.dmax f
  | dsetLt f => exact Fields.dsetLt f
  | dsetEq f => exact Fields.dsetEq f
  | cvtF32I32 f => exact Fields.cvtF32I32 f
  | cvtF32N32 f => exact Fields.cvtF32N32 f
  | cvtI32F32 f => exact Fields.cvtI32F32 f
  | cvtN32F32 f => exact Fields.cvtN32F32 f
  | cvtF32F64 f => exact Fields.cvtF32F64 f
  | cvtF64F32 f => exact Fields.cvtF64F32 f
  | cvtBf16x2F32 f => exact Fields.cvtBf16x2F32 f
  | cvtF16x2F32 f => exact Fields.cvtF16x2F32 f
  | unpkBf16x2 f => exact Fields.unpkBf16x2 f
  | unpkF16x2 f => exact Fields.unpkF16x2 f
  | cvtF64I32 f => exact Fields.cvtF64I32 f
  | cvtI32F64 f => exact Fields.cvtI32F64 f
  | packI8x4 f => exact Fields.packI8x4 f
  | packN8x4 f => exact Fields.packN8x4 f
  | unpkI8x4 f => exact Fields.unpkI8x4 f
  | unpkN8x4 f => exact Fields.unpkN8x4 f
  | qnt f => exact Fields.qnt f
  | dqnt f => exact Fields.dqnt f
  | qpack f => exact Fields.qpack f
  | qunpk f => exact Fields.qunpk f
  | segscl f => exact Fields.segscl f
  | fmtchk f => exact Fields.fmtchk f
  | ld f => exact Fields.ld f
  | st f => exact Fields.st f
  | ldNt f => exact Fields.ldNt f
  | stNt f => exact Fields.stNt f
  | ldfe f => exact Fields.ldfe f
  | stfe f => exact Fields.stfe f
  | pf f => exact Fields.pf f
  | cmoClean f => exact Fields.cmoClean f
  | cmoInv f => exact Fields.cmoInv f
  | cmoCleaninv f => exact Fields.cmoCleaninv f
  | atomG f => exact Fields.atomG f
  | atomS f => exact Fields.atomS f
  | atomC f => exact Fields.atomC f
  | redG f => exact Fields.redG f
  | bara f => exact Fields.bara f
  | barw f => exact Fields.barw f
  | baraw f => exact Fields.baraw f
  | barinit f => exact Fields.barinit f
  | gbar f => exact Fields.gbar f
  | barq f => exact Fields.barq f
  | arrvInit f => exact Fields.arrvInit f
  | arrvAdd f => exact Fields.arrvAdd f
  | await f => exact Fields.await f
  | awaitT f => exact Fields.awaitT f
  | arrvRd f => exact Fields.arrvRd f
  | fenceAcq f => exact Fields.fenceAcq f
  | fenceRel f => exact Fields.fenceRel f
  | fenceAr f => exact Fields.fenceAr f
  | fenceSp f => exact Fields.fenceSp f
  | ifence f => exact Fields.ifence f
  | pbar f => exact Fields.pbar f
  | psync f => exact Fields.psync f
  | mma f => exact Fields.mma f
  | mzero f => exact Fields.mzero f
  | mrd f => exact Fields.mrd f
  | mwr f => exact Fields.mwr f
  | mdrain f => exact Fields.mdrain f
  | mfence f => exact Fields.mfence f
  | mwait f => exact Fields.mwait f
  | mwm f => exact Fields.mwm f
  | mtld f => exact Fields.mtld f
  | mstat f => exact Fields.mstat f
  | cpy f => exact Fields.cpy f
  | cpym f => exact Fields.cpym f
  | cpystg f => exact Fields.cpystg f
  | cpystgRet f => exact Fields.cpystgRet f
  | cpytst f => exact Fields.cpytst f
  | cpywt f => exact Fields.cpywt f
  | cpyq f => exact Fields.cpyq f
  | cpycnl f => exact Fields.cpycnl f
  | rput f => exact Fields.rput f
  | rget f => exact Fields.rget f
  | rred f => exact Fields.rred f
  | rstv f => exact Fields.rstv f
  | rrcv f => exact Fields.rrcv f
  | name f => exact Fields.name f
  | rstat f => exact Fields.rstat f
  | _ => intro v h; cases h

/-! ### Encoding and decoding by cases -/

theorem wellFormed_iff (i : Instr) : WellFormed i = true ↔ illFormed i = none := decide_eq_true_iff

theorem illFormed_of_view {i : Instr} {v : View} (hv : view i = .word v) : illFormed i = v.ill := by
  simp only [illFormed, hv]

theorem encode_of_view {i : Instr} {v : View} (hv : view i = .word v) : encode i = some (BitVec.ofNat 32 v.word) := by
  unfold encode
  split
  · cases hv
  · simp only [hv]

/-- A word that encodes an instruction is an EXT word (R31) or the word of its view. -/
theorem encode_eq_some {i : Instr} {w : Word} (h : encode i = some w) :
    (∃ x, i = .ext x ∧ w = BitVec.ofNat 32 (7 * 2 ^ 25 + x.toNat)) ∨ ∃ v, view i = .word v ∧ w = BitVec.ofNat 32 v.word := by
  unfold encode at h
  split at h
  · next x => exact .inl ⟨x, rfl, (Option.some.inj h).symm⟩
  · split at h
    · next v hv => exact .inr ⟨v, hv, (Option.some.inj h).symm⟩
    all_goals cases h

/-- EXT's opcode is read as EXT where bit 31 is clear (R34). -/
theorem decode_iff_of_ext {w : Word} (h7 : opOf w.toNat = 7) (i : Instr) :
    decode w = .ok i ↔ w.toNat / 2 ^ 31 % 2 = 0 ∧ i = .ext (BitVec.ofNat 25 w.toNat) := by
  simp only [decode, h7, ↓reduceIte]
  split
  · next hc => exact ⟨nofun, fun ⟨h0, _⟩ => absurd h0 (by omega)⟩
  · next hc => exact ⟨fun h => ⟨by omega, (Except.ok.inj h).symm⟩, fun ⟨_, hi⟩ => congrArg _ hi.symm⟩

/-- Any other opcode is read by the tables of R41, and refused when the row fails a check (R42, R43). -/
theorem decode_iff_of_ne_ext {w : Word} (h7 : opOf w.toNat ≠ 7) (i : Instr) :
    decode w = .ok i ↔ ctorOf (opOf w.toNat) (w.toNat / 2 ^ 4 % 8) (fieldsR w.toNat) (fieldsX w.toNat) (fieldsB w.toNat) = some i ∧ illFormed i = none := by
  simp only [decode, h7, ↓reduceIte]
  generalize ctorOf (opOf w.toNat) (w.toNat / 2 ^ 4 % 8) (fieldsR w.toNat) (fieldsX w.toNat) (fieldsB w.toNat) = row
  cases row with
  | none => exact ⟨nofun, fun ⟨h, _⟩ => nomatch h⟩
  | some j =>
    cases hj : illFormed j with
    | none =>
      simp only [hj, Except.ok.injEq, Option.some.injEq]
      exact ⟨fun h => ⟨h, h ▸ hj⟩, And.left⟩
    | some r =>
      simp only [hj]
      exact ⟨nofun, fun ⟨h, hi⟩ => by cases h; cases hj.symm.trans hi⟩

/-! ### The two directions -/

theorem opOf_extWord (x : BitVec 25) : opOf (7 * 2 ^ 25 + x.toNat) = 7 := by
  have := x.isLt
  unfold opOf
  omega

/-- A well-formed instruction comes back from its word. -/
theorem decode_of_encode {i : Instr} {w : Word} (hi : WellFormed i = true) (h : encode i = some w) : decode w = .ok i := by
  rw [wellFormed_iff] at hi
  obtain ⟨x, rfl, rfl⟩ | ⟨v, hv, rfl⟩ := encode_eq_some h
  · have := x.isLt
    have hn : (BitVec.ofNat 32 (7 * 2 ^ 25 + x.toNat)).toNat = 7 * 2 ^ 25 + x.toNat := by rw [BitVec.toNat_ofNat]; omega
    rw [decode_iff_of_ext (by rw [hn, opOf_extWord]), hn]
    refine ⟨by omega, congrArg _ (BitVec.eq_of_toNat_eq ?_)⟩
    rw [BitVec.toNat_ofNat]
    omega
  · obtain ⟨hlt, hop, h7, hc⟩ := fields_statement i v hv (illFormed_of_view hv ▸ hi)
    have hn : (BitVec.ofNat 32 v.word).toNat = v.word := by rw [BitVec.toNat_ofNat, Nat.mod_eq_of_lt hlt]
    rw [decode_iff_of_ne_ext (by rw [hn, hop]; exact h7), hn]
    exact ⟨hc, hi⟩

/-- The word of an instruction is the one it was read from. -/
theorem encode_of_decode {i : Instr} {w : Word} (h : decode w = .ok i) : WellFormed i = true ∧ encode i = some w := by
  have hlt := w.isLt
  by_cases h7 : opOf w.toNat = 7
  · obtain ⟨hc, rfl⟩ := (decode_iff_of_ext h7 i).mp h
    refine ⟨rfl, congrArg some (BitVec.eq_of_toNat_eq ?_)⟩
    simp only [BitVec.toNat_ofNat]
    unfold opOf at h7
    omega
  · obtain ⟨hc, hi⟩ := (decode_iff_of_ne_ext h7 i).mp h
    obtain ⟨v, hv, hw⟩ := ctorOf_word _ _ _ _ _ _ hc
    rw [wordR_fieldsR _ hlt, wordX_fieldsX _ hlt, wordB_fieldsB _ hlt, or_self, or_self] at hw
    exact ⟨(wellFormed_iff i).mpr hi, by rw [encode_of_view hv, hw, BitVec.ofNat_toNat, BitVec.setWidth_eq]⟩

/-- Settles O1: a word is the one its reading encodes to, and an encoding is read as what it encodes. -/
theorem decodeInverse : Obligations.DecodeInverse := by
  unfold Obligations.DecodeInverse
  exact fun i w => ⟨encode_of_decode, fun ⟨hi, h⟩ => decode_of_encode hi h⟩

/-- Settles O2: each word is closed, so decode computes its answer. -/
theorem decodeWords : Obligations.DecodeWords := by
  unfold Obligations.DecodeWords
  exact ⟨rfl, rfl, rfl, rfl, rfl, rfl, rfl, rfl, rfl, rfl, rfl⟩

end Sys2Proof
end

section
/-! What the split of an entry does when its turn comes (02_encoding R20 to R23, R35, 03_control R64): the causes of each answer of State.plan, and the step of a word that stands alone. -/
namespace Sys2Proof.Machine

/-! ### The plan of a split -/

/-- The slices of an entry's split, in the order in which they issue. -/
def State.issuers (s : State) (e : Nat) : List Nat := s.byGslot (s.split e).slices

theorem State.mem_slices_of_mem_issuers {s : State} {e x : Nat} (h : x ∈ s.issuers e) : x ∈ (s.split e).slices := by
  obtain ⟨_, _, hx⟩ := List.mem_flatMap.mp h
  exact (List.mem_filter.mp hx).1

/-- The group that a slice finds at its place in the words of its packet. -/
def State.groupIn (s : State) (sl : Nat) (ws : List (BitVec 32)) : Group := chainAt (s.slice sl).only.isSome (s.slice sl).word ws

/-- The word index of the last instruction that a slice issues of a group. -/
def State.lastWord (s : State) (sl : Nat) (g : Group) : Nat := ((asGroup g.members).getLast?.map (fun m => m.idx)).getD (s.slice sl).word

/-- What each answer of a split's plan rests on (R64, R96, R107): a trap on the state of a slice, on the fetch by the split's first slice sl, on an illegal word, or on what the group or a breakpoint raises in some slice;
a run on slices that do not wait and a fetched group none of whose words waits. -/
inductive State.PlanSpec (s : State) (e sl : Nat) : Plan → Prop where
  | wait : s.PlanSpec e sl .wait
  | owed (y : Nat) (hy : y ∈ s.issuers e) (h : (s.slice y).owed.isSome = true) (ts : List (Nat × Trap)) (opens : Bool) : s.PlanSpec e sl (.trap ts opens)
  | stepped (y : Nat) (hy : y ∈ s.issuers e) (h : (s.slice y).stepped = true) (ts : List (Nat × Trap)) (opens : Bool) : s.PlanSpec e sl (.trap ts opens)
  | fault (t : Trap) (h : s.fetch sl (s.slice sl).pc = .fault t) (ts : List (Nat × Trap)) (opens : Bool) : s.PlanSpec e sl (.trap ts opens)
  | illegal (ws : List (BitVec 32)) (bytes : List Byte) (pages : List (Page × Nat)) (hf : s.fetch sl (s.slice sl).pc = .words ws bytes pages)
      (op : Nat) (ms : List Member) (h : s.groupIn sl ws = .ill op ms) (ts : List (Nat × Trap)) (opens : Bool) : s.PlanSpec e sl (.trap ts opens)
  | raised (ws : List (BitVec 32)) (bytes : List Byte) (pages : List (Page × Nat)) (hf : s.fetch sl (s.slice sl).pc = .words ws bytes pages) (y : Nat) (hy : y ∈ s.issuers e)
      (h : (s.groupTrap y (s.groupIn sl ws)).isSome = true ∨ (s.breakTrap y (s.slice sl).pc (s.slice sl).word (s.lastWord sl (s.groupIn sl ws))).isSome = true)
      (ts : List (Nat × Trap)) (opens : Bool) : s.PlanSpec e sl (.trap ts opens)
  | run (ws : List (BitVec 32)) (bytes : List Byte) (pages : List (Page × Nat)) (hf : s.fetch sl (s.slice sl).pc = .words ws bytes pages)
      (hs : ∀ y ∈ s.issuers e, s.sliceWaits y = false) (hm : ∀ y ∈ s.issuers e, ∀ m ∈ asGroup (s.groupIn sl ws).members, s.memberWaits y m = false) :
      s.PlanSpec e sl (.run (asGroup (s.groupIn sl ws).members) bytes pages)

/-- One walk through the branches of State.plan, in their order; what a plan rests on is read off from here. -/
theorem State.planSpec_plan {s : State} {e sl : Nat} (hsl : (s.issuers e).head? = some sl) : s.PlanSpec e sl (s.plan e) := by
  unfold State.plan
  dsimp only
  rw [← State.issuers]
  split
  · exact .wait
  next sl' rest heq =>
  obtain rfl : sl' = sl := by rw [heq] at hsl; exact Option.some.inj hsl
  split
  · exact .wait
  next hw =>
  split
  next ho =>
    obtain ⟨y, hy, ho⟩ := List.any_eq_true.mp ho
    exact .owed y hy ho _ _
  split
  next hp =>
    obtain ⟨y, hy, hp⟩ := List.any_eq_true.mp hp
    exact .stepped y hy hp _ _
  split
  · exact .wait
  split
  · exact .wait
  next hf => exact .fault _ hf _ _
  next ws bytes pages hf =>
  split
  next hg => exact .illegal ws bytes pages hf _ _ hg _ _
  split
  · exact .wait
  split
  next hr =>
    obtain ⟨y, hy, hr⟩ := List.any_eq_true.mp hr
    exact .raised ws bytes pages hf y hy (Bool.or_eq_true_iff.mp hr) _ _
  split
  · exact .wait
  next hm =>
  have run : s.PlanSpec e sl' (.run (asGroup (s.groupIn sl' ws).members) bytes pages) := by
    refine .run ws bytes pages hf ?_ ?_
    · simpa only [Bool.not_eq_true, List.any_eq_false] using hw
    · simp only [Bool.not_eq_true, Bool.or_eq_false_iff, List.any_eq_false] at hm
      exact hm.1
  split
  · exact run
  split
  · exact .wait
  · exact run

/-! ### What a word that issues has waited for -/

/-- What a slice that does not wait is (R64). -/
theorem State.ready_of_sliceWaits {s : State} {sl : Nat} (h : s.sliceWaits sl = false) :
    (s.slice sl).status = .run ∧ (s.slice sl).stop = false ∧ (s.packOf sl).here = true := by
  simp only [State.sliceWaits, Bool.or_eq_false_iff, decide_eq_false_iff_not, Decidable.not_not, Bool.not_eq_false'] at h
  obtain ⟨⟨⟨⟨⟨⟨hrun, hstop⟩, hhere⟩, _⟩, _⟩, _⟩, _⟩ := h
  exact ⟨hrun, hstop, hhere⟩

/-- The scoreboard lets a word pass only when no lane touches a register with an outstanding write (R35). -/
theorem State.not_outstanding_of_scoreboard {s : State} {sl : Nat} {v : View} {ext : Option (BitVec 25)} (h : s.scoreboard sl v ext = false)
    {l : Nat} (hl : l < 4) {r : Nat} (hr : r ∈ s.touched sl l v ext) : r ∉ s.outstanding sl l := by
  intro ho
  have hmem : l ∈ lanes4 := by simp only [lanes4, List.mem_cons, List.not_mem_nil, or_false]; omega
  have hne : s.outstanding sl l ≠ [] := List.ne_nil_of_mem ho
  have hlane := List.any_eq_false.mp h l hmem
  simp only [ne_eq, hne, not_false_eq_true, decide_true, Bool.true_and, List.any_eq_true, List.contains_iff_mem, not_exists, not_and] at hlane
  exact hlane r hr ho

/-- The orders a fence has waited for (R227, R240). -/
theorem State.fenceReady_of_orderWait {s : State} {sl : Nat} {v : View} (h : s.orderWait sl v = false) (hop : v.op = 0x2E) :
    (v.fn = 0 ∨ v.fn = 4 → s.acquireReady sl s.run.count = true) ∧ (v.fn = 1 ∨ v.fn = 2 → s.releaseReady sl s.run.count v.scope = true)
      ∧ (v.fn = 6 → s.psyncReady sl v.scope = true) := by
  simp only [State.orderWait, hop, ↓reduceIte] at h
  refine ⟨?_, ?_, fun hfn => ?_⟩
  · rintro (hfn | hfn) <;> simp only [hfn, Bool.not_eq_false', Bool.and_eq_true] at h <;> exact h.1
  · rintro (hfn | hfn)
    · simp only [hfn, Bool.not_eq_false', Bool.and_eq_true] at h
      exact h.1
    · simp only [hfn, Bool.or_eq_false_iff, Bool.not_eq_false', Bool.and_eq_true] at h
      exact h.1.1
  · simpa only [hfn, Bool.not_eq_false'] using h

/-- Settles O39: a plan answers a group only when no slice and no word of it waits. -/
theorem issueWaits : Obligations.IssueWaits := by
  unfold Obligations.IssueWaits
  intro s e ms bytes pages hp sl hsl
  obtain ⟨lead, hlead⟩ : ∃ x, (s.issuers e).head? = some x := Option.isSome_iff_exists.mp (List.isSome_head?.mpr (List.ne_nil_of_mem hsl))
  have hspec := State.planSpec_plan hlead
  rw [hp] at hspec
  cases hspec with
  | run ws _ _ _ hs hm =>
    obtain ⟨hrun, hstop, hhere⟩ := State.ready_of_sliceWaits (hs sl hsl)
    refine ⟨hrun, hstop, hhere, fun m hmem => ?_⟩
    have hw := hm sl hsl m hmem
    simp only [State.memberWaits, Bool.or_eq_false_iff] at hw
    obtain ⟨⟨⟨⟨hscore, _⟩, _⟩, _⟩, horder⟩ := hw
    exact ⟨fun l hl r hr => State.not_outstanding_of_scoreboard hscore hl hr, State.fenceReady_of_orderWait horder⟩

/-! ### A word that stands alone -/

/-- The packet is memory's where the instruction cache holds none of it (R20, R235). -/
theorem State.fetch_of_uncached {s : State} {sl pkt : Nat} {ps : List (Page × Nat)} (hl : s.fetchLines sl (packetLines pkt) = .ok (some ps)) (hc : s.cachedPacket sl pkt = []) :
    s.fetch sl pkt = .words (packetWords (s.fetchMem sl pkt ps)) (s.fetchMem sl pkt ps) ps := by
  simp [State.fetch, hl, hc]

theorem opOf_ne_ext_of_decode {w : Word} {i : Instr} {v : View} (hd : decode w = .ok i) (hv : view i = .word v) : opOf w.toNat ≠ 7 := by
  intro h7
  obtain ⟨_, rfl⟩ := (decode_iff_of_ext h7 i).mp hd
  cases hv

/-- A word that decodes and does without EXT heads its words (R21). -/
theorem firstInstr_of_decode {w : Word} {i : Instr} {v : View} (hd : decode w = .ok i) (hv : view i = .word v) (hx : v.extOk none = true) (idx : Nat) (rest : List (BitVec 32)) :
    firstInstr idx (w :: rest) = .ok (⟨i, v, none, idx⟩, rest) := by
  have h7 : isExt w = false := decide_eq_false (opOf_ne_ext_of_decode hd hv)
  have hill : v.ill = none := illFormed_of_view hv ▸ (wellFormed_iff i).mp (encode_of_decode hd).1
  simp [firstInstr, h7, member, hd, hv, hill, hx]

/-- A word that does not chain is its group (R23). -/
theorem groupFrom_of_unchained {n idx : Nat} {ws rest : List (BitVec 32)} {m : Member} (h : firstInstr idx ws = .ok (m, rest)) (hc : m.v.c = false) :
    groupFrom (n + 1) idx ws = .ok [m] false := by
  simp [groupFrom, h, hc]

/-- One instruction clashes with nothing (R24, R26). -/
theorem State.groupTrap_single (s : State) (sl : Nat) (m : Member) : s.groupTrap sl (.ok [m] false) = none := by
  have hp : pipeClash [m.v] = false := by
    have hn (f : View → Bool) : ([m.v].filter f).length ≤ 1 := List.length_filter_le _ _
    simp only [pipeClash, Bool.or_eq_false_iff, decide_eq_false_iff_not, Nat.not_lt]
    exact ⟨⟨⟨⟨hn _, hn _⟩, hn _⟩, hn _⟩, Nat.le_trans (hn _) (by decide)⟩
  have hc : s.clashLanes sl [m.v] = [] := by simp [State.clashLanes]
  simp [State.groupTrap, hp, hc]

/-- Where no slice owes a trap, was stepped or meets a breakpoint, a split whose group is one instruction issues it unless it waits. -/
theorem State.plan_of_single {s : State} {e sl : Nat} {ws : List (BitVec 32)} {bytes : List Byte} {pages : List (Page × Nat)} {m : Member} (hsl : (s.issuers e).head? = some sl)
    (hf : s.fetch sl (s.slice sl).pc = .words ws bytes pages) (hg : s.groupIn sl ws = .ok [m] false)
    (hy : ∀ y ∈ s.issuers e, (s.slice y).owed = none ∧ (s.slice y).stepped = false ∧ s.breakTrap y (s.slice sl).pc (s.slice sl).word m.idx = none)
    (hw : s.plan e ≠ .wait) : s.plan e = .run [m] bytes pages := by
  have hspec := State.planSpec_plan hsl
  generalize s.plan e = p at hw hspec
  cases hspec with
  | wait => exact absurd rfl hw
  | owed y hm h => rw [(hy y hm).1] at h; cases h
  | stepped y hm h => rw [(hy y hm).2.1] at h; cases h
  | fault _ h => rw [hf] at h; cases h
  | illegal _ _ _ hf' _ _ h =>
    cases hf.symm.trans hf'
    rw [hg] at h
    cases h
  | raised _ _ _ hf' y hm h =>
    cases hf.symm.trans hf'
    have hlast : s.lastWord sl (.ok [m] false) = m.idx := rfl
    rw [hg, s.groupTrap_single, hlast, (hy y hm).2.2] at h
    rcases h with h | h <;> cases h
  | run _ _ _ hf' =>
    cases hf.symm.trans hf'
    rw [hg]
    rfl

/-- A split whose group is a lone instruction executes it in the armed state. -/
theorem State.issueSplit_of_lone {s : State} {e sl : Nat} {ms : List Member} {m : Member} {bytes : List Byte} {pages : List (Page × Nat)} (hsl : (s.issuers e).head? = some sl)
    (hp : s.plan e = .run ms bytes pages) (hl : s.lone e ms = some m) : s.issueSplit e = exec m.i (s.armOne e (s.slice sl).pc m bytes pages) := by
  have hd : (s.byGslot (s.split e).slices).headD 0 = sl := by rw [List.headD_eq_head?_getD]; exact congrArg (·.getD 0) hsl
  simp only [State.issueSplit, hp, hl, hd]

theorem step_of_candidate {s : State} {c : Cand} (h : s.tickAc.candidates = [c]) : step s = s.tickAc.take c := by
  simp only [step, h]

/-- Settles O3: the word forms a group of its own, so the plan of its split, which does not wait, is to run it alone. -/
theorem stepRunsDecoded : Obligations.StepRunsDecoded := by
  unfold Obligations.StepRunsDecoded
  intro s e sl w32 ps w i v t x bytes hcand hplan hsl hword hlines hcache hw hd hv hc hx hy hwin
  have hin (y : Nat) (h : y ∈ t.issuers e) := hy y (State.mem_slices_of_mem_issuers h)
  obtain ⟨_, _, _, _, honly⟩ := hin sl (List.mem_of_mem_head? hsl)
  have hgroup : t.groupIn sl (packetWords bytes) = .ok [⟨i, v, none, w32⟩] false := by
    obtain ⟨hlt, hget⟩ := List.getElem?_eq_some_iff.mp hw
    have hfirst := firstInstr_of_decode hd hv hx w32 ((packetWords bytes).drop (w32 + 1))
    rw [← hget, ← List.drop_eq_getElem_cons hlt, ← hword] at hfirst
    rw [State.groupIn, show (t.slice sl).only = none from honly, ← hword]
    exact groupFrom_of_unchained hfirst hc
  have hrun : t.plan e = .run [⟨i, v, none, w32⟩] bytes ps :=
    State.plan_of_single hsl (State.fetch_of_uncached hlines hcache) hgroup (fun y h => by
      obtain ⟨hbreak, _, hstepped, howed, _⟩ := hin y h
      exact ⟨howed, hstepped, hword ▸ hbreak⟩) hplan
  have hlone : t.lone e [⟨i, v, none, w32⟩] = some ⟨i, v, none, w32⟩ :=
    if_pos ⟨rfl, hwin, List.all_eq_true.mpr (fun y h => by
      obtain ⟨_, hstepping, _, _, ho⟩ := hy y h
      simp only [hstepping, ho, Bool.not_false, Option.isNone_none, Bool.and_self])⟩
  calc step s = t.take (.issue e) := step_of_candidate hcand
    _ = t.issueSplit e := rfl
    _ = exec i (t.armOne e x.pc ⟨i, v, none, w32⟩ bytes ps) := State.issueSplit_of_lone hsl hrun hlone

end Sys2Proof.Machine
end

section
/-! A split in which one slice traps (R97): its other slices leave that slice, its pack and the issuing word alone, so that it enters its handler as from the state before the word. -/
namespace Sys2Proof.Machine

/-! ### A trap of another slice -/

/-- Two states agree on a slice, and on what decides where its trap goes: the packs and the word that issues. -/
def Spares (sl : Nat) (s t : State) : Prop := SliceEq sl s t ∧ t.ctl.packs = s.ctl.packs ∧ t.run = s.run

theorem Spares.refl (sl : Nat) (s : State) : Spares sl s s := ⟨SliceEq.refl sl s, rfl, rfl⟩
theorem Spares.trans {sl : Nat} {s t u : State} (h : Spares sl s t) (k : Spares sl t u) : Spares sl s u :=
  ⟨h.1.trans k.1, k.2.1.trans h.2.1, k.2.2.trans h.2.2⟩

theorem SameRegs.of_lanes (sl : Nat) {s t : State} (h : t.lanes = s.lanes) : SameRegs sl s t := by
  refine fun l _ => ⟨fun r _ => ⟨?_, ?_⟩, by rw [h], fun k _ => ?_⟩
  · unfold State.file; rw [h]
  · unfold State.poisoned; rw [h]
  · unfold State.idxOf; rw [h]

theorem SameRegs.trans {sl : Nat} {s t u : State} (h : SameRegs sl s t) (k : SameRegs sl t u) : SameRegs sl s u := by
  intro l hl
  obtain ⟨hreg, hpred, hidx⟩ := h l hl
  obtain ⟨kreg, kpred, kidx⟩ := k l hl
  exact ⟨fun r hr => ⟨(kreg r hr).1.trans (hreg r hr).1, (kreg r hr).2.trans (hreg r hr).2⟩, kpred.trans hpred, fun n hn => (kidx n hn).trans (hidx n hn)⟩

theorem Unwatched.congr {s t : State} {sl : Nat} (hp : t.ctl.packs = s.ctl.packs) (h : Unwatched s sl) : Unwatched t sl := by
  unfold Unwatched State.packOf State.pack at *
  rwa [hp]

/-- A slice of another pack is not among the slices of a pack. -/
theorem State.notMem_slicesOf {s : State} {p sl : Nat} (h : packKey sl ≠ p) : sl ∉ s.slicesOf p := by
  intro hm
  simp only [State.slicesOf, List.mem_map, List.mem_filter, Bool.and_eq_true, decide_eq_true_eq] at hm
  obtain ⟨e, ⟨_, hkey, _⟩, rfl⟩ := hm
  exact h hkey

theorem State.stopAll_other (l : List Nat) {sl : Nat} (h : sl ∉ l) (s : State) (hs : s.canon = true) :
    (l.foldl (fun s o => s.updSlice o (.stop true)) s).slice sl = s.slice sl ∧ (l.foldl (fun s o => s.updSlice o (.stop true)) s).ctl.packs = s.ctl.packs := by
  induction l generalizing s with
  | nil => exact ⟨rfl, rfl⟩
  | cons o l ih =>
    obtain ⟨hne, hl⟩ := List.ne_and_not_mem_of_not_mem_cons h
    obtain ⟨hslice, hpacks⟩ := ih hl (s.updSlice o (.stop true)) (State.canon_updSlice s o _ hs)
    exact ⟨hslice.trans (State.updSlice_other s o sl _ (State.canon_ctl s hs).1 hne), hpacks⟩

/-- A trap of one slice leaves another slice as it is, unless a debugger of their pack stops both (R104). -/
theorem State.takeTrap_other (s : State) (hs : s.canon = true) {sl x : Nat} (hx : sl ≠ x) (hw : Unwatched s sl) (t : Trap) :
    (s.takeTrap x t).slice sl = s.slice sl ∧ (s.takeTrap x t).ctl.packs = s.ctl.packs := by
  have hset (y : Slice) (f : List (Nat × Nat)) : ({ s with ctl := { s.ctl with slices := Sparse.set {} s.ctl.slices x y, fatal := f } } : State).slice sl = s.slice sl :=
    Sparse.get_set_other _ _ _ _ _ (State.canon_ctl s hs).1 hx
  unfold State.takeTrap
  extract_lets y p hm attached debug
  obtain ⟨⟨rp, rw_⟩, dist⟩ := s.resumeOf y t
  have hattached (he : packKey sl = packKey x) : attached = false := by
    have hp : p = s.packOf sl := by unfold p State.packOf; rw [he]
    unfold attached
    split
    · next d hd => exact hw d (hp ▸ hd)
    · rfl
  dsimp only
  split
  · next hstop =>
    have hpack : packKey sl ≠ packKey x := fun he => by simp [debug, hattached he] at hstop
    refine (State.stopAll_other _ ?_ _ (State.canon_setSlice s x _ _ hs)).imp (fun h => h.trans (hset _ _)) id
    split
    · exact List.not_mem_nil
    · exact fun h => State.notMem_slicesOf hpack (List.mem_filter.mp h).1
  · exact ⟨hset _ _, rfl⟩

theorem Act.trap_spares (s : State) (hs : s.canon = true) {sl x : Nat} (hx : sl ≠ x) (hw : Unwatched s sl) (t : Trap) : Spares sl s ((Act.trap x t).apply s) := by
  have hlanes : ((Act.trap x t).apply s).lanes = s.lanes := Act.keeps_lanes s (.trap x t) (by simp [Act.parts])
  have hrun : ((Act.trap x t).apply s).run = s.run := Act.keeps_run s (.trap x t) (by simp [Act.parts])
  obtain ⟨hslice, hpacks⟩ : ((Act.trap x t).apply s).slice sl = s.slice sl ∧ ((Act.trap x t).apply s).ctl.packs = s.ctl.packs := by
    rw [Act.apply, State.noteEntry_only]
    exact State.takeTrap_other { s with dev := (s.noteEntry x t).dev } hs hx hw t
  exact ⟨⟨hslice, SameRegs.of_lanes sl hlanes⟩, hpacks, hrun⟩

/-! ### The acts of another slice -/

/-- A change by which a lane-wise word acts in a slice: of the slice's own fields and lanes, or of the count of uniform results. -/
def Act.laneWork (x : Nat) : Act → Bool
  | .uniform _ _ => true
  | a => a.ownOf x

theorem Act.laneWork_fits {x : Nat} {a : Act} (h : a.laneWork x = true) : a.fits x = true := by
  cases a with
  | uniform q n => rfl
  | _ => exact Bool.or_eq_true _ _ |>.mpr (.inl h)

theorem Act.laneWork_spares (s : State) (hs : s.canon = true) {sl x : Nat} (hx : sl ≠ x) {a : Act} (h : a.laneWork x = true) : Spares sl s (a.apply s) := by
  refine ⟨Act.fits_other sl x s a hs (Act.laneWork_fits h) hx, ?_, ?_⟩
  · cases a <;> simp [Act.laneWork, Act.ownOf] at h
    case pred lane k b => simp only [Act.apply]; split <;> rfl
    all_goals rfl
  · refine Act.keeps_run s a ?_
    cases a <;> simp [Act.laneWork, Act.ownOf] at h <;> simp [Act.parts]

theorem advance_laneWork (c : Cur) (v : View) (x : Nat) : ∀ a ∈ advance c v x, a.laneWork x = true := by
  intro a ha
  rcases Act.mem_two ha with rfl | rfl <;> simp [Act.laneWork, Act.ownOf]

/-! ### A split with a slice that traps -/

/-- The effects of one slice of a word whose slices act one by one. -/
def resEffs (c : Cur) (v : View) (x : Nat) : Res → List Eff
  | .error t => [(some x, .trap x t)]
  | .ok as => tagged x (advance c v x ++ as)

theorem sliceEffs_eq (c : Cur) (v : View) (body : Nat → Res) : sliceEffs c v body = c.slices.flatMap (fun x => resEffs c v x (body x)) := by
  unfold sliceEffs
  refine congrArg (fun f => c.slices.flatMap f) (funext fun x => ?_)
  cases body x <;> rfl

theorem applyAll_spares {sl x : Nat} (hx : sl ≠ x) (as : List Act) (h : ∀ a ∈ as, a.laneWork x = true) (s : State) (hs : s.canon = true) : Spares sl s (applyAll s (tagged x as)) := by
  induction as generalizing s with
  | nil => exact Spares.refl sl s
  | cons a as ih =>
    exact (Act.laneWork_spares s hs hx (h a List.mem_cons_self)).trans (ih (fun b hb => h b (List.mem_cons_of_mem _ hb)) _ (Act.canon_apply s a hs))

theorem resEffs_spares (c : Cur) (v : View) {sl x : Nat} (hx : sl ≠ x) (r : Res) (hr : ∀ as, r = .ok as → ∀ a ∈ as, a.laneWork x = true) (s : State) (hs : s.canon = true)
    (hw : Unwatched s sl) : Spares sl s (applyAll s (resEffs c v x r)) := by
  cases r with
  | error t => exact Act.trap_spares s hs hx hw t
  | ok as => exact applyAll_spares hx _ (fun a ha => (List.mem_append.mp ha).elim (advance_laneWork c v x a) (hr as rfl a)) s hs

/-- The slices of a split, one after another, leave a slice alone that is none of them. -/
theorem sliceEffs_spares (c : Cur) (v : View) (body : Nat → Res) {sl : Nat} (ls : List Nat) (hsl : sl ∉ ls) (hb : ∀ x ∈ ls, ∀ as, body x = .ok as → ∀ a ∈ as, a.laneWork x = true)
    (s : State) (hs : s.canon = true) (hw : Unwatched s sl) : Spares sl s (applyAll s (ls.flatMap (fun x => resEffs c v x (body x)))) := by
  induction ls generalizing s with
  | nil => exact Spares.refl sl s
  | cons y ys ih =>
    obtain ⟨hy, hys⟩ := List.ne_and_not_mem_of_not_mem_cons hsl
    rw [List.flatMap_cons, applyAll_append]
    have hfirst := resEffs_spares c v hy (body y) (hb y List.mem_cons_self) s hs hw
    exact hfirst.trans (ih hys (fun x hx => hb x (List.mem_cons_of_mem _ hx)) _ (canon_applyAll s _ hs) (Unwatched.congr hfirst.2.1 hw))

/-- A trap that resumes neither at a place of its own nor after its word, so that the issuing group decides where (R39, R97). -/
def Trap.Placeless (t : Trap) : Prop := t.resume = none ∧ t.aft = false

/-- A slice is in no handler, has one to go to without a debugger's stop, and has no transient window open (R39, R97, R98, R104). -/
def State.Ready (s : State) (sl : Nat) : Prop :=
  hmOf (s.slice sl).trapcause = false ∧ (s.packOf sl).handler ≠ 0 ∧ Unwatched s sl ∧ (s.slice sl).trans = []

theorem State.Ready.congr {s t : State} {sl : Nat} (h : Spares sl s t) (hr : s.Ready sl) : t.Ready sl := by
  obtain ⟨hslice, hpacks, _⟩ := h
  obtain ⟨hh, hp, hw, htr⟩ := hr
  have hpack : t.packOf sl = s.packOf sl := by unfold State.packOf State.pack; rw [hpacks]
  exact ⟨hslice.1 ▸ hh, hpack ▸ hp, Unwatched.congr hpacks hw, hslice.1 ▸ htr⟩

/-- Without an open transient window such a trap resumes at the start of the issuing group (R39). -/
theorem State.resumeOf_closed {s : State} {c : Cur} {y : Slice} {t : Trap} (hc : s.run.cur = some c) (ht : t.Placeless) (hy : y.trans = []) :
    s.resumeOf y t = ((c.firstPkt, c.firstWord), 0) := by
  obtain ⟨hresume, haft⟩ := ht
  simp [State.resumeOf, State.openProducer, oldestTrans, hc, hresume, haft, hy]

/-- A trap of a slice with a handler restarts the issuing group after the handler, and writes no pack. -/
theorem State.takeTrap_restarts (s : State) (hs : s.canon = true) {c : Cur} (hc : s.run.cur = some c) {sl : Nat} {t : Trap} (ht : t.Placeless) (hr : s.Ready sl) :
    Handles s (s.takeTrap sl t) sl t.code t.info t.addr t.lanes false c.firstPkt c.firstWord ∧ (s.takeTrap sl t).ctl.packs = s.ctl.packs := by
  obtain ⟨hh, hp, hw, htr⟩ := hr
  obtain ⟨y, hy, hent⟩ := State.takeTrap_eq s sl t hh hp hw
  rw [State.resumeOf_closed hc ht htr] at hent
  have hread : (s.takeTrap sl t).slice sl = y := by
    rw [hy]
    exact Sparse.get_set_same _ _ _ _ (State.canon_ctl s hs).1
  exact ⟨ht.2 ▸ hent.handles hread, by rw [hy]⟩

theorem Act.trap_restarts (s : State) (hs : s.canon = true) {c : Cur} (hc : s.run.cur = some c) {sl : Nat} {t : Trap} (ht : t.Placeless) (hr : s.Ready sl) :
    Handles s ((Act.trap sl t).apply s) sl t.code t.info t.addr t.lanes false c.firstPkt c.firstWord ∧ ((Act.trap sl t).apply s).ctl.packs = s.ctl.packs := by
  rw [Act.apply, State.noteEntry_only]
  exact State.takeTrap_restarts { s with dev := (s.noteEntry sl t).dev } hs hc ht hr

/-- The effects of a split's slices, when one of them traps: it enters its handler, to restart the issuing group, and its registers keep their values, whatever the other slices do. -/
theorem sliceEffs_traps {s : State} {c : Cur} {v : View} (hs : s.canon = true) (hcur : s.run.cur = some c) (hnodup : c.slices.Nodup) (body : Nat → Res) {sl : Nat} {tr : Trap}
    (hsl : sl ∈ c.slices) (hb : body sl = .error tr) (ht : tr.Placeless) (hf : ∀ x as, body x = .ok as → ∀ a ∈ as, a.laneWork x = true) (hr : s.Ready sl) :
    Handles s (applyAll s (sliceEffs c v body)) sl tr.code tr.info tr.addr tr.lanes false c.firstPkt c.firstWord
      ∧ SameRegs sl s (applyAll s (sliceEffs c v body)) := by
  have ⟨_, _, hw, _⟩ := hr
  obtain ⟨pre, post, hslices⟩ := List.append_of_mem hsl
  rw [hslices, List.nodup_append, List.nodup_cons] at hnodup
  obtain ⟨_, ⟨hpost, _⟩, hdisjoint⟩ := hnodup
  have hpre : sl ∉ pre := fun h => hdisjoint sl h sl List.mem_cons_self rfl
  rw [sliceEffs_eq, hslices, List.flatMap_append, List.flatMap_cons, hb, applyAll_append, applyAll_append]
  have hbefore := canon_applyAll s (pre.flatMap (fun x => resEffs c v x (body x))) hs
  have hspared := sliceEffs_spares c v body pre hpre (fun x _ => hf x) s hs hw
  generalize applyAll s (pre.flatMap (fun x => resEffs c v x (body x))) = before at *
  obtain ⟨hslice, hpacks, hrun⟩ := hspared
  have hready : before.Ready sl := State.Ready.congr ⟨hslice, hpacks, hrun⟩ hr
  obtain ⟨hhandles, htrapPacks⟩ := Act.trap_restarts before hbefore (hrun ▸ hcur) ht hready
  have htrapRegs : SameRegs sl before ((Act.trap sl tr).apply before) := SameRegs.of_lanes sl (Act.keeps_lanes before (.trap sl tr) (by simp [Act.parts]))
  obtain ⟨hafter, _⟩ := sliceEffs_spares c v body post hpost (fun x _ => hf x) ((Act.trap sl tr).apply before) (Act.canon_apply _ _ hbefore) (Unwatched.congr (htrapPacks.trans hpacks) hw)
  exact ⟨Handles.congr hpacks.symm hafter.1 hhandles, (SameRegs.trans hslice.2 htrapRegs).trans hafter.2⟩

/-- Issuing a word whose slices act one by one, when a slice traps. -/
theorem issue_traps {i : Instr} {s : State} {c : Cur} {v : View} (hacts : Acts i s c v) (body : Cur → View → Nat → Res) {sl : Nat} {tr : Trap} (hsl : sl ∈ c.slices)
    (hb : body c v sl = .error tr) (ht : tr.Placeless) (hf : ∀ x as, body c v x = .ok as → ∀ a ∈ as, a.laneWork x = true) (hr : s.Ready sl) :
    ∃ t, issue i s body = .next t ∧ Handles s t sl tr.code tr.info tr.addr tr.lanes false c.firstPkt c.firstWord ∧ SameRegs sl s t := by
  obtain ⟨hs, hcur, hview, hill, hext, hnodup⟩ := hacts
  obtain ⟨hhandles, hregs⟩ := sliceEffs_traps (v := v) hs hcur hnodup (body c v) hsl hb ht hf hr
  have hend : issueEffs i s (fun c v => sliceEffs c v (body c v)) = sliceEffs c v (body c v) ++ [(none, .cur (some { c with ext := none })), (none, .settle)] := by
    simp only [issueEffs, hcur, hview, hill, hext, and_self, ↓reduceIte]
  have hlast : SliceEq sl (applyAll s (sliceEffs c v (body c v))) (applyAll s (issueEffs i s (fun c v => sliceEffs c v (body c v)))) := by
    rw [hend, applyAll_append]
    exact applyAll_quiet sl _ _ (by simp [Act.still])
  exact ⟨_, rfl, Handles.congr rfl hlast.1 hhandles, hregs.trans hlast.2⟩

end Sys2Proof.Machine
end

section
/-! The lane-wise instructions (05_integer R122) and the format words they read (06_arithmetic R147). -/
namespace Sys2Proof.Machine

/-! ### The acts of a lane-wise instruction -/

/-- A destination is no register, one register, or a pair. -/
def Opnd.narrow : Opnd → Bool
  | .v n _ _ _ => decide (n = 1) || decide (n = 2)
  | _ => true

/-- The instructions of laneFn are lane-wise: each is one call of `lanewise` with its function. -/
theorem exec_of_laneFn {i : Instr} {g : LaneIn → LaneOut} (h : laneFn i = some g) (s : State) : exec i s = lanewise i g s := by
  cases i <;> cases h <;> rfl

theorem narrow_of_laneFn {i : Instr} {g : LaneIn → LaneOut} {v : View} (h : laneFn i = some g) (hv : view i = .word v) : v.form.d.narrow = true := by
  cases i <;> cases h <;> cases hv <;> rfl

/-- The registers that a result is written into lie in the file. -/
theorem destWrites_bound (s : State) (v : View) (hd : v.form.d.narrow = true) (x l : Nat) (y : Dword) : ∀ w ∈ s.destWrites v x l y, w.1 = l ∧ w.2.1 < 256 := by
  intro w hw
  unfold State.destWrites at hw
  split at hw
  · next n _ _ _ hform =>
    rw [hform] at hd
    simp only [Opnd.narrow, Bool.or_eq_true, decide_eq_true_eq] at hd
    have hbound := regOf_bound s x l v.d n (by omega)
    dsimp only at hw
    split at hw
    · rw [List.mem_singleton.mp hw]
      exact ⟨rfl, by dsimp only; omega⟩
    · simp only [List.mem_cons, List.not_mem_nil, or_false] at hw
      rcases hw with rfl | rfl
      · exact ⟨rfl, by dsimp only; omega⟩
      · exact ⟨rfl, by dsimp only; omega⟩
  · cases hw

theorem tagActs_laneWork (s : State) (x : Nat) (ws : List (Nat × Nat × Word)) : ∀ a ∈ s.tagActs x ws, a.laneWork x = true := by
  intro a ha
  simp only [State.tagActs, List.mem_flatMap, List.mem_cons] at ha
  obtain ⟨r, _, rfl | ha⟩ := ha
  · simp [Act.laneWork, Act.ownOf]
  · split at ha
    · rw [List.mem_singleton.mp ha]; rfl
    · cases ha

theorem writeActs_laneWork (s : State) (v : View) (ext : Option (BitVec 25)) (x : Nat) (ws : List (Nat × Nat × Word)) (hws : ∀ w ∈ ws, w.1 < 4 ∧ w.2.1 < 256) :
    ∀ a ∈ s.writeActs v ext x ws, a.laneWork x = true := by
  intro a ha
  unfold State.writeActs at ha
  split at ha
  · split at ha
    · cases ha
    · rw [List.mem_singleton.mp ha]
      simp [Act.laneWork, Act.ownOf]
  · rcases List.mem_append.mp ha with ha | ha
    · obtain ⟨w, hw, rfl⟩ := List.mem_map.mp ha
      obtain ⟨hlane, hreg⟩ := hws w hw
      simp [Act.laneWork, Act.ownOf, laneKey_div x w.1 hlane, hreg]
    · exact tagActs_laneWork s x ws a ha

theorem flagActs_laneWork (s : State) (v : View) (x : Nat) (flags : BitVec 8) : ∀ a ∈ s.flagActs v x flags, a.laneWork x = true := by
  intro a ha
  unfold State.flagActs at ha
  split at ha
  · cases ha
  · rcases Act.mem_two ha with rfl | rfl <;> simp [Act.laneWork, Act.ownOf]

/-- Without an invalid format word, a lane-wise instruction changes only its own slice's lanes and fields. -/
theorem lanesRes_laneWork (s : State) (v : View) (hd : v.form.d.narrow = true) (x : Nat) (ls : List Nat) (hls : ∀ l ∈ ls, l < 4) (f : LaneIn → LaneOut) {as : List Act}
    (h : s.lanesRes v x ls f = .ok as) : ∀ a ∈ as, a.laneWork x = true := by
  unfold State.lanesRes at h
  dsimp only at h
  have hflags := flagActs_laneWork s v x ((ls.map (fun l => (l, f (s.laneIn v x l)))).foldl (fun acc o => acc ||| o.2.flags) 0)
  have hlane : ∀ o ∈ ls.map (fun l => (l, f (s.laneIn v x l))), o.1 < 4 := by
    intro o ho
    obtain ⟨l, hl, rfl⟩ := List.mem_map.mp ho
    exact hls l hl
  split at h
  · cases h
  · split at h
    · cases h
      refine List.forall_mem_append.mpr ⟨List.forall_mem_map.mpr (fun o ho => ?_), hflags⟩
      simp [Act.laneWork, Act.ownOf, laneKey_div x o.1 (hlane o ho)]
    · cases h
      refine List.forall_mem_append.mpr ⟨List.forall_mem_map.mpr (fun o ho => ?_), hflags⟩
      simp [Act.laneWork, Act.ownOf, laneKey_div x o.1 (hlane o ho), Nat.mod_lt]
    · cases h
      refine List.forall_mem_append.mpr ⟨writeActs_laneWork s v s.ext x _ (fun w hw => ?_), hflags⟩
      obtain ⟨o, ho, hw⟩ := List.mem_flatMap.mp hw
      obtain ⟨hfst, hreg⟩ := destWrites_bound s v hd x o.1 o.2.v w hw
      exact ⟨hfst ▸ hlane o ho, hreg⟩

/-! ### Format words (R147) -/

/-- The first of the lanes that hold an invalid word, with its word. -/
theorem badWords_head (bad : Nat → Option Word) {l : Nat} {w : Word} (ls : List Nat) (hl : ls.find? (fun l => (bad l).isSome) = some l) (hw : bad l = some w) :
    (ls.filterMap (fun l => (bad l).map (fun w => (l, w)))).head? = some (l, w) := by
  obtain ⟨_, before, after, rfl, hnone⟩ := List.find?_eq_some_iff_append.mp hl
  have hbefore : before.filterMap (fun l => (bad l).map (fun w => (l, w))) = [] := by
    refine List.filterMap_eq_nil_iff.mpr (fun a ha => ?_)
    simpa using hnone a ha
  simp [hbefore, hw]

/-- All lanes that hold one. -/
theorem badWords_lanes (bad : Nat → Option Word) (ls : List Nat) : (ls.filterMap (fun l => (bad l).map (fun w => (l, w)))).map Prod.fst = ls.filter (fun l => (bad l).isSome) := by
  induction ls with
  | nil => rfl
  | cons l ls ih => cases h : bad l <;> simp [h, ih]

/-- The trap of an invalid format word: the word of the lowest lane that holds one, and the lanes that do. -/
theorem lanesRes_of_bad (s : State) (v : View) (x : Nat) (ls : List Nat) (f : LaneIn → LaneOut) {l : Nat} {w : Word}
    (hl : ls.find? (fun l => (f (s.laneIn v x l)).bad.isSome) = some l) (hw : (f (s.laneIn v x l)).bad = some w) :
    s.lanesRes v x ls f = .error { code := 0x15, info := v.op, addr := w.setWidth 64, lanes := laneMask (ls.filter (fun l => (f (s.laneIn v x l)).bad.isSome)) } := by
  have hhead := badWords_head (fun l => (f (s.laneIn v x l)).bad) ls hl hw
  have hlanes := badWords_lanes (fun l => (f (s.laneIn v x l)).bad) ls
  unfold State.lanesRes
  dsimp only
  rw [List.filterMap_map]
  simp only [Function.comp_def]
  split
  · next l' w' rest hbad =>
    rw [hbad] at hhead
    cases hhead
    rw [← hlanes]
  · next hbad =>
    rw [hbad] at hhead
    cases hhead

theorem tested_of_none {s : State} {v : View} {sl : Nat} {ls : List Nat} (h : s.operandTrap v s.ext sl ls = none) (body : Unit → Res) : s.tested v sl ls body = body () := by
  unfold State.tested
  rw [h]

/-- What acts after the operand tests are the body's acts. -/
theorem body_of_tested {s : State} {v : View} {sl : Nat} {ls : List Nat} {body : Unit → Res} {as : List Act} (h : s.tested v sl ls body = .ok as) : body () = .ok as := by
  unfold State.tested at h
  split at h
  · cases h
  · exact h

/-- Settles O10: the tests of the slice's operands pass, so its lanes' format words are looked at, and the lowest invalid one traps the slice. -/
theorem formatTrap : Obligations.FormatTrap := by
  unfold Obligations.FormatTrap
  intro i g s c v sl l w hg hacts hsl hpass hl hw hh hp hwatch htr
  have ⟨_, hcur, hview, _⟩ := hacts
  have hext : s.ext = c.ext := by unfold State.ext; rw [hcur]; rfl
  rw [Passes, ← hext] at hpass
  have htrap := (tested_of_none hpass (fun _ => s.lanesRes v sl (s.activeLanes sl v.pg) g)).trans (lanesRes_of_bad s v sl _ g hl hw)
  obtain ⟨t, hnext, hhandles, hregs⟩ := issue_traps hacts (fun _ v x => s.tested v x (s.activeLanes x v.pg) (fun _ => s.lanesRes v x (s.activeLanes x v.pg) g)) hsl htrap
    ⟨rfl, rfl⟩ (fun x _ h => lanesRes_laneWork s v (narrow_of_laneFn hg hview) x _ (fun _ => activeLanes_lt) g (body_of_tested h)) ⟨hh, hp, hwatch, htr⟩
  exact ⟨t, (exec_of_laneFn hg s).trans hnext, hhandles, fun l hl r hr => ((hregs l hl).1 r hr).1⟩

end Sys2Proof.Machine
end

section
/-! The lane-wise instructions that write a predicate (05_integer R120, R122), and the classes of FP32 values (07_float R171). -/
namespace Sys2Proof.Machine

/-! ### Writes of a predicate -/

@[simp] theorem Act.pred_slice (s : State) (lane k : Nat) (b : Bool) (x : Nat) : ((Act.pred lane k b).apply s).slice x = s.slice x := by
  rw [Act.apply]
  split <;> rfl

theorem Act.pred_predOf_other (s : State) (hs : s.canon = true) {lane lane' : Nat} (h : lane' ≠ lane) (k k' : Nat) (b : Bool) :
    ((Act.pred lane k b).apply s).predOf lane' k' = s.predOf lane' k' := by
  obtain ⟨_, _, hpred, _⟩ := State.canon_files s hs
  rw [Act.apply]
  split
  · rfl
  · rw [State.predOf, Sparse.get_set_other _ _ _ _ _ hpred h, State.predOf]

/-- Bit k of a predicate byte after its bit k has been set or cleared. -/
theorem getLsbD_putBit (old : BitVec 8) {k : Nat} (hk : k < 8) (b : Bool) :
    (if b then old ||| BitVec.ofNat 8 (2 ^ k) else old &&& ~~~(BitVec.ofNat 8 (2 ^ k))).getLsbD k = b := by
  have hbit : (BitVec.ofNat 8 (2 ^ k)).getLsbD k = true := by rw [BitVec.getLsbD_ofNat, Nat.testBit_two_pow_self, decide_eq_true hk]; rfl
  cases b
  · rw [if_neg Bool.false_ne_true, BitVec.getLsbD_and, BitVec.getLsbD_not, hbit, Bool.not_true, Bool.and_false, Bool.and_false]
  · rw [if_pos rfl, BitVec.getLsbD_or, hbit, Bool.or_true]

/-- A predicate holds what was written into it, but p0 stays true (R120). -/
theorem Act.pred_predOf_same (s : State) (hs : s.canon = true) (lane : Nat) {k : Nat} (hk : k < 8) (b : Bool) :
    ((Act.pred lane k b).apply s).predOf lane k = (decide (k = 0) || b) := by
  obtain ⟨_, _, hpred, _⟩ := State.canon_files s hs
  rw [Act.apply]
  split
  · next h => simp [State.predOf, h]
  · rw [State.predOf, Sparse.get_set_same _ _ _ _ hpred, getLsbD_putBit _ hk]

/-- Writes of predicate k in some lanes of a slice. -/
def predActs (sl k : Nat) (ls : List Nat) (b : Nat → Bool) : List Act := ls.map (fun l => .pred (laneKey sl l) k (b l))

theorem predActs_predOf (s : State) (hs : s.canon = true) (sl : Nat) {k : Nat} (hk : k < 8) (ls : List Nat) (b : Nat → Bool) (l : Nat) :
    (applyAll s (tagged sl (predActs sl k ls b))).predOf (laneKey sl l) k = if l ∈ ls then decide (k = 0) || b l else s.predOf (laneKey sl l) k := by
  induction ls generalizing s with
  | nil => simp [predActs, tagged]
  | cons m ls ih =>
    have hrest := ih ((Act.pred (laneKey sl m) k (b m)).apply s) (Act.canon_apply s _ hs)
    refine hrest.trans ?_
    by_cases hl : l = m
    · simp [hl, Act.pred_predOf_same s hs _ hk]
    · have hkey : laneKey sl l ≠ laneKey sl m := by unfold laneKey; omega
      simp [hl, Act.pred_predOf_other s hs hkey]

theorem predActs_slice (s : State) (sl k : Nat) (ls : List Nat) (b : Nat → Bool) (x : Nat) : (applyAll s (tagged sl (predActs sl k ls b))).slice x = s.slice x := by
  induction ls generalizing s with
  | nil => rfl
  | cons m ls ih => exact (ih _).trans (Act.pred_slice s _ k (b m) x)

/-! ### Where a slice stands after a word -/

/-- A slice after two updates of it. -/
theorem State.updSlice_twice (s : State) (hs : s.canon = true) (x : Nat) (u w : SliceUpd) : ((s.updSlice x u).updSlice x w).slice x = ((s.slice x).upd u).upd w := by
  rw [State.updSlice_same _ _ _ (State.canon_ctl _ (State.canon_updSlice s x u hs)).1, State.updSlice_same _ _ _ (State.canon_ctl s hs).1]

theorem advance_wentOn (s : State) (hs : s.canon = true) (c : Cur) (v : View) (sl : Nat) : WentOn c (applyAll s (tagged sl (advance c v sl))) sl := by
  have hslice : (applyAll s (tagged sl (advance c v sl))).slice sl = ((s.slice sl).upd (.tick v.bypass)).upd (.goto c.nextPkt c.nextWord) :=
    State.updSlice_twice s hs sl _ _
  rw [WentOn, hslice]
  exact ⟨rfl, rfl⟩

theorem WentOn.congr {c : Cur} {s t : State} {sl : Nat} (h : t.slice sl = s.slice sl) (hw : WentOn c s sl) : WentOn c t sl := by
  unfold WentOn at *
  rwa [h]

/-- The flags that a word raises move no slice. -/
theorem flagActs_wentOn {c : Cur} {u : State} (hu : u.canon = true) (s : State) (v : View) {sl : Nat} (flags : BitVec 8) (h : WentOn c u sl) :
    WentOn c (applyAll u (tagged sl (s.flagActs v sl flags))) sl := by
  unfold State.flagActs
  split
  · exact h
  · have hslice := State.updSlice_twice u hu sl (.flags flags) (.flight (s.run.ac + v.latency) s.run.ac flags)
    exact ⟨(congrArg Slice.pc hslice).trans h.1, (congrArg Slice.word hslice).trans h.2⟩

@[simp] theorem flagActs_lanes (u s : State) (v : View) (sl : Nat) (flags : BitVec 8) : (applyAll u (tagged sl (s.flagActs v sl flags))).lanes = u.lanes := by
  unfold State.flagActs
  split <;> rfl

theorem tagged_append (sl : Nat) (as bs : List Act) : tagged sl (as ++ bs) = tagged sl as ++ tagged sl bs := List.map_append

theorem State.ext_of_cur {s : State} {c : Cur} (h : s.run.cur = some c) : s.ext = c.ext := by
  rw [State.ext, h]
  rfl

/-! ### A lane-wise instruction that writes a predicate -/

/-- The flags of all lanes, joined. -/
def State.lanesFlags (s : State) (v : View) (sl : Nat) (ls : List Nat) (f : LaneIn → LaneOut) : BitVec 8 :=
  (ls.map (fun l => (l, f (s.laneIn v sl l)))).foldl (fun acc o => acc ||| o.2.flags) 0

/-- What a lane-wise instruction with a predicate in D does in some lanes: it writes the predicate in each, and raises their flags. -/
def State.predWork (s : State) (v : View) (sl : Nat) (ls : List Nat) (f : LaneIn → LaneOut) : List Act :=
  predActs sl (v.d % 8) ls (fun l => (f (s.laneIn v sl l)).v.getLsbD 0) ++ s.flagActs v sl (s.lanesFlags v sl ls f)

theorem lanesRes_pred (s : State) (v : View) (hd : v.form.d = .p) (sl : Nat) (ls : List Nat) (f : LaneIn → LaneOut) (hbad : ∀ l ∈ ls, (f (s.laneIn v sl l)).bad = none) :
    s.lanesRes v sl ls f = .ok (s.predWork v sl ls f) := by
  have hnone : (ls.map (fun l => (l, f (s.laneIn v sl l)))).filterMap (fun o => o.2.bad.map (fun w => (o.1, w))) = [] := by
    refine List.filterMap_eq_nil_iff.mpr (List.forall_mem_map.mpr (fun l hl => ?_))
    simp [hbad l hl]
  unfold State.lanesRes State.predWork predActs State.lanesFlags
  simp only [hnone, hd, List.map_map, Function.comp_def]

theorem predWork_wentOn {c : Cur} {u : State} (hu : u.canon = true) (s : State) (v : View) {sl : Nat} (ls : List Nat) (f : LaneIn → LaneOut) (h : WentOn c u sl) :
    WentOn c (applyAll u (tagged sl (s.predWork v sl ls f))) sl := by
  rw [State.predWork, tagged_append, applyAll_append]
  exact flagActs_wentOn (canon_applyAll _ _ hu) s v _ (WentOn.congr (predActs_slice u sl _ _ _ sl) h)

theorem predWork_predOf {u : State} (hu : u.canon = true) (s : State) (v : View) (sl : Nat) {ls : List Nat} (f : LaneIn → LaneOut) {l : Nat} (hl : l ∈ ls) :
    (applyAll u (tagged sl (s.predWork v sl ls f))).predOf (laneKey sl l) (v.d % 8) = (decide (v.d % 8 = 0) || (f (s.laneIn v sl l)).v.getLsbD 0) := by
  rw [State.predWork, tagged_append, applyAll_append, State.predOf, flagActs_lanes, ← State.predOf]
  exact (predActs_predOf u hu sl (Nat.mod_lt _ (by decide)) ls _ l).trans (if_pos hl)

/-- With no operand test failing and no invalid format word, such a word completes, and the predicate holds bit 0 of its function's value in every active lane. -/
theorem lanewise_pred_completes {i : Instr} {g : LaneIn → LaneOut} {s : State} {c : Cur} {v : View} (hg : laneFn i = some g) (hacts : Acts i s c v) (hd : v.form.d = .p)
    (hpass : ∀ x ∈ c.slices, Passes s c v x (s.activeLanes x v.pg)) (hbad : ∀ x ∈ c.slices, ∀ l ∈ s.activeLanes x v.pg, (g (s.laneIn v x l)).bad = none) :
    Completes i s c (fun t sl => ∀ l ∈ s.activeLanes sl v.pg, t.predOf (laneKey sl l) (v.d % 8) = (decide (v.d % 8 = 0) || (g (s.laneIn v sl l)).v.getLsbD 0)) := by
  obtain ⟨hs, hcur, hview, hill, hxok, hnodup⟩ := hacts
  have hbody : ∀ x ∈ c.slices, s.tested v x (s.activeLanes x v.pg) (fun _ => s.lanesRes v x (s.activeLanes x v.pg) g) = .ok (s.predWork v x (s.activeLanes x v.pg) g) := by
    intro x hx
    have hp := hpass x hx
    rw [Passes, ← State.ext_of_cur hcur] at hp
    exact (tested_of_none hp _).trans (lanesRes_pred s v hd x _ g (hbad x hx))
  have hfits : ∀ x ∈ c.slices, ∀ a ∈ s.predWork v x (s.activeLanes x v.pg) g, a.fits x = true := fun x hx a ha =>
    Act.laneWork_fits (lanesRes_laneWork s v (narrow_of_laneFn hg hview) x _ (fun _ => activeLanes_lt) g (body_of_tested (hbody x hx)) a ha)
  obtain ⟨t, hnext, heq⟩ := issue_slices i s (fun _ v x => s.tested v x (s.activeLanes x v.pg) (fun _ => s.lanesRes v x (s.activeLanes x v.pg) g)) c v _ hs hcur hview hill hxok hnodup hbody hfits
  refine ⟨t, (exec_of_laneFn hg s).trans hnext, fun sl hsl => ?_⟩
  have hadvanced := canon_applyAll s (tagged sl (advance c v sl)) hs
  obtain ⟨hslice, hlanes⟩ := heq sl
  rw [if_pos hsl, tagged_append, applyAll_append] at hslice hlanes
  refine ⟨WentOn.congr hslice (predWork_wentOn hadvanced s v _ g (advance_wentOn s hs c v sl)), fun l hl => ?_⟩
  obtain ⟨_, hpred, _⟩ := hlanes l (activeLanes_lt hl)
  rw [State.predOf, hpred, ← State.predOf]
  exact predWork_predOf hadvanced s v sl g hl

/-! ### The fields of an FP32 value (06_arithmetic R141) -/

/-- The exponent field, bits 30 to 23. -/
def f32Exp (c : Nat) : Nat := c / 2 ^ 23 % 256
/-- The mantissa field, bits 22 to 0. -/
def f32Man (c : Nat) : Nat := c % 2 ^ 23

theorem f32_mag_exp (c : Nat) : f32.mag c / 2 ^ 23 = f32Exp c := by
  simp only [Fmt.mag, f32, f32Exp]; omega

theorem f32_mag_man (c : Nat) : f32.mag c % 2 ^ 23 = f32Man c := by
  simp only [Fmt.mag, f32, f32Man]; omega

theorem f32_sign {c : Nat} (hc : c < 2 ^ 32) : f32.sign c = decide (c / 2 ^ 31 = 1) := by
  have hdef : f32.sign c = decide (c / 2 ^ 31 % 2 = 1) := rfl
  rw [hdef, Nat.mod_eq_of_lt (by omega)]

/-- Scaling keeps zero apart from the other magnitudes. -/
theorem scaled_eq_fin (neg : Bool) (n : Nat) (q : Int) : ∃ k d, scaled neg n q = .fin neg k d ∧ (k = 0 ↔ n = 0) := by
  unfold scaled
  split
  · have hpow : 2 ^ q.toNat ≠ 0 := Nat.ne_of_gt (Nat.two_pow_pos q.toNat)
    exact ⟨_, _, rfl, fun h => (Nat.mul_eq_zero.mp h).resolve_right hpow, fun h => by rw [h, Nat.zero_mul]⟩
  · exact ⟨_, _, rfl, Iff.rfl⟩

theorem f32_dec_special {c : Nat} (h : f32Exp c = 255) : f32.dec c = if f32Man c = 0 then .inf (f32.sign c) else .nan := by
  rw [← f32_mag_exp] at h
  rw [← f32_mag_man, Fmt.dec]
  exact if_pos ⟨rfl, h⟩

/-- A code whose exponent is not all ones is a finite value, and zero only when both fields are. -/
theorem f32_dec_finite {c : Nat} (h : f32Exp c ≠ 255) : ∃ k d, f32.dec c = .fin (f32.sign c) k d ∧ (k = 0 ↔ f32Exp c = 0 ∧ f32Man c = 0) := by
  have hdec : f32.dec c = if f32Exp c = 0 then scaled (f32.sign c) (f32Man c) (1 - 127 - 23) else scaled (f32.sign c) (2 ^ 23 + f32Man c) (Int.ofNat (f32Exp c) - 127 - 23) := by
    rw [← f32_mag_exp] at h
    rw [← f32_mag_exp, ← f32_mag_man, Fmt.dec]
    exact (if_neg (fun hspecial => h hspecial.2)).trans ((if_neg (fun hsp => absurd hsp.1 (by decide))).trans (if_neg (by decide)))
  by_cases hz : f32Exp c = 0
  · obtain ⟨k, d, hfin, hzero⟩ := scaled_eq_fin (f32.sign c) (f32Man c) (1 - 127 - 23)
    exact ⟨k, d, by rw [hdec, if_pos hz, hfin], by simp [hzero, hz]⟩
  · obtain ⟨k, d, hfin, hzero⟩ := scaled_eq_fin (f32.sign c) (2 ^ 23 + f32Man c) (Int.ofNat (f32Exp c) - 127 - 23)
    exact ⟨k, d, by rw [hdec, if_neg hz, hfin], by simp [hzero, hz]⟩

theorem f32_isNan (c : Nat) : f32.isNan c = decide (f32Exp c = 255 ∧ f32Man c ≠ 0) := by
  by_cases he : f32Exp c = 255
  · by_cases hm : f32Man c = 0 <;> simp [Fmt.isNan, f32_dec_special he, he, hm]
  · obtain ⟨k, d, hfin, _⟩ := f32_dec_finite he
    simp [Fmt.isNan, hfin, he]

theorem f32_isSnan (c : Nat) : f32.isSnan c = decide (f32Exp c = 255 ∧ f32Man c ≠ 0 ∧ f32Man c / 2 ^ 22 = 0) := by
  have hquiet : f32.mag c / 2 ^ 22 % 2 = f32Man c / 2 ^ 22 := by simp only [Fmt.mag, f32, f32Man]; omega
  have hdef : f32.isSnan c = (f32.isNan c && decide (f32.mag c / 2 ^ 22 % 2 = 0)) := rfl
  rw [hdef, hquiet, f32_isNan, ← Bool.decide_and, decide_eq_decide, and_assoc]

theorem f32_isSub (c : Nat) : f32.isSub c = decide (f32Exp c = 0 ∧ f32Man c ≠ 0) := by
  have hdef : f32.isSub c = (decide (f32.mag c ≠ 0) && decide (f32.mag c / 2 ^ 23 = 0)) := rfl
  have hexp := f32_mag_exp c
  have hman := f32_mag_man c
  rw [hdef, ← Bool.decide_and, decide_eq_decide]
  omega

/-! ### The classes (R171) -/

/-- The class of an FP32 value by its sign and fields. -/
def classOf (neg : Bool) (e m : Nat) : Nat :=
  if e = 255 then (if m = 0 then (if neg then 2 else 9) else if m / 2 ^ 22 = 1 then 1 else 0)
  else if e = 0 then (if m = 0 then (if neg then 5 else 6) else if neg then 4 else 7) else if neg then 3 else 8

theorem fclass_eq (c : Nat) : fclass c = classOf (f32.sign c) (f32Exp c) (f32Man c) := by
  by_cases he : f32Exp c = 255
  · rw [fclass, f32_isSnan, f32_dec_special he, classOf]
    by_cases hm : f32Man c = 0
    · simp [he, hm]
    · have hquiet : f32Man c / 2 ^ 22 = 0 ∨ f32Man c / 2 ^ 22 = 1 := by unfold f32Man; omega
      rcases hquiet with hq | hq <;> rw [hq] <;> simp [he, hm]
  · obtain ⟨k, d, hfin, hzero⟩ := f32_dec_finite he
    rw [fclass, f32_isSnan, f32_isSub, hfin, classOf]
    by_cases hz : f32Exp c = 0
    · by_cases hm : f32Man c = 0 <;> simp [hz, hm, hzero]
    · simp [he, hz, hzero]

theorem classOf_lt (neg : Bool) (e m : Nat) : classOf neg e m < 32 := by
  unfold classOf
  repeat' split
  all_goals decide

theorem outP_bit (p : Bool) : (outP p).v.getLsbD 0 = p := by cases p <;> rfl

/-- FSET.CLASS takes the bit of B that A's fields name; bits 31 to 10 of B are ignored, as no class is above 9. -/
theorem fnFsetClass_bit (q : LaneIn) : (fnFsetClass q).v.getLsbD 0 = q.b.getLsbD (classOf (decide (q.af / 2 ^ 31 = 1)) (f32Exp q.af) (f32Man q.af)) := by
  have hsign : f32.sign q.af = decide (q.af / 2 ^ 31 = 1) := f32_sign q.aw.isLt
  rw [fnFsetClass, outP_bit, fclass_eq, hsign, LaneIn.bw, BitVec.getLsbD_setWidth, decide_eq_true (classOf_lt _ _ _), Bool.true_and]

/-- Settles O7: FSET.CLASS is lane-wise with a predicate in D, and the class that its function looks up in B is the one A's fields name. -/
theorem classBits : Obligations.ClassBits := by
  unfold Obligations.ClassBits
  intro f s c v hacts hpass
  have ⟨_, hcur, hview, _⟩ := hacts
  have hd : v.form.d = .p := by cases hview; rfl
  obtain ⟨t, hnext, hdone⟩ := lanewise_pred_completes (g := fnFsetClass) rfl hacts hd hpass (fun _ _ _ _ => rfl)
  refine ⟨t, hnext, fun sl hsl => (hdone sl hsl).imp id (fun hpred l hl => ?_)⟩
  have ha : (s.laneIn v sl l).af = (s.valA v sl l).toNat % 2 ^ 32 := BitVec.toNat_setWidth ..
  have hb : (s.laneIn v sl l).b = s.valB v c.ext sl l := by rw [← State.ext_of_cur hcur]; rfl
  rw [hpred l hl, fnFsetClass_bit, ha, hb]
  rfl

end Sys2Proof.Machine
end
